-- ==== Sys2Proof/Config.lean ====
section
/-! DEFINITION. What one implementation fixes, and the free values: constants without a body, of which nothing
can be proved, for every value that the spec leaves open. -/

namespace Sys2Proof.Config

/-- Free value number `n` of width `w` (log 2): taken wherever the spec leaves a result open. -/
opaque freeValue (w : Nat) (n : Nat) : BitVec w

/-- The byte at an offset of the window of workgroup `wid` that an earlier workgroup of the context left there (R333). -/
opaque leftByte (wid offset : Nat) : BitVec 8

/-- Ticks of CLOCK (R196) that pass before step number `n`; latencies are not architected (log 8). -/
opaque freeTicks (n : Nat) : BitVec 32

/-- The set of an L1 that holds a line; the spec gives 128 sets and no index function (R58). -/
opaque l1Set (line : Nat) : BitVec 7

/-- The set of an L2 slice that holds a line; the spec gives 128 sets and no index function (R58, R199). -/
opaque l2Set (line : Nat) : BitVec 7

/-- Which of the up to four expanders behind a port holds an address (R359): the switch's decoders say it. -/
opaque expander (pa : Nat) : BitVec 2

/-- Which of the two bridge dies of a CB7-L serves the channel of a line (R361): the spec gives no interleaving. -/
opaque bridge (line : Nat) : BitVec 1

/-- The bits of a special function (R248) where the spec gives only a bound: one fixed function of the
function's code and the FP32 input bits (log 16). -/
opaque special (fn : Nat) (a : BitVec 32) : BitVec 32

/-- SM4-GCM under a 128-bit key (R330): cipher text of a byte string, with nonce and additional data. -/
opaque sealBody (key nonce : BitVec 128) (aad body : List Byte) : List Byte
/-- The tag of the same sealing. -/
opaque sealTag (key nonce : BitVec 128) (aad body : List Byte) : BitVec 128
/-- The inverse of `sealBody` for a text that the engine sealed. -/
opaque openBody (key nonce : BitVec 128) (aad body : List Byte) : List Byte
/-- SM4-XTS of a 128-byte line under the keys of a world, and its inverse (R366). -/
opaque xtsEnc (world : BitVec 8) (line : Nat) (l : List Byte) : List Byte
opaque xtsDec (world : BitVec 8) (line : Nat) (l : List Byte) : List Byte
/-- Key number `n` of the context engine's random source (R367). -/
opaque freshKey (n : Nat) : BitVec 128
/-- SM3 digest of a byte string (R364, R379, R402). -/
opaque sm3 (m : List Byte) : BitVec 256
/-- SM2 signature by the device identity key over a message (R379, R399, R402). -/
opaque sm2Sign (m : List Byte) : BitVec 512
/-- Does the signature verify against the public key over the message (R364, R365)? -/
opaque sm2Verify (key : BitVec 512) (m : List Byte) (sig : BitVec 512) : Bool
/-- The Plihar certificate chain that the device stores (R401). -/
opaque certificates (n : Nat) : List Byte
/-- A measurement block's content that the fuses and the firmware after so many updates give (R397, R402). -/
opaque measurement (index updates : Nat) : List Byte
/-- The device's reply to an SPDM request other than GET_MEASUREMENTS and the certificate chain: requests that went before it, with
which its sessions and their keys stand, and the firmware (R402). -/
opaque spdmReply (before : List (List Byte)) (updates : Nat) (request : List Byte) : List Byte
/-- How a dump lays out the registers of the dies and the queues of the engines, sections 1 and 5 (R399, log 43). -/
opaque dumpLayout (kind : Nat) (content : List Nat) : List Byte
/-- Where a relocation record's place lies in `.data` and in `.const`: is it for `.data` (R280, log 61)? -/
opaque relocInData (off : Nat) : Bool

end Sys2Proof.Config
end

