-- ==== Sys2Proof/Syntax.lean ====
section
/-! DEFINITION. The syntax of XIR-1: operand selectors, field codes, word formats (R150 to R168) and the one
type of instructions. A row of the opcode table that has no encoding is an event of the machine; it is a constructor
too, and its arguments name what it acts on. -/

namespace Sys2Proof

/-- An 8-bit operand selector (R161). -/
inductive Sel where
  | v (i : Fin 192)
  | s (i : Fin 48)
  | w (i : Fin 8)
  | q (i : Fin 4)
  | lit
  | zero
  | tid
  | bad
  deriving DecidableEq, Repr

/-- The TYPE codes (R165); `n32` and `n64` are also `.b32` and `.b64`. -/
inductive Ty where
  | i8 | i16 | i32 | i64 | n8 | n16 | n32 | n64 | f64 | f32 | f16 | bf16 | e4m3 | e5m2 | e2m1 | o4
  deriving DecidableEq, Repr

/-- The ORD codes (R166). -/
inductive Ord where
  | rlx | acq | rel | ar
  deriving DecidableEq, Repr

/-- The SCOPE codes (R166); code 7 is illegal and decodes to nothing. -/
inductive Scope where
  | grp | wg | gang | clu | die | dev | sys
  deriving DecidableEq, Repr

/-- The rounding modes (R92); codes 5 to 7 are illegal and decode to nothing. -/
inductive Rnd where
  | rne | rz | rd | ru | rs
  deriving DecidableEq, Repr

/-- The engine classes of a clause header (R140); code 7 is reserved. -/
inductive Class where
  | scalar | vector | memory | matrix | async | control | heap
  deriving DecidableEq, Repr

/-- The guard field of R151: predicate `p`, negated when `neg`. -/
structure Guard where
  neg : Bool
  p : Fin 8
  deriving DecidableEq, Repr

/-- The unguarded form: GN 0, GP 7. -/
def Guard.none : Guard := ⟨false, 7⟩

/-- A scalar index field outside format U (R160): s0 to s47, or 63 for no operand. -/
abbrev SIdx := Option (Fin 48)

/-- The SD field of format U (R152). -/
inductive UDst where
  | s (i : Fin 48)
  | q (i : Fin 4)
  | discard
  deriving DecidableEq, Repr

/-- Format U (R152). -/
structure FmtU where
  sd : UDst
  sa : Sel
  sb : Sel
  deriving DecidableEq, Repr

/-- Format V (R153); `sat` is MOD[8]. -/
structure FmtV where
  g : Guard
  ty : Ty
  rnd : Rnd
  sat : Bool
  vd : Sel
  sa : Sel
  sb : Sel
  sc : Sel
  aux : BitVec 8
  deriving DecidableEq, Repr

/-- Format V as APXB and APXE use it (R267): word 0 [17:0] is SKIP. -/
structure FmtP where
  g : Guard
  skip : BitVec 18
  sa : Sel
  sb : Sel
  sc : Sel
  aux : BitVec 8
  deriving DecidableEq, Repr

/-- Format M (R154). -/
structure FmtM where
  g : Guard
  ty : Ty
  ord : Ord
  scope : Scope
  vd : Sel
  addr : Sel
  nlog : Fin 8
  off : BitVec 21
  deriving DecidableEq, Repr

/-- Format AT (R155). -/
structure FmtAT where
  g : Guard
  ty : Ty
  ord : Ord
  scope : Scope
  vd : Sel
  addr : Sel
  data : Sel
  cmp : Sel
  deriving DecidableEq, Repr

/-- Format X (R156); `sA`, `sB` are the bits AS and BS. -/
structure FmtX where
  g : Guard
  wcls : Fin 4
  sA : Bool
  sB : Bool
  acc : Fin 32
  aop : Fin 64
  bop : Fin 64
  fbp : Fin 64
  deriving DecidableEq, Repr

/-- Format A (R157). -/
structure FmtA where
  sd : SIdx
  sb : SIdx
  sc : SIdx
  deriving DecidableEq, Repr

/-- Format C (R158). -/
structure FmtC where
  g : Guard
  sa : SIdx
  sb : SIdx
  imm : BitVec 6
  deriving DecidableEq, Repr

/-- Format CB (R159). -/
structure FmtCB where
  g : Guard
  toff : BitVec 18
  roff : BitVec 24
  bcond : BitVec 8
  deriving DecidableEq, Repr

/-- The access classes of a fault record (R343). -/
inductive Acc where
  | read | write | fetch | walk
  deriving DecidableEq, Repr

/-- A place for a workgroup (R12, R13): die, cluster in the die, core in the cluster, and P0. -/
structure Place where
  die : Nat
  cluster : Nat
  core : Nat
  p0 : Nat
  deriving DecidableEq, Repr

/-- The core whose access misses, and the context of the access (R341). -/
structure Walker where
  place : Place
  ctx : Nat
  deriving DecidableEq, Repr

/-- An access of a Cerlink peer to this device's memory (R368, R369). -/
structure PeerReq where
  peer : Nat
  write : Bool
  off : Nat
  len : Nat
  data : List Byte
  world : BitVec 8
  prot : Bool
  /-- 0 for a read or write; else an atomic's code (R82) with its type, `data` its operand and `cmp` the comparand -/
  op : Nat := 0
  ty : Ty := .n32
  cmp : Nat := 0
  /-- the data of a write carries poison (R374) -/
  poison : Bool := false
  deriving DecidableEq, Repr

/-- A CXL.mem access of an outside agent to a CB7-L (R361). -/
structure CxlReq where
  agent : Nat
  write : Bool
  exclusive : Bool
  pa : Nat
  data : List Byte
  /-- the agent keeps no copy: an access to a shared page (R380) -/
  uncached : Bool := false
  /-- the data of a write carries poison (R374) -/
  poison : Bool := false
  deriving DecidableEq, Repr

/-- A Tether message (R394). -/
structure Tether where
  slotw : Nat
  ngrp : Nat
  life : Nat
  sender : Nat
  seq : BitVec 16
  hops : Nat
  deriving DecidableEq, Repr

/-- Where an uncorrectable error lies (R374, R375, R378). -/
inductive ErrUnit where
  /-- data of a 128-byte line, in DRAM or SRAM -/
  | line (pa : Nat)
  /-- the directory entry of a line -/
  | directory (line : Nat)
  /-- control state of a bridge die of a CB7-L -/
  | bridge
  /-- the snoop filter of a CB7-L -/
  | snoop
  /-- the snoop-filter entry of a 64-byte line -/
  | snoopEntry (line : Nat)
  deriving DecidableEq, Repr

/-- Every row of the opcode table. -/
inductive Instr where
  /-- `SADD` (R174): Scalar 64-bit add, wrapping modulo 2^64. -/
  | sadd (f : FmtU)
  /-- `SSUB` (R174): Scalar 64-bit subtract. -/
  | ssub (f : FmtU)
  /-- `SMUL` (R174): Scalar multiply, low 64 bits of the product. -/
  | smul (f : FmtU)
  /-- `SMULHS` (R174): Scalar signed multiply, high 64 bits of the product. -/
  | smulhs (f : FmtU)
  /-- `SMULHU` (R174): Scalar unsigned multiply, high 64 bits of the product. -/
  | smulhu (f : FmtU)
  /-- `SDIVS` (R174): Scalar signed divide under R89. -/
  | sdivs (f : FmtU)
  /-- `SDIVU` (R174): Scalar unsigned divide under R89. -/
  | sdivu (f : FmtU)
  /-- `SREMS` (R174): Scalar signed remainder under R89. -/
  | srems (f : FmtU)
  /-- `SREMU` (R174): Scalar unsigned remainder under R89. -/
  | sremu (f : FmtU)
  /-- `SMINS` (R174): Scalar signed minimum. -/
  | smins (f : FmtU)
  /-- `SMINU` (R174): Scalar unsigned minimum. -/
  | sminu (f : FmtU)
  /-- `SMAXS` (R174): Scalar signed maximum. -/
  | smaxs (f : FmtU)
  /-- `SMAXU` (R174): Scalar unsigned maximum. -/
  | smaxu (f : FmtU)
  /-- `SAND` (R175): Scalar bitwise AND. -/
  | sand (f : FmtU)
  /-- `SOR` (R175): Scalar bitwise OR. -/
  | sor (f : FmtU)
  /-- `SXOR` (R175): Scalar bitwise XOR. -/
  | sxor (f : FmtU)
  /-- `SANDN` (R175): Scalar a AND NOT b. -/
  | sandn (f : FmtU)
  /-- `SSHL` (R175): Scalar shift left by b[5:0]. -/
  | sshl (f : FmtU)
  /-- `SSHR` (R175): Scalar logical shift right. -/
  | sshr (f : FmtU)
  /-- `SSRA` (R175): Scalar arithmetic shift right. -/
  | ssra (f : FmtU)
  /-- `SROL` (R175): Scalar rotate left. -/
  | srol (f : FmtU)
  /-- `SPOPC` (R175): Scalar population count. -/
  | spopc (f : FmtU)
  /-- `SCLZ` (R175): Scalar count leading zeros. -/
  | sclz (f : FmtU)
  /-- `SCTZ` (R175): Scalar count trailing zeros. -/
  | sctz (f : FmtU)
  /-- `SBREV` (R175): Scalar bit reverse. -/
  | sbrev (f : FmtU)
  /-- `SBFX` (R176): Scalar bit-field extract, zero-extended. -/
  | sbfx (f : FmtU)
  /-- `SBFXS` (R176): Scalar bit-field extract, sign-extended. -/
  | sbfxs (f : FmtU)
  /-- `SBFI` (R176): Scalar bit-field insert into sd. -/
  | sbfi (f : FmtU)
  /-- `SMOV` (R177): Scalar move. -/
  | smov (f : FmtU)
  /-- `SSEQ` (R177): Scalar set if equal. -/
  | sseq (f : FmtU)
  /-- `SSNE` (R177): Scalar set if not equal. -/
  | ssne (f : FmtU)
  /-- `SSLTS` (R177): Scalar set if signed less than. -/
  | sslts (f : FmtU)
  /-- `SSLTU` (R177): Scalar set if unsigned less than. -/
  | ssltu (f : FmtU)
  /-- `SSLES` (R177): Scalar set if signed less or equal. -/
  | ssles (f : FmtU)
  /-- `SSLEU` (R177): Scalar set if unsigned less or equal. -/
  | ssleu (f : FmtU)
  /-- `IADD` (R245): Vector integer add, optionally saturating. -/
  | iadd (f : FmtV)
  /-- `ISUB` (R245): Vector integer subtract. -/
  | isub (f : FmtV)
  /-- `IMUL` (R245): Vector integer multiply, low bits. -/
  | imul (f : FmtV)
  /-- `IMULHI` (R245): Vector integer multiply, high bits. -/
  | imulhi (f : FmtV)
  /-- `IMAD` (R245): Vector integer multiply-add. -/
  | imad (f : FmtV)
  /-- `IDIV` (R245): Vector integer divide under R89. -/
  | idiv (f : FmtV)
  /-- `IREM` (R245): Vector integer remainder under R89. -/
  | irem (f : FmtV)
  /-- `IMIN` (R245): Vector integer minimum. -/
  | imin (f : FmtV)
  /-- `IMAX` (R245): Vector integer maximum. -/
  | imax (f : FmtV)
  /-- `IABS` (R245): Vector integer absolute value. -/
  | iabs (f : FmtV)
  /-- `INEG` (R245): Vector integer negate. -/
  | ineg (f : FmtV)
  /-- `ISAD` (R245): Vector sum of absolute difference. -/
  | isad (f : FmtV)
  /-- `AND` (R246): Vector bitwise AND. -/
  | and (f : FmtV)
  /-- `OR` (R246): Vector bitwise OR. -/
  | or (f : FmtV)
  /-- `XOR` (R246): Vector bitwise XOR. -/
  | xor (f : FmtV)
  /-- `NOT` (R246): Vector bitwise NOT. -/
  | not (f : FmtV)
  /-- `SHL` (R246): Vector shift left. -/
  | shl (f : FmtV)
  /-- `SHR` (R246): Vector shift right by type. -/
  | shr (f : FmtV)
  /-- `ROL` (R246): Vector rotate left. -/
  | rol (f : FmtV)
  /-- `POPC` (R246): Vector population count. -/
  | popc (f : FmtV)
  /-- `CLZ` (R246): Vector count leading zeros. -/
  | clz (f : FmtV)
  /-- `BREV` (R246): Vector bit reverse. -/
  | brev (f : FmtV)
  /-- `BFX` (R246): Vector bit-field extract. -/
  | bfx (f : FmtV)
  /-- `BFI` (R246): Vector bit-field insert. -/
  | bfi (f : FmtV)
  /-- `LOP3` (R246): Vector three-input logic by truth table. -/
  | lop3 (f : FmtV)
  /-- `FADD` (R247): Vector floating add. -/
  | fadd (f : FmtV)
  /-- `FSUB` (R247): Vector floating subtract. -/
  | fsub (f : FmtV)
  /-- `FMUL` (R247): Vector floating multiply. -/
  | fmul (f : FmtV)
  /-- `FFMA` (R247): Vector fused multiply-add. -/
  | ffma (f : FmtV)
  /-- `FMIN` (R247): Vector floating minimum under R91. -/
  | fmin (f : FmtV)
  /-- `FMAX` (R247): Vector floating maximum under R91. -/
  | fmax (f : FmtV)
  /-- `FABS` (R247): Vector floating absolute value. -/
  | fabs (f : FmtV)
  /-- `FNEG` (R247): Vector floating negate. -/
  | fneg (f : FmtV)
  /-- `FDIV` (R247): Vector floating divide, correctly rounded. -/
  | fdiv (f : FmtV)
  /-- `FSQRT` (R247): Vector floating square root. -/
  | fsqrt (f : FmtV)
  /-- `FRINT` (R247): Vector round to integral value in mode RND. -/
  | frint (f : FmtV)
  /-- `FEXP2` (R248): Vector base-2 exponential. -/
  | fexp2 (f : FmtV)
  /-- `FLOG2` (R248): Vector base-2 logarithm. -/
  | flog2 (f : FmtV)
  /-- `FRCP` (R248): Vector reciprocal. -/
  | frcp (f : FmtV)
  /-- `FRSQ` (R248): Vector reciprocal square root. -/
  | frsq (f : FmtV)
  /-- `FSIN` (R248): Vector sine. -/
  | fsin (f : FmtV)
  /-- `FCOS` (R248): Vector cosine. -/
  | fcos (f : FmtV)
  /-- `FTANH` (R248): Vector hyperbolic tangent. -/
  | ftanh (f : FmtV)
  /-- `ICMP` (R249): Integer compare writing a predicate. -/
  | icmp (f : FmtV)
  /-- `FCMP` (R249): Floating compare writing a predicate. -/
  | fcmp (f : FmtV)
  /-- `PLOP` (R249): Predicate logic by truth table. -/
  | plop (f : FmtV)
  /-- `SEL` (R249): Select by predicate. -/
  | sel (f : FmtV)
  /-- `VOTEANY` (R250): Vote true if any active thread's predicate is true. -/
  | voteany (f : FmtV)
  /-- `VOTEALL` (R250): Vote true if every active thread's predicate is true. -/
  | voteall (f : FmtV)
  /-- `BALLOT` (R250): Bitmask of active threads with non-zero operand. -/
  | ballot (f : FmtV)
  /-- `FCLASS` (R249): Floating classification into a predicate. -/
  | fclass (f : FmtV)
  /-- `CVT` (R251): Type conversion with rounding mode. -/
  | cvt (f : FmtV)
  /-- `CVTS` (R252): Scaled block conversion under R99 updating CVSTATE. -/
  | cvts (f : FmtV)
  /-- `MOV` (R253): Vector move. -/
  | mov (f : FmtV)
  /-- `PTOV` (R253): Predicate to vector value. -/
  | ptov (f : FmtV)
  /-- `VTOP` (R253): Vector value to predicate. -/
  | vtop (f : FmtV)
  /-- `SHFL` (R255): Indexed shuffle within a segment. -/
  | shfl (f : FmtV)
  /-- `SHFLUP` (R255): Shuffle up within a segment. -/
  | shflup (f : FmtV)
  /-- `SHFLDN` (R255): Shuffle down within a segment. -/
  | shfldn (f : FmtV)
  /-- `SHFLX` (R255): Butterfly shuffle within a segment. -/
  | shflx (f : FmtV)
  /-- `REDADD` (R256): Segment add reduction in a fixed tree. -/
  | redadd (f : FmtV)
  /-- `REDMIN` (R256): Segment minimum reduction. -/
  | redmin (f : FmtV)
  /-- `REDMAX` (R256): Segment maximum reduction. -/
  | redmax (f : FmtV)
  /-- `REDAND` (R256): Segment AND reduction. -/
  | redand (f : FmtV)
  /-- `REDOR` (R256): Segment OR reduction. -/
  | redor (f : FmtV)
  /-- `SCANADD` (R257): Inclusive segment add scan. -/
  | scanadd (f : FmtV)
  /-- `SCANADDX` (R257): Exclusive segment add scan. -/
  | scanaddx (f : FmtV)
  /-- `SCANMAX` (R257): Inclusive segment maximum scan. -/
  | scanmax (f : FmtV)
  /-- `BCAST` (R255): Broadcast one thread's value within a segment. -/
  | bcast (f : FmtV)
  /-- `MERGE` (R258): Merge two attention partial triples under R121. -/
  | merge (f : FmtV)
  /-- `LD` (R211): Generic load per active thread. -/
  | ld (f : FmtM)
  /-- `LDG` (R211): Global load per active thread. -/
  | ldg (f : FmtM)
  /-- `LDS` (R211): Scratchpad window load. -/
  | lds (f : FmtM)
  /-- `LDT` (R207): Twin-form load resolving the live backing. -/
  | ldt (f : FmtM)
  /-- `PREF` (R213): Prefetch lines into L1. -/
  | pref (f : FmtM)
  /-- `STBIND` (R216): Bind a stream register from a descriptor. -/
  | stbind (f : FmtM)
  /-- `STSAVE` (R216): Store a stream's live state. -/
  | stsave (f : FmtM)
  /-- `LDU` (R212): Uniform global load into a scalar or Mule queue. -/
  | ldu (f : FmtM)
  /-- `MAPSET` (R217): Install a scratchpad map. -/
  | mapset (f : FmtM)
  /-- `MAPFLUSH` (R217): Write back dirty blocks of a map. -/
  | mapflush (f : FmtM)
  /-- `MAPCLR` (R217): Write back and remove a map. -/
  | mapclr (f : FmtM)
  /-- `ST` (R214): Generic store per active thread. -/
  | st (f : FmtM)
  /-- `STG` (R214): Global store per active thread. -/
  | stg (f : FmtM)
  /-- `STS` (R214): Scratchpad window store. -/
  | sts (f : FmtM)
  /-- `STT` (R207): Twin-form store into the inactive backing. -/
  | stt (f : FmtM)
  /-- `STL` (R215): Whole-line store clearing poison. -/
  | stl (f : FmtM)
  /-- `AADD` (R219): Atomic add returning the old value. -/
  | aadd (f : FmtAT)
  /-- `AMIN` (R219): Atomic minimum. -/
  | amin (f : FmtAT)
  /-- `AMAX` (R219): Atomic maximum. -/
  | amax (f : FmtAT)
  /-- `AAND` (R219): Atomic AND. -/
  | aand (f : FmtAT)
  /-- `AOR` (R219): Atomic OR. -/
  | aor (f : FmtAT)
  /-- `AXOR` (R219): Atomic XOR. -/
  | axor (f : FmtAT)
  /-- `AXCHG` (R219): Atomic exchange. -/
  | axchg (f : FmtAT)
  /-- `ACAS` (R219): Atomic compare-and-swap. -/
  | acas (f : FmtAT)
  /-- `RADD` (R219): Reduction add returning nothing. -/
  | radd (f : FmtAT)
  /-- `RMIN` (R219): Reduction minimum. -/
  | rmin (f : FmtAT)
  /-- `RMAX` (R219): Reduction maximum. -/
  | rmax (f : FmtAT)
  /-- `RAND` (R219): Reduction AND. -/
  | rand (f : FmtAT)
  /-- `ROR` (R219): Reduction OR. -/
  | ror (f : FmtAT)
  /-- `RXOR` (R219): Reduction XOR. -/
  | rxor (f : FmtAT)
  /-- `FENCE` (R220): Fence with acquire, release or both at a scope. -/
  | fence (f : FmtAT)
  /-- `BOINIT` (R221): Initialise a barrier object indivisibly. -/
  | boinit (f : FmtAT)
  /-- `MMA` (R260): Issue a dense matrix multiply-accumulate to the sequencer. -/
  | mma (f : FmtX)
  /-- `MMAS` (R260): Issue a two-of-four sparse matrix multiply-accumulate. -/
  | mmas (f : FmtX)
  /-- `DMMA` (R261): Issue an FP64 matrix multiply-accumulate. -/
  | dmma (f : FmtX)
  /-- `ACCCLR` (R261): Clear accumulator tile rows of active threads. -/
  | accclr (f : FmtX)
  /-- `ACCRD` (R242): Copy accumulator rows to the window. -/
  | accrd (f : FmtX)
  /-- `ACCWR` (R242): Copy window rows into an accumulator tile. -/
  | accwr (f : FmtX)
  /-- `ACCMV` (R242): Copy between accumulator tiles. -/
  | accmv (f : FmtX)
  /-- `CPY` (R231): Start an asynchronous tile copy. -/
  | cpy (f : FmtA)
  /-- `CPYCH` (R232): Start a chain copy with operations and conversion. -/
  | cpych (f : FmtA)
  /-- `CPYREL` (R233): Start a relocation command over a forwarding table. -/
  | cpyrel (f : FmtA)
  /-- `SPQFILL` (R234): Start a sparsity-queue fill. -/
  | spqfill (f : FmtA)
  /-- `TWCPY` (R237): Start a copy into a twin slot's inactive backing. -/
  | twcpy (f : FmtA)
  /-- `SUBSCR` (R239): Subscribe a tensor region to a window ring. -/
  | subscr (f : FmtA)
  /-- `SLOTREL` (R240): Release a subscription slot by one arrival. -/
  | slotrel (f : FmtA)
  /-- `TWFLIP` (R238): Flip a twin slot's live backing after PEND drains. -/
  | twflip (f : FmtA)
  /-- `TWSET` (R236): Create a twin slot descriptor. -/
  | twset (f : FmtA)
  /-- `TWCLR` (R236): Free a twin slot once idle. -/
  | twclr (f : FmtA)
  /-- `BRA` (R179): Branch, splitting the fragment when threads disagree. -/
  | bra (f : FmtCB)
  /-- `BRS` (R180): Branch if scalar non-zero. -/
  | brs (f : FmtCB)
  /-- `BRZ` (R180): Branch if scalar zero. -/
  | brz (f : FmtCB)
  /-- `BREOD` (R180): Branch if a stream's end-of-dimension flag is set. -/
  | breod (f : FmtCB)
  /-- `BRNEOD` (R180): Branch if a stream's end-of-dimension flag is clear. -/
  | brneod (f : FmtCB)
  /-- `CALL` (R182): Call, writing the return address and raising depth. -/
  | call (f : FmtCB)
  /-- `RET` (R182): Return or indirect jump to s(SA). -/
  | ret (f : FmtC)
  /-- `EXIT` (R185): End the selected threads. -/
  | exit (f : FmtC)
  /-- `BAR` (R189): Arrive at, and optionally wait on, a workgroup barrier. -/
  | bar (f : FmtC)
  /-- `BARGANG` (R190): Arrive at, and optionally wait on, a gang barrier. -/
  | bargang (f : FmtC)
  /-- `WAIT` (R191): Wait until an in-flight counter is at or below a threshold. -/
  | wait (f : FmtC)
  /-- `YIELD` (R192): Pass the fragment over once in the arbiter. -/
  | yield (f : FmtC)
  /-- `SPAWN` (R187): Create a child wave from a descriptor. -/
  | spawn (f : FmtC)
  /-- `GROW` (R193): Request further register granules on one side. -/
  | grow (f : FmtC)
  /-- `SHRINK` (R194): Release register granules on one side. -/
  | shrink (f : FmtC)
  /-- `BOARV` (R222): Make one arrival on a barrier object. -/
  | boarv (f : FmtC)
  /-- `BOWAIT` (R222): Wait until a barrier object's phase equals a parity. -/
  | bowait (f : FmtC)
  /-- `QPUSH` (R225): Push an entry to a hardware queue. -/
  | qpush (f : FmtC)
  /-- `QPOP` (R225): Pop an entry from a hardware queue. -/
  | qpop (f : FmtC)
  /-- `QCREATE` (R224): Create a hardware queue at a scope. -/
  | qcreate (f : FmtC)
  /-- `NOP` (R192): Do nothing. -/
  | nop (f : FmtC)
  /-- `CRRD` (R195): Read a control register into a scalar. -/
  | crrd (f : FmtC)
  /-- `CRWR` (R195): Write a scalar into a control register. -/
  | crwr (f : FmtC)
  /-- `TRAP` (R197): Raise TRAP_INSTR. -/
  | trap (f : FmtC)
  /-- `TRET` (R198): Return from the current trap level. -/
  | tret (f : FmtC)
  /-- `LKLINE` (R199): Lock a line in its home L2 slice. -/
  | lkline (f : FmtC)
  /-- `ULKLINE` (R199): Unlock a line. -/
  | ulkline (f : FmtC)
  /-- `CLRPOIS` (R201): Zero a line and clear its poison mark. -/
  | clrpois (f : FmtC)
  /-- `CLWB` (R200): Write a modified line back to memory. -/
  | clwb (f : FmtC)
  /-- `CLINV` (R202): Remove a line from every cache without write-back. -/
  | clinv (f : FmtC)
  /-- `HLD_SLOT` (R264): Heap load of a reference from a raw slot through the barrier. -/
  | hldSlot (f : FmtM)
  /-- `HLD_FIELD` (R264): Heap load of a reference from an object field. -/
  | hldField (f : FmtM)
  /-- `HST_SLOT` (R264): Heap store of a reference to a raw slot. -/
  | hstSlot (f : FmtM)
  /-- `HST_FIELD` (R264): Heap store of a reference to an object field. -/
  | hstField (f : FmtM)
  /-- `HFLD` (R264): Load an object field through a reference. -/
  | hfld (f : FmtM)
  /-- `HSTR` (R264): Store an object field through a reference. -/
  | hstr (f : FmtM)
  /-- `HPIN` (R265): Pin a reference's page and return a raw address. -/
  | hpin (f : FmtM)
  /-- `HUNPIN` (R265): Lower a managed page's pin count. -/
  | hunpin (f : FmtM)
  /-- `HTNULL` (R265): Test a reference for null. -/
  | htnull (f : FmtM)
  /-- `HTEQ` (R265): Compare two references after the barrier. -/
  | hteq (f : FmtM)
  /-- `HMOV_REF` (R265): Copy a reference register (mode 0). -/
  | hmovRef (f : FmtM)
  /-- `HMOV_TO_REF` (R265): Copy a 64-bit value into a reference register (mode 1). -/
  | hmovToRef (f : FmtM)
  /-- `HMOV_FROM_REF` (R265): Copy a reference into a vector pair (mode 2). -/
  | hmovFromRef (f : FmtM)
  /-- `APXB` (R268): Open an approximable region, serving or running truly. -/
  | apxb (f : FmtP)
  /-- `APXE` (R269): Close a true execution and hand samples to the engine. -/
  | apxe (f : FmtP)
  /-- `APXINV` (R270): Invalidate a region's surrogates in every cluster. -/
  | apxinv (f : FmtV)
  /-- `APXSTAT` (R270): Read a surrogate's status word. -/
  | apxstat (f : FmtV)
  /-- `CLAUSE_FETCH` (R147): A fragment reaches a clause header; fetch translation, decode checks and counter waits apply. -/
  | clauseFetch
  /-- `BARRIER_WATCHDOG_EXPIRY` (R27): A workgroup barrier watchdog expires and BARRIER_STALL is raised. -/
  | barrierWatchdogExpiry (wid bar : Nat)
  /-- `GANG_BARRIER_WATCHDOG_EXPIRY` (R190): A gang barrier watchdog expires. -/
  | gangBarrierWatchdogExpiry (rcb gang bar : Nat)
  /-- `ISSUE_AGING_EXPIRY` (R314): A ready fragment unissued for 65,536 cycles issues next. -/
  | issueAgingExpiry (gid fid : Nat)
  /-- `LOAD_RETURN` (R51): A load's value is written and its counter lowered. -/
  | loadReturn (gid path : Nat)
  /-- `STORE_PERFORMED` (R51): A store is performed at device scope and its counter lowered. -/
  | storePerformed (gid path : Nat)
  /-- `ACC_COPY_COMPLETE` (R51): An accumulator copy completes and path 3 is lowered. -/
  | accCopyComplete (gid : Nat)
  /-- `MATRIX_OP_COMPLETE` (R105): A matrix operation's sequencer time ends with results written. -/
  | matrixOpComplete (gid : Nat)
  /-- `DMMA_ASSIST_DONE` (R102): The cluster control core writes a recomputed FP64 tile. -/
  | dmmaAssistDone (gid : Nat)
  /-- `SIDE_LOG_REPLAY` (R83): A side-log entry is replayed once its page is mapped. -/
  | sideLogReplay (gid : Nat)
  /-- `STREAM_FETCH_AHEAD` (R50): A read stream fetches elements ahead of use. -/
  | streamFetchAhead (gid w : Nat)
  /-- `ASYNC_LAND` (R54): Bytes of an asynchronous command land and update the barrier object. -/
  | asyncLand (cmd off n : Nat)
  /-- `STREAMER_TILE_INBOUND` (R56): Streamers deliver an inbound tile into a ring slot. -/
  | streamerTileInbound (wid idx : Nat)
  /-- `STREAMER_TILE_OUTBOUND` (R56): Streamers write an outbound tile to memory and arrive on empty. -/
  | streamerTileOutbound (wid idx : Nat)
  /-- `RELOC_ENTRY_CLAIM` (R127): A relocation engine visits an entry and claims it. -/
  | relocEntryClaim (cmd : Nat)
  /-- `RELOC_COPY_DONE` (R127): An object copy ends, marking COPIED and raising NCOPIED. -/
  | relocCopyDone (cmd : Nat)
  /-- `RELOC_TABLE_DONE` (R127): NCOPIED reaches NENT and the engine arrives on the object. -/
  | relocTableDone (cmd : Nat)
  /-- `ASSISTED_COPY_DONE` (R128): A mutator-assisted copy ends. -/
  | assistedCopyDone (gid : Nat)
  /-- `KITE_SERVE_DONE` (R268): A serving Kite writes its outputs. -/
  | kiteServeDone (gid : Nat)
  /-- `KITE_TRAINING_END` (R297): A surrogate's training step ends. -/
  | kiteTrainingEnd (die cluster ctx id : Nat)
  /-- `COARSE_INVALIDATION_ACK` (R60): An invalidation acknowledgement reaches the home slice. -/
  | coarseInvalidationAck (line cluster : Nat)
  /-- `REMOTE_OWNERSHIP_GRANT` (R360): A CXL home grants M for a remote line. -/
  | remoteOwnershipGrant (line : Nat)
  /-- `DOORBELL` (R303): A doorbell write accepts a new launch-queue tail. -/
  | doorbell (fn : Nat) (value : Word64)
  /-- `LAUNCH` (R304): A LAUNCH command checks and queues an RCB. -/
  | launch (ctx q : Nat)
  /-- `ORDER` (R304): An ORDER command blocks later launches of the queue. -/
  | order (ctx q : Nat)
  /-- `KILL` (R313): A KILL command kills a fault domain. -/
  | kill (ctx q : Nat)
  /-- `SCHED_EPOCH` (R308): A 4096-cycle scheduling epoch rereads effective fields. -/
  | schedEpoch
  /-- `WORKGROUP_START` (R309): The scheduler places and starts a workgroup or gang. -/
  | workgroupStart (rcb : Nat) (places : List Place)
  /-- `PREEMPT_SAVE` (R326): A victim workgroup is drained and saved. -/
  | preemptSave (wid : Nat)
  /-- `WORKGROUP_RESTORE` (R329): A saved workgroup is restored onto a core. -/
  | workgroupRestore (img : Nat) (place : Place)
  /-- `INVALIDATION_COMPLETE` (R342): An invalidation completes and the count advances. -/
  | invalidationComplete (fn : Nat)
  /-- `APPEND` (R349): A paging APPEND request maps new pages. -/
  | append (ctx : Nat)
  /-- `PROMOTE` (R350): A paging PROMOTE request starts moving a page. -/
  | promote (ctx : Nat)
  /-- `PROMOTE_COPY_DONE` (R350): The promotion copy ends and the leaf is swapped or restored. -/
  | promoteCopyDone (ctx : Nat)
  /-- `EXTENT_SCRUB_DONE` (R379): An extent scrub ends and its receipt is posted. -/
  | extentScrubDone (idx : Nat) (unverified : List Nat)
  /-- `TASK_RING_POLL` (R363): The expander reads a registered TAIL. -/
  | taskRingPoll (rec : Nat)
  /-- `TASK_PACKET` (R365): A task packet is checked and launched or refused. -/
  | taskPacket (rec : Nat)
  /-- `ALLREDUCE` (R373): A collective all-reduce descriptor is taken by the engine. -/
  | allreduce (ctx : Nat) (others : List (List Byte))
  /-- `BROADCAST` (R372): A collective broadcast descriptor is taken by the engine. -/
  | broadcast (ctx : Nat) (root : List Byte)
  /-- `COLLECTIVE_DONE` (R372): A collective writes DST and arrives on BOBJ. -/
  | collectiveDone (id : Nat)
  /-- `EXPANDER_TIMEOUT` (R376): A request to an expander has no completion in 2^26 cycles. -/
  | expanderTimeout (expander : Nat)
  /-- `RECALL_COMPLETE` (R378): All recall acknowledgements arrive and the entry is rebuilt: that of a 128-byte line in
  the directory, or with `filter` that of a 64-byte line in the snoop filter. -/
  | recallComplete (line : Nat) (filter : Bool)
  /-- `RECALL_TIMEOUT` (R378): A recall lacks acknowledgements after 2^20 cycles. -/
  | recallTimeout (line : Nat)
  /-- `COLLECTIVE_MEMBER_LOSS` (R372): A member is lost and ERR is set on BOBJ. -/
  | collectiveMemberLoss (id : Nat)
  /-- `UNCORRECTABLE_ERROR` (R374): An uncorrectable error poisons a line. -/
  | uncorrectableError (u : ErrUnit)
  /-- `VIRAL_EVENT_RECEIVE` (R375): A CB7-H learns of viral memory and sets VIRAL in entries. -/
  | viralEventReceive (base pages : Nat)
  /-- `OUTSIDE_AGENT_DEATH` (R374): An outside agent holding the only modified copy dies. -/
  | outsideAgentDeath (agent : Nat)
  /-- `EXPANDER_LINK_DOWN` (R376): An expander link goes down. An expander's number is 4 × port + its number behind the port;
  16 + port is the link of the port itself. -/
  | expanderLinkDown (expander : Nat)
  /-- `POWER_INTERVAL` (R388): A 1 µs power interval closes and limits are applied. -/
  | powerInterval (demand filler : Nat)
  /-- `THERMAL_TRIP` (R391): A thermal trip emergency. -/
  | thermalTrip
  /-- `RAIL_OVERCURRENT` (R391): A rail over-current emergency. -/
  | railOvercurrent
  /-- `POWER_OFF_REQUEST` (R391): A management power-off request. -/
  | powerOffRequest
  /-- `PWRCTL` (R389): A write to PWRCTL sets power limits from the next interval. -/
  | pwrctl (value : Word64)
  /-- `TETHERTX` (R394): A write to TETHERTX sends a Tether. -/
  | tethertx (value : Word64)
  /-- `TETHER_RECEIVE` (R395): A Tether message is taken and forwarded. -/
  | tetherReceive (msg : Tether) (port : Nat)
  /-- `TETHER_LAPSE` (R395): A Tether's lifetime expires. -/
  | tetherLapse
  /-- `TETHER_DELAY_END` (R395): A Tether delay ends and the rise proceeds. -/
  | tetherDelayEnd
  /-- `COLD_RESET` (R396): Cold reset starts the start-up stages. -/
  | coldReset (reached : Nat) (error : Option Nat)
  /-- `START_WATCHDOG_EXPIRY` (R396): Stage 7 is not reached within 30 s. -/
  | startWatchdogExpiry
  /-- `BOOTCLR` (R397): A write of 0xB007 to BOOTCLR clears FAILS. -/
  | bootclr (value : Word64)
  /-- `FIRMWARE_UPDATE` (R397): A firmware update through management clears FAILS. -/
  | firmwareUpdate
  /-- `FATAL_ERROR` (R398): A fatal error stops every group and starts the dump. -/
  | fatalError (cause : Nat)
  /-- `DUMP_COMPLETE` (R400): The dump is complete and signalled. -/
  | dumpComplete
  /-- `GET_MEASUREMENTS` (R402): An SPDM GET_MEASUREMENTS request is answered. -/
  | getMeasurements (nonce : List Byte)
  /-- `CERTIFICATE_REQUEST` (R401): A request for the certificate chain is answered. -/
  | certificateRequest
  /-- `REGISTER_WRITE` (R6): A write to a register with no behaviour of its own. -/
  | registerWrite (fn off : Nat) (value : Word64)
  /-- `THERMAL_TRIP_CLEAR` (R391): A thermal trip clears and the draw rises again under R388. -/
  | thermalTripClear
  /-- `OVERCURRENT_CLEAR` (R391): A rail over-current clears and the draw rises again under R388. -/
  | overcurrentClear
  /-- `FQ_HEAD_RAISE` (R343): Room appears in a full fault queue and faults waiting in the walkers are posted. -/
  | fqHeadRaise (fn : Nat)
  /-- `CXL_MEM_REQUEST` (R361): A CXL.mem read or write from an outside agent arrives at the CB7-L and is served, with snoop-filter tracking and extent-state checks. -/
  | cxlMemRequest (r : CxlReq)
  /-- `CXL_CACHE_SNOOP` (R360): A host home agent's snoop or invalidation of a host-memory line held in a CB7-H L2 slice arrives. -/
  | cxlCacheSnoop (line : Nat) (invalidate : Bool)
  /-- `SPDM_REQUEST` (R402): Any other SPDM 1.2 request over MCTP, such as session establishment, is answered. -/
  | spdmRequest (request : List Byte)
  /-- `BACK_INVALIDATE_RECEIVE` (R381): A CB7-H receives a back-invalidation and drops the whole line. -/
  | backInvalidateReceive (line : Nat)
  /-- `BACK_INVALIDATE_RESPONSE` (R361): All back-invalidation responses arrive and the access proceeds. -/
  | backInvalidateResponse (line agent : Nat) (data : Option (List Byte × Bool))
  /-- `CERLINK_PEER_REQUEST` (R369): A peer access arrives and is checked against the world map. -/
  | cerlinkPeerRequest (r : PeerReq)
  /-- `DOMKILL` (R325): A write to DOMKILL kills a fault domain. -/
  | domkill (gid : Nat) (value : Word64)
  /-- `PAGE_WALK` (R341): A coalesced page walk completes. -/
  | pageWalk (walker : Walker) (va : Word64) (acc : Acc)
  /-- `RETRY` (R344): An FRESP RETRY walks the joined accesses again. -/
  | retry (fn tag : Nat)
  /-- `DECLINE` (R344): An FRESP DECLINE declares the joined accesses invalid. -/
  | decline (fn tag : Nat)
  /-- `INVALIDATE_PAGE` (R342): INVCTL scope 0 invalidates one page. -/
  | invalidatePage (fn : Nat) (value : Word64)
  /-- `INVALIDATE_CONTEXT` (R342): INVCTL scope 1 invalidates a context. -/
  | invalidateContext (fn : Nat) (value : Word64)
  /-- `INVALIDATE_MACHINE` (R342): INVCTL scope 2 invalidates a machine. -/
  | invalidateMachine (fn : Nat) (value : Word64)
  /-- `MRESUME` (R347): A write to MRESUME clears PAUSED. -/
  | mresume (value : Word64)
  /-- `FUNCTION_LEVEL_RESET` (R355): FLR of a virtual function kills its contexts. -/
  | functionLevelReset (fn : Nat)
  /-- `OUTRESUME` (R375): A write to OUTRESUME resumes a context's outbound writes. -/
  | outresume (value : Word64)
  /-- `DC_EXTENT_ADD` (R362): A dynamic capacity add sets an extent's STATE 1. -/
  | dcExtentAdd (idx : Nat) (tag : BitVec 128) (dpag : Nat)
  /-- `TENANT_WRITE` (R362): Writing TENANT makes an added extent owned. -/
  | tenantWrite (idx : Nat) (tenant : Word64)
  /-- `XREL` (R362): A write to XREL starts an extent release. -/
  | xrel (value : Word64)
  deriving DecidableEq, Repr

end Sys2Proof
end

