-- ==== Sys2Proof/WellFormed.lean ====
section
/-! DEFINITION. Word legality: what an instruction accepts in its fields (R148, step 4 of R147). What a word's
format already forbids (reserved bits, undefined codes) the decoder rejects; here stand the rules of each
instruction. Register ranges that depend on the group's allocation are checked when the instruction issues. -/

namespace Sys2Proof

/-- Element size in bytes of a TYPE in a register or in memory (R206, R243); 4-bit types count one byte. -/
def Ty.bytes : Ty → Nat
  | .i8 | .n8 | .e4m3 | .e5m2 | .e2m1 | .o4 => 1
  | .i16 | .n16 | .f16 | .bf16 => 2
  | .i32 | .n32 | .f32 => 4
  | .i64 | .n64 | .f64 => 8

/-- Width in bits of a TYPE. -/
def Ty.width : Ty → Nat
  | .e2m1 | .o4 => 4
  | t => 8 * t.bytes

def Ty.is64 (t : Ty) : Bool := t.bytes == 8
def Ty.isInt : Ty → Bool
  | .i8 | .i16 | .i32 | .i64 | .n8 | .n16 | .n32 | .n64 => true
  | _ => false
def Ty.isSigned : Ty → Bool
  | .i8 | .i16 | .i32 | .i64 => true
  | _ => false
def Ty.isFloat (t : Ty) : Bool := !t.isInt && t != .o4
/-- TYPE codes 8 to 11, the types of vector floating point (R170). -/
def Ty.isVFloat : Ty → Bool
  | .f64 | .f32 | .f16 | .bf16 => true
  | _ => false

namespace WellFormed

/-- The field holds 0x00. -/
def z (x : Sel) : Bool := x == .v 0

/-- A vector register, even where the element takes a pair (R163). -/
def vreg (is64 : Bool) : Sel → Bool
  | .v i => !is64 || i.val % 2 == 0
  | _ => false

def isV : Sel → Bool
  | .v _ => true
  | _ => false
def isS : Sel → Bool
  | .s _ => true
  | _ => false

/-- A per-thread source (R162). -/
def src (is64 : Bool) (x : Sel) : Bool :=
  match x with
  | .v i => !is64 || i.val % 2 == 0
  | .bad => false
  | _ => true

/-- A per-thread destination (R162). -/
def dst (is64 : Bool) (x : Sel) : Bool :=
  match x with
  | .v i => !is64 || i.val % 2 == 0
  | .w _ | .zero => true
  | _ => false

/-- A source of format U (R152, R162). -/
def usrc : Sel → Bool
  | .v _ | .bad => false
  | _ => true

/-- A generic or global base (R204). -/
def gbase : Sel → Bool
  | .v i => i.val % 2 == 0
  | .s _ | .q _ | .lit | .zero => true
  | _ => false

/-- A window-offset base or twin offset (R204). -/
def wbase : Sel → Bool
  | .v _ | .s _ | .q _ | .lit | .zero => true
  | _ => false

/-- A uniform base (R204). -/
def ubase : Sel → Bool
  | .s _ | .q _ | .lit | .zero => true
  | _ => false

/-- A reference register field, h0 to h15 (R154). -/
def href : Sel → Bool
  | .v i => i.val < 16
  | _ => false

/-- A predicate named in the low three bits of a selector field (R168, PLOP). -/
def pfield : Sel → Bool
  | .v i => i.val < 8
  | _ => false

def w64 (t : Ty) : Bool := t == .n32 || t == .n64
def shiftTys : List Ty := [.i32, .i64, .n32, .n64]
def redTys : List Ty := [.i32, .n32, .i64, .n64, .f32, .f64]
def floatTys : List Ty := [.f64, .f32, .f16, .bf16]
def intTys : List Ty := [.i8, .i16, .i32, .i64, .n8, .n16, .n32, .n64]

/-- SAT and RND hold what the instruction allows (R167). -/
def mods (f : FmtV) (sat rnd : Bool) : Bool := (!f.sat || sat) && (f.rnd == .rne || rnd)

/-- An arithmetic instruction of format V with `n` sources of the instruction's own type. -/
def arith (f : FmtV) (tys : List Ty) (n : Nat) (sat : Bool := false) (rnd : Bool := false) : Bool :=
  tys.contains f.ty && mods f sat rnd && dst f.ty.is64 f.vd && src f.ty.is64 f.sa &&
  (if n ≥ 2 then src f.ty.is64 f.sb else z f.sb) &&
  (if n ≥ 3 then src f.ty.is64 f.sc else z f.sc) && f.aux == 0

/-- AUX holds one 3-bit code (R168). -/
def aux3 (f : FmtV) : Bool := f.aux.toNat < 8

/-- A segment code 0 to 5 (R168, R254). -/
def seg (f : FmtV) : Bool := f.aux.toNat < 6

/-- A reduction's destination: a per-thread one, or a scalar when the segment is the whole group (R256). -/
def redDst (f : FmtV) : Bool := dst f.ty.is64 f.vd || (isS f.vd && f.aux == 5)

def red (f : FmtV) (tys : List Ty) (scalarToo : Bool) : Bool :=
  tys.contains f.ty && mods f false false && seg f && vreg f.ty.is64 f.sa && z f.sb && z f.sc &&
  (if scalarToo then redDst f else dst f.ty.is64 f.vd)

def shuffle (f : FmtV) (b : Sel → Bool) : Bool :=
  w64 f.ty && mods f false false && seg f && vreg f.ty.is64 f.sa && b f.sb && z f.sc && dst f.ty.is64 f.vd

def vote (f : FmtV) : Bool :=
  f.ty == .n32 && mods f false false && (isV f.vd || isS f.vd || f.vd == .zero) && z f.sb && z f.sc

def compare (f : FmtV) (tys : List Ty) (maxCond : Nat) : Bool :=
  tys.contains f.ty && mods f false false && z f.vd && src f.ty.is64 f.sa && src f.ty.is64 f.sb && z f.sc &&
  f.aux.toNat / 8 ≤ maxCond

/-- The source type that AUX names in CVT (R168). -/
def cvtSrc (f : FmtV) : Ty :=
  match f.aux.toNat % 16 with
  | 0 => .i8 | 1 => .i16 | 2 => .i32 | 3 => .i64 | 4 => .n8 | 5 => .n16 | 6 => .n32 | 7 => .n64
  | 8 => .f64 | 9 => .f32 | 10 => .f16 | 11 => .bf16 | 12 => .e4m3 | 13 => .e5m2 | 14 => .e2m1 | _ => .o4

/-- TYPE and NLOG of a load or store (R154, R206): `reg` tells whether VD is a vector register. -/
def moveSize (f : FmtM) : Bool :=
  f.ty != .e2m1 && f.ty != .o4 && f.nlog.val ≤ 5 &&
  (f.nlog == 0 ||
    ((f.ty == .i32 || f.ty == .n32 || f.ty == .f32) &&
      (match f.vd with
       | .v i => i.val + 2 ^ f.nlog.val ≤ 192
       | _ => false)))

def loadOrd (f : FmtM) : Bool := f.ord == .rlx || f.ord == .acq
def storeOrd (f : FmtM) : Bool := f.ord == .rlx || f.ord == .rel

/-- The destination of a load: vector registers, or 0xFD to discard (R204). -/
def loadDst (f : FmtM) : Bool :=
  match f.vd with
  | .v i => !f.ty.is64 || i.val % 2 == 0
  | .zero => true
  | _ => false

/-- The data of a store (R204). -/
def data (is64 : Bool) : Sel → Bool
  | .v i => !is64 || i.val % 2 == 0
  | .bad => false
  | _ => true

def load (f : FmtM) (base : Sel → Bool) : Bool := moveSize f && loadDst f && base f.addr && loadOrd f
def store (f : FmtM) (base : Sel → Bool) : Bool := moveSize f && data f.ty.is64 f.vd && base f.addr && storeOrd f

/-- Slot and G in OFF21 of a twin form (R207). -/
def twinOff (f : FmtM) : Bool :=
  f.off.toNat % 1024 == 0 && (f.off.toNat / 1048576 == 1 || f.off.toNat / 1024 < 16)

/-- ORD 0, SCOPE 0, TYPE 0, NLOG 0 (R203). -/
def plain (f : FmtM) : Bool := f.ord == .rlx && f.scope == .grp && f.ty == .i8 && f.nlog == 0
def noGuard (g : Guard) : Bool := g == Guard.none
def mapOff (f : FmtM) : Bool := f.off.toNat < 4
/-- A field offset is unsigned: OFF21[20] is 0 (R263). -/
def fieldOff (f : FmtM) : Bool := f.off.toNat < 1048576

def atomic (f : FmtAT) (tys : List Ty) : Bool :=
  tys.contains f.ty && (vreg f.ty.is64 f.vd || f.vd == .zero) && gbase f.addr && data f.ty.is64 f.data
def reduction (f : FmtAT) (tys : List Ty) : Bool :=
  tys.contains f.ty && f.vd == .zero && gbase f.addr && data f.ty.is64 f.data && z f.cmp &&
  (f.ord == .rlx || f.ord == .rel)
def bits : List Ty := [.n32, .n64]

/-- An A or B operand of format X that takes `n` matrix registers, or a descriptor pair (R156). -/
def xop (s : Bool) (op : Fin 64) (n : Nat) : Bool := if s then op.val ≤ 46 else op.val + n ≤ 32

/-- A descriptor range that starts at SD and takes `n` registers (R226). -/
def desc (x : SIdx) (n : Nat) : Bool :=
  match x with
  | some i => i.val + n ≤ 48
  | none => false

def z0 (x : SIdx) : Bool := x == some 0
def plainC (f : FmtC) : Bool := noGuard f.g && z0 f.sb && f.imm == 0

/-- Control register numbers that R195 assigns below 64. -/
def directCr (n : Nat) : Bool := n ≤ 7 || (0x10 ≤ n && n ≤ 0x13) || (0x18 ≤ n && n ≤ 0x1B) || n == 0x1F

/-- Control registers below 64 that CRWR may write (R195). -/
def writableCr (n : Nat) : Bool := !([0, 1, 2, 5, 6, 7].contains n)

/-- Fields of CRRD and CRWR (R183, R195). -/
def crMove (f : FmtC) : Bool :=
  noGuard f.g && f.sa.isSome && (if f.sb.isNone then directCr f.imm.toNat else f.imm == 0)

/-- Branches that test group-wide state: unguarded, ROFF zero (R159). -/
def uniformBranch (f : FmtCB) : Bool := noGuard f.g && f.roff == 0

end WellFormed

open WellFormed in
/-- Every field of the instruction holds what the instruction accepts. Events hold for every argument. -/
def Instr.wf : Instr → Bool
  | .sadd f | .ssub f | .smul f | .smulhs f | .smulhu f | .sdivs f | .sdivu f | .srems f | .sremu f
  | .smins f | .sminu f | .smaxs f | .smaxu f | .sand f | .sor f | .sxor f | .sandn f | .sshl f | .sshr f
  | .ssra f | .srol f | .sbfx f | .sbfxs f | .sbfi f | .sseq f | .ssne f | .sslts f | .ssltu f | .ssles f
  | .ssleu f => usrc f.sa && usrc f.sb
  | .spopc f | .sclz f | .sctz f | .sbrev f | .smov f => usrc f.sa && z f.sb
  | .iadd f | .isub f | .imul f => arith f intTys 2 true
  | .imad f => arith f intTys 3 true
  | .imulhi f | .idiv f | .irem f | .imin f | .imax f => arith f intTys 2
  | .iabs f | .ineg f => arith f [.i8, .i16, .i32, .i64] 1
  | .isad f => arith f intTys 3
  | .and f | .or f | .xor f => arith f bits 2
  | .not f | .brev f => arith f bits 1
  | .shl f | .shr f | .bfx f => arith f shiftTys 2
  | .rol f => arith f bits 2
  | .popc f | .clz f =>
      bits.contains f.ty && mods f false false && dst false f.vd && src f.ty.is64 f.sa && z f.sb && z f.sc && f.aux == 0
  | .bfi f => arith f bits 3
  | .lop3 f => arith { f with aux := 0 } bits 3
  | .fadd f | .fsub f | .fmul f | .fmin f | .fmax f | .fdiv f => arith f floatTys 2
  | .ffma f => arith f floatTys 3
  | .fabs f | .fneg f | .fsqrt f => arith f floatTys 1
  | .frint f => arith f floatTys 1 false true
  | .fexp2 f | .flog2 f | .frcp f | .frsq f | .fsin f | .fcos f | .ftanh f => arith f [.f32, .f16, .bf16] 1
  | .icmp f => compare f intTys 5
  | .fcmp f => compare f floatTys 7
  | .plop f =>
      f.ty == .i8 && mods f false false && pfield f.vd && pfield f.sa && pfield f.sb && z f.sc && f.aux.toNat < 16
  | .sel f =>
      w64 f.ty && mods f false false && dst f.ty.is64 f.vd && src f.ty.is64 f.sa && src f.ty.is64 f.sb && z f.sc && aux3 f
  | .voteany f | .voteall f => vote f && z f.sa && aux3 f
  | .ballot f => vote f && src false f.sa && f.aux == 0
  | .fclass f => floatTys.contains f.ty && mods f false false && z f.vd && src f.ty.is64 f.sa && z f.sb && z f.sc
  | .cvt f =>
      f.ty != .o4 && f.aux.toNat < 15 && (!f.sat || f.ty.isInt) && dst f.ty.is64 f.vd && src (cvtSrc f).is64 f.sa &&
      z f.sb && z f.sc
  | .cvts f =>
      [Ty.e4m3, .e5m2, .e2m1, .o4].contains f.ty && mods f false true && z f.sb && z f.sc && f.aux == 0 &&
      (match f.sa, f.vd with
       | .v a, .v d => a.val ≤ 188 && d.val ≤ 190
       | _, _ => false)
  | .mov f => mods f false false && dst f.ty.is64 f.vd && src f.ty.is64 f.sa && z f.sb && z f.sc && f.aux == 0
  | .ptov f => f.ty == .n32 && mods f false false && dst false f.vd && z f.sa && z f.sb && z f.sc && aux3 f
  | .vtop f => w64 f.ty && mods f false false && z f.vd && src f.ty.is64 f.sa && z f.sb && z f.sc && aux3 f
  | .shfl f | .shflup f | .shfldn f | .shflx f => shuffle f (src false)
  | .bcast f => shuffle f (fun b => isS b || b == .lit || b == .zero)
  | .redadd f | .redmin f | .redmax f => red f redTys true
  | .redand f | .redor f => red f bits true
  | .scanadd f | .scanaddx f | .scanmax f => red f redTys false
  | .merge f =>
      f.ty == .f32 && mods f false false && z f.sc && f.aux == 0 &&
      (match f.sa, f.sb, f.vd with
       | .v a, .v b, .v d => a.val ≤ 189 && b.val ≤ 189 && d.val ≤ 189
       | _, _, _ => false)
  | .ld f | .ldg f => load f gbase
  | .lds f => load f wbase
  | .ldt f => load f wbase && twinOff f
  | .pref f => plain f && z f.vd && gbase f.addr
  | .stbind f => plain f && noGuard f.g && (match f.vd with | .w _ => true | _ => false) && ubase f.addr
  | .stsave f =>
      f.ty == .i8 && f.nlog == 0 && storeOrd f && noGuard f.g && (match f.vd with | .w _ => true | _ => false) && ubase f.addr
  | .ldu f =>
      f.ty != .e2m1 && f.ty != .o4 && f.nlog == 0 && loadOrd f && noGuard f.g &&
      (match f.vd with | .s _ => true | .q _ => true | _ => false) && ubase f.addr
  | .mapset f =>
      plain f && noGuard f.g && mapOff f && (isS f.vd || f.vd == .zero) &&
      (match f.addr with | .s i => i.val ≤ 46 | _ => false)
  | .mapflush f | .mapclr f => plain f && noGuard f.g && mapOff f && z f.vd && z f.addr
  | .st f | .stg f => store f gbase
  | .sts f => store f wbase
  | .stt f => store f wbase && twinOff f
  | .stl f =>
      f.ty == .n32 && f.nlog == 5 && storeOrd f && gbase f.addr &&
      (match f.vd with | .v i => i.val ≤ 160 | _ => false)
  | .aadd f | .amin f | .amax f => atomic f redTys && z f.cmp
  | .aand f | .aor f | .axor f | .axchg f => atomic f bits && z f.cmp
  | .acas f => atomic f bits && data f.ty.is64 f.cmp
  | .radd f | .rmin f | .rmax f => reduction f redTys
  | .rand f | .ror f | .rxor f => reduction f bits
  | .fence f =>
      f.ord != .rlx && f.ty == .i8 && noGuard f.g && z f.vd && z f.addr && z f.data && z f.cmp
  | .boinit f =>
      f.ty == .i8 && noGuard f.g && z f.vd && z f.cmp && (f.ord == .rlx || f.ord == .rel) &&
      (isS f.addr || f.addr == .lit) && (isS f.data || f.data == .lit || f.data == .zero)
  | .mma f => f.wcls.val ≤ 2 && xop f.sA f.aop 1 && xop f.sB f.bop 2 && f.fbp.val ≤ 46
  | .mmas f => f.wcls.val ≤ 2 && xop f.sA f.aop 1 && xop f.sB f.bop 4 && f.fbp.val ≤ 46
  | .dmma f => f.wcls == 0 && xop f.sA f.aop 1 && xop f.sB f.bop 1 && f.fbp == 0
  | .accclr f => f.wcls == 0 && !f.sA && !f.sB && f.aop == 0 && f.bop == 0 && f.fbp == 0
  | .accrd f | .accwr f => f.wcls == 0 && !f.sA && !f.sB && f.aop == 0 && f.bop.val ≤ 47 && f.fbp == 0
  | .accmv f => f.wcls == 0 && !f.sA && !f.sB && f.aop.val ≤ 31 && f.bop == 0 && f.fbp == 0
  | .cpy f | .twcpy f => desc f.sd 4
  | .cpych f => desc f.sd 10
  | .cpyrel f => desc f.sd 1
  | .spqfill f => desc f.sd 2 && f.sb.isSome
  | .subscr f => desc f.sd 5 && f.sb.isNone && f.sc.isSome
  | .slotrel f | .twflip f | .twclr f => desc f.sd 1 && f.sb.isNone && f.sc.isNone
  | .twset f => desc f.sd 4 && f.sb.isNone && f.sc.isSome
  | .bra f => f.bcond == 0 && (if f.g == Guard.none then f.roff == 0 else f.roff != 0)
  | .brs f | .brz f => uniformBranch f && 0xC0 ≤ f.bcond.toNat && f.bcond.toNat ≤ 0xEF
  | .breod f | .brneod f => uniformBranch f && f.bcond.toNat % 8 == 0
  | .call f => uniformBranch f && f.bcond.toNat ≤ 47
  | .ret f => plainC f && f.sa.isSome
  | .exit f => z0 f.sa && z0 f.sb && f.imm == 0
  | .bar f => z0 f.sa && z0 f.sb && f.imm.toNat < 32
  | .bargang f => z0 f.sa && z0 f.sb && f.imm.toNat < 32 && f.imm.toNat % 16 < 4
  | .wait f => noGuard f.g && z0 f.sb && f.imm.toNat ≤ 4
  | .yield f | .nop f => plainC f && z0 f.sa
  | .spawn f => noGuard f.g && f.sa.isSome && f.imm.toNat < 8
  | .grow f => noGuard f.g && f.sa.isSome && f.imm.toNat < 16
  | .shrink f => noGuard f.g && f.sa.isSome && z0 f.sb && (f.imm == 0 || f.imm == 8)
  | .boarv f | .bowait f => noGuard f.g && f.sa.isSome && z0 f.sb && f.imm.toNat < 2
  | .qpush f | .qpop f => noGuard f.g && f.sa.isSome && f.sb.isSome && f.imm == 0
  | .qcreate f => noGuard f.g && f.sa.isSome && f.imm.toNat < 7
  | .crrd f => crMove f
  | .crwr f => crMove f && (f.sb.isSome || writableCr f.imm.toNat)
  | .trap f => noGuard f.g && z0 f.sb
  | .tret f => noGuard f.g && z0 f.sa && z0 f.sb && f.imm.toNat < 2
  | .lkline f | .ulkline f => noGuard f.g && f.sa.isSome && f.imm == 0
  | .clrpois f | .clwb f | .clinv f => plainC f && f.sa.isSome
  | .hldSlot f => f.ty == .i8 && loadOrd f && href f.vd && f.nlog == 0 && gbase f.addr
  | .hldField f => f.ty == .i8 && loadOrd f && href f.vd && f.nlog == 1 && href f.addr && fieldOff f
  | .hstSlot f => f.ty == .i8 && storeOrd f && href f.vd && f.nlog == 0 && gbase f.addr
  | .hstField f => f.ty == .i8 && storeOrd f && href f.vd && f.nlog == 1 && href f.addr && fieldOff f
  | .hfld f => moveSize f && loadDst f && loadOrd f && href f.addr && fieldOff f
  | .hstr f => moveSize f && data f.ty.is64 f.vd && storeOrd f && href f.addr && fieldOff f
  | .hpin f => plain f && vreg true f.vd && href f.addr && f.off.toNat < 8
  | .hunpin f => f.ty == .i8 && f.ord == .rel && f.scope == .dev && z f.vd && gbase f.addr && f.nlog == 0
  | .htnull f => plain f && z f.vd && href f.addr && f.off.toNat < 8
  | .hteq f => plain f && href f.vd && href f.addr && f.off.toNat < 8
  | .hmovRef f => plain f && href f.vd && href f.addr && f.off == 0
  | .hmovToRef f => plain f && href f.vd && (vreg true f.addr || isS f.addr || f.addr == .zero) && f.off == 1
  | .hmovFromRef f => plain f && vreg true f.vd && href f.addr && f.off == 2
  | .apxb f =>
      f.skip != 0 && f.aux.toNat < 64 &&
      (match f.sa, f.sb, f.sc with
       | .v a, .v b, .v n => n.val < 8 && a.val + n.val ≤ 191 && b.val + f.aux.toNat / 16 ≤ 191
       | _, _, _ => false)
  | .apxe f =>
      f.skip == 0 && f.aux.toNat < 64 && z f.sa && z f.sc &&
      (match f.sb with
       | .v b => b.val + f.aux.toNat / 16 ≤ 191
       | _ => false)
  | .apxinv f =>
      noGuard f.g && f.ty == .i8 && mods f false false && z f.vd && (isS f.sa || f.sa == .lit || f.sa == .zero) &&
      z f.sb && z f.sc && f.aux == 0
  | .apxstat f =>
      noGuard f.g && f.ty == .i8 && mods f false false && isS f.vd && (isS f.sa || f.sa == .lit || f.sa == .zero) &&
      z f.sb && z f.sc && f.aux == 0
  | .clauseFetch | .barrierWatchdogExpiry _ _ | .gangBarrierWatchdogExpiry _ _ _ | .issueAgingExpiry _ _ | .loadReturn _ _
  | .storePerformed _ _ | .accCopyComplete _ | .matrixOpComplete _ | .dmmaAssistDone _ | .sideLogReplay _
  | .streamFetchAhead _ _ | .asyncLand _ _ _ | .streamerTileInbound _ _ | .streamerTileOutbound _ _ | .relocEntryClaim _
  | .relocCopyDone _ | .relocTableDone _ | .assistedCopyDone _ | .kiteServeDone _ | .kiteTrainingEnd _ _ _ _
  | .coarseInvalidationAck _ _ | .remoteOwnershipGrant _ | .backInvalidateReceive _ | .backInvalidateResponse _ _ _ | .cerlinkPeerRequest _
  | .doorbell _ _ | .launch _ _ | .order _ _ | .kill _ _ | .schedEpoch
  | .workgroupStart _ _ | .preemptSave _ | .workgroupRestore _ _ | .domkill _ _ | .pageWalk _ _ _
  | .retry _ _ | .decline _ _ | .invalidatePage _ _ | .invalidateContext _ _ | .invalidateMachine _ _
  | .invalidationComplete _ | .mresume _ | .append _ | .promote _ | .promoteCopyDone _
  | .functionLevelReset _ | .outresume _ | .dcExtentAdd _ _ _ | .tenantWrite _ _ | .xrel _
  | .extentScrubDone _ _ | .taskRingPoll _ | .taskPacket _ | .allreduce _ _ | .broadcast _ _
  | .collectiveDone _ | .collectiveMemberLoss _ | .uncorrectableError _ | .viralEventReceive _ _ | .outsideAgentDeath _
  | .expanderLinkDown _ | .expanderTimeout _ | .recallComplete _ _ | .recallTimeout _ | .powerInterval _ _
  | .thermalTrip | .railOvercurrent | .powerOffRequest | .pwrctl _ | .tethertx _
  | .tetherReceive _ _ | .tetherLapse | .tetherDelayEnd | .coldReset _ _ | .startWatchdogExpiry
  | .bootclr _ | .firmwareUpdate | .fatalError _ | .dumpComplete | .getMeasurements _
  | .certificateRequest | .registerWrite _ _ _ | .thermalTripClear | .overcurrentClear | .fqHeadRaise _
  | .cxlMemRequest _ | .cxlCacheSnoop _ _ | .spdmRequest _ => true

/-- The selectors of an instruction word in the order in which literal occurrences are numbered (R141). -/
def Instr.sels : Instr → List Sel
  | .sadd f | .ssub f | .smul f | .smulhs f | .smulhu f | .sdivs f
  | .sdivu f | .srems f | .sremu f | .smins f | .sminu f | .smaxs f
  | .smaxu f | .sand f | .sor f | .sxor f | .sandn f | .sshl f
  | .sshr f | .ssra f | .srol f | .spopc f | .sclz f | .sctz f
  | .sbrev f | .sbfx f | .sbfxs f | .sbfi f | .smov f | .sseq f
  | .ssne f | .sslts f | .ssltu f | .ssles f | .ssleu f => [f.sa, f.sb]
  | .iadd f | .isub f | .imul f | .imulhi f | .imad f | .idiv f
  | .irem f | .imin f | .imax f | .iabs f | .ineg f | .isad f
  | .and f | .or f | .xor f | .not f | .shl f | .shr f
  | .rol f | .popc f | .clz f | .brev f | .bfx f | .bfi f
  | .lop3 f | .fadd f | .fsub f | .fmul f | .ffma f | .fmin f
  | .fmax f | .fabs f | .fneg f | .fdiv f | .fsqrt f | .frint f
  | .fexp2 f | .flog2 f | .frcp f | .frsq f | .fsin f | .fcos f
  | .ftanh f | .icmp f | .fcmp f | .plop f | .sel f | .voteany f
  | .voteall f | .ballot f | .fclass f | .cvt f | .cvts f | .mov f
  | .ptov f | .vtop f | .shfl f | .shflup f | .shfldn f | .shflx f
  | .redadd f | .redmin f | .redmax f | .redand f | .redor f | .scanadd f
  | .scanaddx f | .scanmax f | .bcast f | .merge f | .apxinv f | .apxstat f => [f.vd, f.sa, f.sb, f.sc]
  | .apxb f | .apxe f => [f.sa, f.sb, f.sc]
  | .ld f | .ldg f | .lds f | .ldt f | .pref f | .stbind f
  | .stsave f | .ldu f | .mapset f | .mapflush f | .mapclr f | .st f
  | .stg f | .sts f | .stt f | .stl f | .hldSlot f | .hldField f
  | .hstSlot f | .hstField f | .hfld f | .hstr f | .hpin f | .hunpin f
  | .htnull f | .hteq f | .hmovRef f | .hmovToRef f | .hmovFromRef f => [f.vd, f.addr]
  | .aadd f | .amin f | .amax f | .aand f | .aor f | .axor f
  | .axchg f | .acas f | .radd f | .rmin f | .rmax f | .rand f
  | .ror f | .rxor f | .fence f | .boinit f => [f.vd, f.addr, f.data, f.cmp]
  | .mma _ | .mmas _ | .dmma _ | .accclr _ | .accrd _ | .accwr _
  | .accmv _ | .cpy _ | .cpych _ | .cpyrel _ | .spqfill _ | .twcpy _
  | .subscr _ | .slotrel _ | .twflip _ | .twset _ | .twclr _ | .bra _
  | .brs _ | .brz _ | .breod _ | .brneod _ | .call _ | .ret _
  | .exit _ | .bar _ | .bargang _ | .wait _ | .yield _ | .spawn _
  | .grow _ | .shrink _ | .boarv _ | .bowait _ | .qpush _ | .qpop _
  | .qcreate _ | .nop _ | .crrd _ | .crwr _ | .trap _ | .tret _
  | .lkline _ | .ulkline _ | .clrpois _ | .clwb _ | .clinv _ => []
  | .clauseFetch | .barrierWatchdogExpiry _ _ | .gangBarrierWatchdogExpiry _ _ _ | .issueAgingExpiry _ _ | .loadReturn _ _
  | .storePerformed _ _ | .accCopyComplete _ | .matrixOpComplete _ | .dmmaAssistDone _ | .sideLogReplay _
  | .streamFetchAhead _ _ | .asyncLand _ _ _ | .streamerTileInbound _ _ | .streamerTileOutbound _ _ | .relocEntryClaim _
  | .relocCopyDone _ | .relocTableDone _ | .assistedCopyDone _ | .kiteServeDone _ | .kiteTrainingEnd _ _ _ _
  | .coarseInvalidationAck _ _ | .remoteOwnershipGrant _ | .backInvalidateReceive _ | .backInvalidateResponse _ _ _ | .cerlinkPeerRequest _
  | .doorbell _ _ | .launch _ _ | .order _ _ | .kill _ _ | .schedEpoch
  | .workgroupStart _ _ | .preemptSave _ | .workgroupRestore _ _ | .domkill _ _ | .pageWalk _ _ _
  | .retry _ _ | .decline _ _ | .invalidatePage _ _ | .invalidateContext _ _ | .invalidateMachine _ _
  | .invalidationComplete _ | .mresume _ | .append _ | .promote _ | .promoteCopyDone _
  | .functionLevelReset _ | .outresume _ | .dcExtentAdd _ _ _ | .tenantWrite _ _ | .xrel _
  | .extentScrubDone _ _ | .taskRingPoll _ | .taskPacket _ | .allreduce _ _ | .broadcast _ _
  | .collectiveDone _ | .collectiveMemberLoss _ | .uncorrectableError _ | .viralEventReceive _ _ | .outsideAgentDeath _
  | .expanderLinkDown _ | .expanderTimeout _ | .recallComplete _ _ | .recallTimeout _ | .powerInterval _ _
  | .thermalTrip | .railOvercurrent | .powerOffRequest | .pwrctl _ | .tethertx _
  | .tetherReceive _ _ | .tetherLapse | .tetherDelayEnd | .coldReset _ _ | .startWatchdogExpiry
  | .bootclr _ | .firmwareUpdate | .fatalError _ | .dumpComplete | .getMeasurements _
  | .certificateRequest | .registerWrite _ _ _ | .thermalTripClear | .overcurrentClear | .fqHeadRaise _
  | .cxlMemRequest _ | .cxlCacheSnoop _ _ | .spdmRequest _ => []

/-- The operand type under which each selector of `sels` reads a literal (R164). Addresses and uniform operands read
the whole word. -/
def Instr.litTys : Instr → List Ty
  | .sadd _ | .ssub _ | .smul _ | .smulhs _ | .smulhu _ | .sdivs _
  | .sdivu _ | .srems _ | .sremu _ | .smins _ | .sminu _ | .smaxs _
  | .smaxu _ | .sand _ | .sor _ | .sxor _ | .sandn _ | .sshl _
  | .sshr _ | .ssra _ | .srol _ | .spopc _ | .sclz _ | .sctz _
  | .sbrev _ | .sbfx _ | .sbfxs _ | .sbfi _ | .smov _ | .sseq _
  | .ssne _ | .sslts _ | .ssltu _ | .ssles _ | .ssleu _ => [.n64, .n64]
  | .iadd f | .isub f | .imul f | .imulhi f | .imad f | .idiv f
  | .irem f | .imin f | .imax f | .iabs f | .ineg f | .isad f
  | .and f | .or f | .xor f | .not f | .shl f | .shr f
  | .rol f | .popc f | .clz f | .brev f | .bfx f | .bfi f
  | .lop3 f | .fadd f | .fsub f | .fmul f | .ffma f | .fmin f
  | .fmax f | .fabs f | .fneg f | .fdiv f | .fsqrt f | .frint f
  | .fexp2 f | .flog2 f | .frcp f | .frsq f | .fsin f | .fcos f
  | .ftanh f | .icmp f | .fcmp f | .plop f | .sel f | .voteany f
  | .voteall f | .ballot f | .fclass f | .cvts f | .mov f | .ptov f
  | .vtop f | .shfl f | .shflup f | .shfldn f | .shflx f | .redadd f
  | .redmin f | .redmax f | .redand f | .redor f | .scanadd f | .scanaddx f
  | .scanmax f | .bcast f | .merge f => [f.ty, f.ty, f.ty, f.ty]
  | .cvt f => [f.ty, WellFormed.cvtSrc f, f.ty, f.ty]
  | .apxinv _ | .apxstat _ => [.n64, .n64, .n64, .n64]
  | .apxb _ | .apxe _ => [.n64, .n64, .n64]
  | .ld f | .ldg f | .lds f | .ldt f | .pref f | .stbind f
  | .stsave f | .ldu f | .mapset f | .mapflush f | .mapclr f | .st f
  | .stg f | .sts f | .stt f | .stl f | .hldSlot f | .hldField f
  | .hstSlot f | .hstField f | .hfld f | .hstr f | .hpin f | .hunpin f
  | .htnull f | .hteq f | .hmovRef f | .hmovToRef f | .hmovFromRef f => [f.ty, .n64]
  | .aadd f | .amin f | .amax f | .aand f | .aor f | .axor f
  | .axchg f | .acas f | .radd f | .rmin f | .rmax f | .rand f
  | .ror f | .rxor f | .fence f => [f.ty, .n64, f.ty, f.ty]
  | .boinit _ => [.n64, .n64, .n64, .n64]
  | .mma _ | .mmas _ | .dmma _ | .accclr _ | .accrd _ | .accwr _
  | .accmv _ | .cpy _ | .cpych _ | .cpyrel _ | .spqfill _ | .twcpy _
  | .subscr _ | .slotrel _ | .twflip _ | .twset _ | .twclr _ | .bra _
  | .brs _ | .brz _ | .breod _ | .brneod _ | .call _ | .ret _
  | .exit _ | .bar _ | .bargang _ | .wait _ | .yield _ | .spawn _
  | .grow _ | .shrink _ | .boarv _ | .bowait _ | .qpush _ | .qpop _
  | .qcreate _ | .nop _ | .crrd _ | .crwr _ | .trap _ | .tret _
  | .lkline _ | .ulkline _ | .clrpois _ | .clwb _ | .clinv _ => []
  | .clauseFetch | .barrierWatchdogExpiry _ _ | .gangBarrierWatchdogExpiry _ _ _ | .issueAgingExpiry _ _ | .loadReturn _ _
  | .storePerformed _ _ | .accCopyComplete _ | .matrixOpComplete _ | .dmmaAssistDone _ | .sideLogReplay _
  | .streamFetchAhead _ _ | .asyncLand _ _ _ | .streamerTileInbound _ _ | .streamerTileOutbound _ _ | .relocEntryClaim _
  | .relocCopyDone _ | .relocTableDone _ | .assistedCopyDone _ | .kiteServeDone _ | .kiteTrainingEnd _ _ _ _
  | .coarseInvalidationAck _ _ | .remoteOwnershipGrant _ | .backInvalidateReceive _ | .backInvalidateResponse _ _ _ | .cerlinkPeerRequest _
  | .doorbell _ _ | .launch _ _ | .order _ _ | .kill _ _ | .schedEpoch
  | .workgroupStart _ _ | .preemptSave _ | .workgroupRestore _ _ | .domkill _ _ | .pageWalk _ _ _
  | .retry _ _ | .decline _ _ | .invalidatePage _ _ | .invalidateContext _ _ | .invalidateMachine _ _
  | .invalidationComplete _ | .mresume _ | .append _ | .promote _ | .promoteCopyDone _
  | .functionLevelReset _ | .outresume _ | .dcExtentAdd _ _ _ | .tenantWrite _ _ | .xrel _
  | .extentScrubDone _ _ | .taskRingPoll _ | .taskPacket _ | .allreduce _ _ | .broadcast _ _
  | .collectiveDone _ | .collectiveMemberLoss _ | .uncorrectableError _ | .viralEventReceive _ _ | .outsideAgentDeath _
  | .expanderLinkDown _ | .expanderTimeout _ | .recallComplete _ _ | .recallTimeout _ | .powerInterval _ _
  | .thermalTrip | .railOvercurrent | .powerOffRequest | .pwrctl _ | .tethertx _
  | .tetherReceive _ _ | .tetherLapse | .tetherDelayEnd | .coldReset _ _ | .startWatchdogExpiry
  | .bootclr _ | .firmwareUpdate | .fatalError _ | .dumpComplete | .getMeasurements _
  | .certificateRequest | .registerWrite _ _ _ | .thermalTripClear | .overcurrentClear | .fqHeadRaise _
  | .cxlMemRequest _ | .cxlCacheSnoop _ _ | .spdmRequest _ => []

/-- The literal words an instruction names leave the unused bits of a narrow type zero (R164). -/
def Instr.litsOk (i : Instr) (lits : List Word32) : Bool :=
  let tys := ((i.sels.zip i.litTys).filter (fun p => p.1 == .lit)).map (·.2)
  (tys.zip lits).all (fun p => decide (p.2.toNat < 2 ^ p.1.width) || decide (32 ≤ p.1.width))

end Sys2Proof
end

