-- ==== Sys2Proof/Decode.lean ====
section
/-! DEFINITION. Decoding and encoding of instruction words and clauses (R139 to R171). The decoder reads fields by
major and minor opcode and rejects, by name, what no instruction has there; what an instruction accepts in its fields is
`Instr.wf`. Words are natural numbers below 2^32. -/

namespace Sys2Proof

/-- Why a word is no instruction. -/
inductive DecodeError where
  /-- the major opcode is unassigned (R169) -/
  | major (m : Nat)
  /-- the minor opcode is unassigned under its major (R171) -/
  | minor (m k : Nat)
  /-- a reserved field of word 0 or 1 is not zero -/
  | reserved (word : Nat)
  /-- a field of word 0 or 1 holds an undefined code (R92, R152, R160, R166, R263) -/
  | code (word : Nat)
  deriving DecidableEq, Repr

/-- The field of `n` bits that starts at bit `k`. -/
def fld (w k n : Nat) : Nat := w / 2 ^ k % 2 ^ n

def Sel.dec (n : Nat) : Sel :=
  if h : n < 192 then .v ⟨n, h⟩
  else if h : n < 240 then .s ⟨n - 192, by omega⟩
  else if h : n < 248 then .w ⟨n - 240, by omega⟩
  else if h : n < 252 then .q ⟨n - 248, by omega⟩
  else if n = 252 then .lit
  else if n = 253 then .zero
  else if n = 254 then .tid
  else .bad

def Sel.enc : Sel → Nat
  | .v i => i.val
  | .s i => 192 + i.val
  | .w i => 240 + i.val
  | .q i => 248 + i.val
  | .lit => 252
  | .zero => 253
  | .tid => 254
  | .bad => 255

def Ty.dec : Nat → Ty
  | 0 => .i8 | 1 => .i16 | 2 => .i32 | 3 => .i64 | 4 => .n8 | 5 => .n16 | 6 => .n32 | 7 => .n64
  | 8 => .f64 | 9 => .f32 | 10 => .f16 | 11 => .bf16 | 12 => .e4m3 | 13 => .e5m2 | 14 => .e2m1 | _ => .o4

def Ty.enc : Ty → Nat
  | .i8 => 0 | .i16 => 1 | .i32 => 2 | .i64 => 3 | .n8 => 4 | .n16 => 5 | .n32 => 6 | .n64 => 7
  | .f64 => 8 | .f32 => 9 | .f16 => 10 | .bf16 => 11 | .e4m3 => 12 | .e5m2 => 13 | .e2m1 => 14 | .o4 => 15

def Ord.dec : Nat → Ord
  | 0 => .rlx | 1 => .acq | 2 => .rel | _ => .ar
def Ord.enc : Ord → Nat
  | .rlx => 0 | .acq => 1 | .rel => 2 | .ar => 3

def Scope.dec : Nat → Option Scope
  | 0 => some .grp | 1 => some .wg | 2 => some .gang | 3 => some .clu | 4 => some .die | 5 => some .dev | 6 => some .sys
  | _ => none
def Scope.enc : Scope → Nat
  | .grp => 0 | .wg => 1 | .gang => 2 | .clu => 3 | .die => 4 | .dev => 5 | .sys => 6

def Rnd.dec : Nat → Option Rnd
  | 0 => some .rne | 1 => some .rz | 2 => some .rd | 3 => some .ru | 4 => some .rs | _ => none
def Rnd.enc : Rnd → Nat
  | .rne => 0 | .rz => 1 | .rd => 2 | .ru => 3 | .rs => 4

def Guard.dec (n : Nat) : Guard := ⟨n / 8 % 2 = 1, ⟨n % 8, by omega⟩⟩
def Guard.enc (g : Guard) : Nat := (if g.neg then 8 else 0) + g.p.val

/-- A 6-bit scalar index (R160): codes 48 to 62 decode to nothing. -/
def SIdx.dec (n : Nat) : Option SIdx :=
  if h : n < 48 then some (some ⟨n, h⟩) else if n = 63 then some none else none
def SIdx.enc : SIdx → Nat
  | some i => i.val
  | none => 63

/-- The SD field of format U (R152): codes 52 to 62 decode to nothing. -/
def UDst.dec (n : Nat) : Option UDst :=
  if h : n < 48 then some (.s ⟨n, h⟩)
  else if h : n < 52 then some (.q ⟨n - 48, by omega⟩)
  else if n = 63 then some .discard else none
def UDst.enc : UDst → Nat
  | .s i => i.val
  | .q i => 48 + i.val
  | .discard => 63

namespace Parse

def fmtU (w : Nat) : Except DecodeError FmtU :=
  match UDst.dec (fld w 16 6) with
  | some d => .ok ⟨d, Sel.dec (fld w 8 8), Sel.dec (fld w 0 8)⟩
  | none => .error (.code 0)

def fmtV (w0 w1 : Nat) : Except DecodeError FmtV :=
  if fld w0 9 2 ≠ 0 then .error (.reserved 0) else
  match Rnd.dec (fld w0 11 3) with
  | some r =>
    .ok ⟨Guard.dec (fld w0 18 4), Ty.dec (fld w0 14 4), r, fld w0 8 1 = 1, Sel.dec (fld w0 0 8), Sel.dec (fld w1 24 8),
      Sel.dec (fld w1 16 8), Sel.dec (fld w1 8 8), BitVec.ofNat 8 (fld w1 0 8)⟩
  | none => .error (.code 0)

def fmtP (w0 w1 : Nat) : Except DecodeError FmtP :=
  .ok ⟨Guard.dec (fld w0 18 4), BitVec.ofNat 18 (fld w0 0 18), Sel.dec (fld w1 24 8), Sel.dec (fld w1 16 8),
    Sel.dec (fld w1 8 8), BitVec.ofNat 8 (fld w1 0 8)⟩

def fmtM (w0 w1 : Nat) : Except DecodeError FmtM :=
  if fld w0 8 1 ≠ 0 then .error (.reserved 0) else
  match Scope.dec (fld w0 9 3) with
  | some s =>
    .ok ⟨Guard.dec (fld w0 18 4), Ty.dec (fld w0 14 4), Ord.dec (fld w0 12 2), s, Sel.dec (fld w0 0 8),
      Sel.dec (fld w1 24 8), ⟨fld w1 21 3, Nat.mod_lt _ (by decide)⟩, BitVec.ofNat 21 (fld w1 0 21)⟩
  | none => .error (.code 0)

def fmtAT (w0 w1 : Nat) : Except DecodeError FmtAT :=
  if fld w0 8 1 ≠ 0 then .error (.reserved 0)
  else if fld w1 0 8 ≠ 0 then .error (.reserved 1) else
  match Scope.dec (fld w0 9 3) with
  | some s =>
    .ok ⟨Guard.dec (fld w0 18 4), Ty.dec (fld w0 14 4), Ord.dec (fld w0 12 2), s, Sel.dec (fld w0 0 8),
      Sel.dec (fld w1 24 8), Sel.dec (fld w1 16 8), Sel.dec (fld w1 8 8)⟩
  | none => .error (.code 0)

def fmtX (w0 w1 : Nat) : Except DecodeError FmtX :=
  if fld w0 5 9 ≠ 0 then .error (.reserved 0)
  else if fld w1 0 14 ≠ 0 then .error (.reserved 1) else
  .ok ⟨Guard.dec (fld w0 18 4), ⟨fld w0 16 2, Nat.mod_lt _ (by decide)⟩, fld w0 15 1 = 1, fld w0 14 1 = 1,
    ⟨fld w0 0 5, Nat.mod_lt _ (by decide)⟩, ⟨fld w1 26 6, Nat.mod_lt _ (by decide)⟩,
    ⟨fld w1 20 6, Nat.mod_lt _ (by decide)⟩, ⟨fld w1 14 6, Nat.mod_lt _ (by decide)⟩⟩

def fmtA (w : Nat) : Except DecodeError FmtA :=
  if fld w 0 4 ≠ 0 then .error (.reserved 0) else
  match SIdx.dec (fld w 16 6), SIdx.dec (fld w 10 6), SIdx.dec (fld w 4 6) with
  | some d, some b, some c => .ok ⟨d, b, c⟩
  | _, _, _ => .error (.code 0)

def fmtC (w : Nat) : Except DecodeError FmtC :=
  match SIdx.dec (fld w 12 6), SIdx.dec (fld w 6 6) with
  | some a, some b => .ok ⟨Guard.dec (fld w 18 4), a, b, BitVec.ofNat 6 (fld w 0 6)⟩
  | _, _ => .error (.code 0)

def fmtCB (w0 w1 : Nat) : Except DecodeError FmtCB :=
  .ok ⟨Guard.dec (fld w0 18 4), BitVec.ofNat 18 (fld w0 0 18), BitVec.ofNat 24 (fld w1 8 24), BitVec.ofNat 8 (fld w1 0 8)⟩

end Parse

namespace Enc

def word0 (maj min rest : Nat) : Nat := maj * 2 ^ 26 + min * 2 ^ 22 + rest

def fmtU (maj min : Nat) (f : FmtU) : List Nat :=
  [word0 maj min (f.sd.enc * 2 ^ 16 + f.sa.enc * 2 ^ 8 + f.sb.enc)]
def fmtV (maj min : Nat) (f : FmtV) : List Nat :=
  [word0 maj min (f.g.enc * 2 ^ 18 + f.ty.enc * 2 ^ 14 + f.rnd.enc * 2 ^ 11 + (if f.sat then 2 ^ 8 else 0) + f.vd.enc),
   f.sa.enc * 2 ^ 24 + f.sb.enc * 2 ^ 16 + f.sc.enc * 2 ^ 8 + f.aux.toNat]
def fmtP (maj min : Nat) (f : FmtP) : List Nat :=
  [word0 maj min (f.g.enc * 2 ^ 18 + f.skip.toNat),
   f.sa.enc * 2 ^ 24 + f.sb.enc * 2 ^ 16 + f.sc.enc * 2 ^ 8 + f.aux.toNat]
def fmtM (maj min : Nat) (f : FmtM) : List Nat :=
  [word0 maj min (f.g.enc * 2 ^ 18 + f.ty.enc * 2 ^ 14 + f.ord.enc * 2 ^ 12 + f.scope.enc * 2 ^ 9 + f.vd.enc),
   f.addr.enc * 2 ^ 24 + f.nlog.val * 2 ^ 21 + f.off.toNat]
def fmtAT (maj min : Nat) (f : FmtAT) : List Nat :=
  [word0 maj min (f.g.enc * 2 ^ 18 + f.ty.enc * 2 ^ 14 + f.ord.enc * 2 ^ 12 + f.scope.enc * 2 ^ 9 + f.vd.enc),
   f.addr.enc * 2 ^ 24 + f.data.enc * 2 ^ 16 + f.cmp.enc * 2 ^ 8]
def fmtX (maj min : Nat) (f : FmtX) : List Nat :=
  [word0 maj min (f.g.enc * 2 ^ 18 + f.wcls.val * 2 ^ 16 + (if f.sA then 2 ^ 15 else 0) + (if f.sB then 2 ^ 14 else 0) + f.acc.val),
   f.aop.val * 2 ^ 26 + f.bop.val * 2 ^ 20 + f.fbp.val * 2 ^ 14]
def fmtA (maj min : Nat) (f : FmtA) : List Nat :=
  [word0 maj min (f.sd.enc * 2 ^ 16 + f.sb.enc * 2 ^ 10 + f.sc.enc * 2 ^ 4)]
def fmtC (maj min : Nat) (f : FmtC) : List Nat :=
  [word0 maj min (f.g.enc * 2 ^ 18 + f.sa.enc * 2 ^ 12 + f.sb.enc * 2 ^ 6 + f.imm.toNat)]
def fmtCB (maj min : Nat) (f : FmtCB) : List Nat :=
  [word0 maj min (f.g.enc * 2 ^ 18 + f.toff.toNat), f.roff.toNat * 2 ^ 8 + f.bcond.toNat]

end Enc

namespace Parse

/-- The instruction of an assigned major and minor of format U (R171). -/
def opU (maj min : Nat) (f : FmtU) : Option Instr :=
  match maj with
  | 0x01 =>
    match min with
    | 0 => some (.sadd f)
    | 1 => some (.ssub f)
    | 2 => some (.smul f)
    | 3 => some (.smulhs f)
    | 4 => some (.smulhu f)
    | 5 => some (.sdivs f)
    | 6 => some (.sdivu f)
    | 7 => some (.srems f)
    | 8 => some (.sremu f)
    | 9 => some (.smins f)
    | 10 => some (.sminu f)
    | 11 => some (.smaxs f)
    | 12 => some (.smaxu f)
    | _ => none
  | 0x02 =>
    match min with
    | 0 => some (.sand f)
    | 1 => some (.sor f)
    | 2 => some (.sxor f)
    | 3 => some (.sandn f)
    | 4 => some (.sshl f)
    | 5 => some (.sshr f)
    | 6 => some (.ssra f)
    | 7 => some (.srol f)
    | 8 => some (.spopc f)
    | 9 => some (.sclz f)
    | 10 => some (.sctz f)
    | 11 => some (.sbrev f)
    | 12 => some (.sbfx f)
    | 13 => some (.sbfxs f)
    | 14 => some (.sbfi f)
    | _ => none
  | 0x03 =>
    match min with
    | 0 => some (.smov f)
    | 1 => some (.sseq f)
    | 2 => some (.ssne f)
    | 3 => some (.sslts f)
    | 4 => some (.ssltu f)
    | 5 => some (.ssles f)
    | 6 => some (.ssleu f)
    | _ => none
  | _ => none

/-- The instruction of an assigned major and minor of format V (R171). -/
def opV (maj min : Nat) (f : FmtV) : Option Instr :=
  match maj with
  | 0x08 =>
    match min with
    | 0 => some (.iadd f)
    | 1 => some (.isub f)
    | 2 => some (.imul f)
    | 3 => some (.imulhi f)
    | 4 => some (.imad f)
    | 5 => some (.idiv f)
    | 6 => some (.irem f)
    | 7 => some (.imin f)
    | 8 => some (.imax f)
    | 9 => some (.iabs f)
    | 10 => some (.ineg f)
    | 11 => some (.isad f)
    | _ => none
  | 0x09 =>
    match min with
    | 0 => some (.and f)
    | 1 => some (.or f)
    | 2 => some (.xor f)
    | 3 => some (.not f)
    | 4 => some (.shl f)
    | 5 => some (.shr f)
    | 6 => some (.rol f)
    | 7 => some (.popc f)
    | 8 => some (.clz f)
    | 9 => some (.brev f)
    | 10 => some (.bfx f)
    | 11 => some (.bfi f)
    | 12 => some (.lop3 f)
    | _ => none
  | 0x0A =>
    match min with
    | 0 => some (.fadd f)
    | 1 => some (.fsub f)
    | 2 => some (.fmul f)
    | 3 => some (.ffma f)
    | 4 => some (.fmin f)
    | 5 => some (.fmax f)
    | 6 => some (.fabs f)
    | 7 => some (.fneg f)
    | 8 => some (.fdiv f)
    | 9 => some (.fsqrt f)
    | 10 => some (.frint f)
    | _ => none
  | 0x0B =>
    match min with
    | 0 => some (.fexp2 f)
    | 1 => some (.flog2 f)
    | 2 => some (.frcp f)
    | 3 => some (.frsq f)
    | 4 => some (.fsin f)
    | 5 => some (.fcos f)
    | 6 => some (.ftanh f)
    | _ => none
  | 0x0C =>
    match min with
    | 0 => some (.icmp f)
    | 1 => some (.fcmp f)
    | 2 => some (.plop f)
    | 3 => some (.sel f)
    | 4 => some (.voteany f)
    | 5 => some (.voteall f)
    | 6 => some (.ballot f)
    | 7 => some (.fclass f)
    | _ => none
  | 0x0D =>
    match min with
    | 0 => some (.cvt f)
    | 1 => some (.cvts f)
    | 2 => some (.mov f)
    | 3 => some (.ptov f)
    | 4 => some (.vtop f)
    | _ => none
  | 0x0E =>
    match min with
    | 0 => some (.shfl f)
    | 1 => some (.shflup f)
    | 2 => some (.shfldn f)
    | 3 => some (.shflx f)
    | 4 => some (.redadd f)
    | 5 => some (.redmin f)
    | 6 => some (.redmax f)
    | 7 => some (.redand f)
    | 8 => some (.redor f)
    | 9 => some (.scanadd f)
    | 10 => some (.scanaddx f)
    | 11 => some (.scanmax f)
    | 12 => some (.bcast f)
    | _ => none
  | 0x0F =>
    match min with
    | 0 => some (.merge f)
    | _ => none
  | 0x31 =>
    match min with
    | 2 => some (.apxinv f)
    | 3 => some (.apxstat f)
    | _ => none
  | _ => none

/-- The instruction of an assigned major and minor of format M (R171). -/
def opM (maj min : Nat) (f : FmtM) : Option Instr :=
  match maj with
  | 0x18 =>
    match min with
    | 0 => some (.ld f)
    | 1 => some (.ldg f)
    | 2 => some (.lds f)
    | 3 => some (.ldt f)
    | 4 => some (.pref f)
    | 5 => some (.stbind f)
    | 6 => some (.stsave f)
    | 7 => some (.ldu f)
    | 8 => some (.mapset f)
    | 9 => some (.mapflush f)
    | 10 => some (.mapclr f)
    | _ => none
  | 0x19 =>
    match min with
    | 0 => some (.st f)
    | 1 => some (.stg f)
    | 2 => some (.sts f)
    | 3 => some (.stt f)
    | 4 => some (.stl f)
    | _ => none
  | 0x30 =>
    match min with
    | 0 => some (if f.nlog.val % 2 = 0 then .hldSlot f else .hldField f)
    | 1 => some (if f.nlog.val % 2 = 0 then .hstSlot f else .hstField f)
    | 2 => some (.hfld f)
    | 3 => some (.hstr f)
    | 4 => some (.hpin f)
    | 5 => some (.hunpin f)
    | 6 => some (.htnull f)
    | 7 => some (.hteq f)
    | 8 =>
      match f.off.toNat % 4 with
      | 0 => some (.hmovRef f)
      | 1 => some (.hmovToRef f)
      | 2 => some (.hmovFromRef f)
      | _ => none
    | _ => none
  | _ => none

/-- The instruction of an assigned major and minor of format AT (R171). -/
def opAT (maj min : Nat) (f : FmtAT) : Option Instr :=
  match maj with
  | 0x1A =>
    match min with
    | 0 => some (.aadd f)
    | 1 => some (.amin f)
    | 2 => some (.amax f)
    | 3 => some (.aand f)
    | 4 => some (.aor f)
    | 5 => some (.axor f)
    | 6 => some (.axchg f)
    | 7 => some (.acas f)
    | _ => none
  | 0x1B =>
    match min with
    | 0 => some (.radd f)
    | 1 => some (.rmin f)
    | 2 => some (.rmax f)
    | 3 => some (.rand f)
    | 4 => some (.ror f)
    | 5 => some (.rxor f)
    | _ => none
  | 0x1C =>
    match min with
    | 0 => some (.fence f)
    | 1 => some (.boinit f)
    | _ => none
  | _ => none

/-- The instruction of an assigned major and minor of format X (R171). -/
def opX (maj min : Nat) (f : FmtX) : Option Instr :=
  match maj with
  | 0x20 =>
    match min with
    | 0 => some (.mma f)
    | 1 => some (.mmas f)
    | 2 => some (.dmma f)
    | 3 => some (.accclr f)
    | 4 => some (.accrd f)
    | 5 => some (.accwr f)
    | 6 => some (.accmv f)
    | _ => none
  | _ => none

/-- The instruction of an assigned major and minor of format A (R171). -/
def opA (maj min : Nat) (f : FmtA) : Option Instr :=
  match maj with
  | 0x24 =>
    match min with
    | 0 => some (.cpy f)
    | 1 => some (.cpych f)
    | 2 => some (.cpyrel f)
    | 3 => some (.spqfill f)
    | 4 => some (.twcpy f)
    | 5 => some (.subscr f)
    | 6 => some (.slotrel f)
    | 7 => some (.twflip f)
    | 8 => some (.twset f)
    | 9 => some (.twclr f)
    | _ => none
  | _ => none

/-- The instruction of an assigned major and minor of format C (R171). -/
def opC (maj min : Nat) (f : FmtC) : Option Instr :=
  match maj with
  | 0x29 =>
    match min with
    | 0 => some (.ret f)
    | 1 => some (.exit f)
    | 2 => some (.bar f)
    | 3 => some (.bargang f)
    | 4 => some (.wait f)
    | 5 => some (.yield f)
    | 6 => some (.spawn f)
    | 7 => some (.grow f)
    | 8 => some (.shrink f)
    | 9 => some (.boarv f)
    | 10 => some (.bowait f)
    | 11 => some (.qpush f)
    | 12 => some (.qpop f)
    | 13 => some (.qcreate f)
    | 14 => some (.nop f)
    | _ => none
  | 0x2A =>
    match min with
    | 0 => some (.crrd f)
    | 1 => some (.crwr f)
    | 2 => some (.trap f)
    | 3 => some (.tret f)
    | 4 => some (.lkline f)
    | 5 => some (.ulkline f)
    | 6 => some (.clrpois f)
    | 7 => some (.clwb f)
    | 8 => some (.clinv f)
    | _ => none
  | _ => none

/-- The instruction of an assigned major and minor of format CB (R171). -/
def opCB (maj min : Nat) (f : FmtCB) : Option Instr :=
  match maj with
  | 0x28 =>
    match min with
    | 0 => some (.bra f)
    | 1 => some (.brs f)
    | 2 => some (.brz f)
    | 3 => some (.breod f)
    | 4 => some (.brneod f)
    | 5 => some (.call f)
    | _ => none
  | _ => none

end Parse

/-- The word formats (R150). -/
inductive Fmt where
  | u | v | m | at | x | a | c | cb
  deriving DecidableEq, Repr

/-- Format and engine class that a major opcode fixes (R171); unassigned majors have none. -/
def majorFmt : Nat → Option (Fmt × Class)
  | 0x01 | 0x02 | 0x03 => some (.u, .scalar)
  | 0x08 | 0x09 | 0x0A | 0x0B | 0x0C | 0x0D | 0x0E | 0x0F => some (.v, .vector)
  | 0x18 | 0x19 => some (.m, .memory)
  | 0x1A | 0x1B | 0x1C => some (.at, .memory)
  | 0x20 => some (.x, .matrix)
  | 0x24 => some (.a, .async)
  | 0x28 => some (.cb, .control)
  | 0x29 | 0x2A => some (.c, .control)
  | 0x30 => some (.m, .heap)
  | 0x31 => some (.v, .heap)
  | _ => none

/-- Words of an instruction of a format (R150). -/
def Fmt.words : Fmt → Nat
  | .u | .c | .a => 1
  | _ => 2

/-- Words that the instruction starting with word `w0` takes; a word of an unassigned major counts one. -/
def instrWords (w0 : Nat) : Nat :=
  match majorFmt (fld w0 26 6) with
  | some (f, _) => f.words
  | none => 1

def orMinor (maj min : Nat) : Option Instr → Except DecodeError Instr
  | some i => .ok i
  | none => .error (.minor maj min)

/-- The decoder: the instruction that the words hold. A one-word instruction ignores `w1`. -/
def decodeWords (w0 w1 : Nat) : Except DecodeError Instr :=
  let maj := fld w0 26 6
  let min := fld w0 22 4
  match majorFmt maj with
  | none => .error (.major maj)
  | some (.u, _) => (Parse.fmtU w0).bind fun f => orMinor maj min (Parse.opU maj min f)
  | some (.v, _) =>
    if maj = 0x31 ∧ min < 2 then
      (Parse.fmtP w0 w1).bind fun f => .ok (if min = 0 then .apxb f else .apxe f)
    else (Parse.fmtV w0 w1).bind fun f => orMinor maj min (Parse.opV maj min f)
  | some (.m, _) => (Parse.fmtM w0 w1).bind fun f => orMinor maj min (Parse.opM maj min f)
  | some (.at, _) => (Parse.fmtAT w0 w1).bind fun f => orMinor maj min (Parse.opAT maj min f)
  | some (.x, _) => (Parse.fmtX w0 w1).bind fun f => orMinor maj min (Parse.opX maj min f)
  | some (.a, _) => (Parse.fmtA w0).bind fun f => orMinor maj min (Parse.opA maj min f)
  | some (.c, _) => (Parse.fmtC w0).bind fun f => orMinor maj min (Parse.opC maj min f)
  | some (.cb, _) => (Parse.fmtCB w0 w1).bind fun f => orMinor maj min (Parse.opCB maj min f)

/-- The encoder: the words of an instruction; an event has none. -/
def encode : Instr → List Nat
  | .sadd f => Enc.fmtU 0x01 0 f
  | .ssub f => Enc.fmtU 0x01 1 f
  | .smul f => Enc.fmtU 0x01 2 f
  | .smulhs f => Enc.fmtU 0x01 3 f
  | .smulhu f => Enc.fmtU 0x01 4 f
  | .sdivs f => Enc.fmtU 0x01 5 f
  | .sdivu f => Enc.fmtU 0x01 6 f
  | .srems f => Enc.fmtU 0x01 7 f
  | .sremu f => Enc.fmtU 0x01 8 f
  | .smins f => Enc.fmtU 0x01 9 f
  | .sminu f => Enc.fmtU 0x01 10 f
  | .smaxs f => Enc.fmtU 0x01 11 f
  | .smaxu f => Enc.fmtU 0x01 12 f
  | .sand f => Enc.fmtU 0x02 0 f
  | .sor f => Enc.fmtU 0x02 1 f
  | .sxor f => Enc.fmtU 0x02 2 f
  | .sandn f => Enc.fmtU 0x02 3 f
  | .sshl f => Enc.fmtU 0x02 4 f
  | .sshr f => Enc.fmtU 0x02 5 f
  | .ssra f => Enc.fmtU 0x02 6 f
  | .srol f => Enc.fmtU 0x02 7 f
  | .spopc f => Enc.fmtU 0x02 8 f
  | .sclz f => Enc.fmtU 0x02 9 f
  | .sctz f => Enc.fmtU 0x02 10 f
  | .sbrev f => Enc.fmtU 0x02 11 f
  | .sbfx f => Enc.fmtU 0x02 12 f
  | .sbfxs f => Enc.fmtU 0x02 13 f
  | .sbfi f => Enc.fmtU 0x02 14 f
  | .smov f => Enc.fmtU 0x03 0 f
  | .sseq f => Enc.fmtU 0x03 1 f
  | .ssne f => Enc.fmtU 0x03 2 f
  | .sslts f => Enc.fmtU 0x03 3 f
  | .ssltu f => Enc.fmtU 0x03 4 f
  | .ssles f => Enc.fmtU 0x03 5 f
  | .ssleu f => Enc.fmtU 0x03 6 f
  | .iadd f => Enc.fmtV 0x08 0 f
  | .isub f => Enc.fmtV 0x08 1 f
  | .imul f => Enc.fmtV 0x08 2 f
  | .imulhi f => Enc.fmtV 0x08 3 f
  | .imad f => Enc.fmtV 0x08 4 f
  | .idiv f => Enc.fmtV 0x08 5 f
  | .irem f => Enc.fmtV 0x08 6 f
  | .imin f => Enc.fmtV 0x08 7 f
  | .imax f => Enc.fmtV 0x08 8 f
  | .iabs f => Enc.fmtV 0x08 9 f
  | .ineg f => Enc.fmtV 0x08 10 f
  | .isad f => Enc.fmtV 0x08 11 f
  | .and f => Enc.fmtV 0x09 0 f
  | .or f => Enc.fmtV 0x09 1 f
  | .xor f => Enc.fmtV 0x09 2 f
  | .not f => Enc.fmtV 0x09 3 f
  | .shl f => Enc.fmtV 0x09 4 f
  | .shr f => Enc.fmtV 0x09 5 f
  | .rol f => Enc.fmtV 0x09 6 f
  | .popc f => Enc.fmtV 0x09 7 f
  | .clz f => Enc.fmtV 0x09 8 f
  | .brev f => Enc.fmtV 0x09 9 f
  | .bfx f => Enc.fmtV 0x09 10 f
  | .bfi f => Enc.fmtV 0x09 11 f
  | .lop3 f => Enc.fmtV 0x09 12 f
  | .fadd f => Enc.fmtV 0x0A 0 f
  | .fsub f => Enc.fmtV 0x0A 1 f
  | .fmul f => Enc.fmtV 0x0A 2 f
  | .ffma f => Enc.fmtV 0x0A 3 f
  | .fmin f => Enc.fmtV 0x0A 4 f
  | .fmax f => Enc.fmtV 0x0A 5 f
  | .fabs f => Enc.fmtV 0x0A 6 f
  | .fneg f => Enc.fmtV 0x0A 7 f
  | .fdiv f => Enc.fmtV 0x0A 8 f
  | .fsqrt f => Enc.fmtV 0x0A 9 f
  | .frint f => Enc.fmtV 0x0A 10 f
  | .fexp2 f => Enc.fmtV 0x0B 0 f
  | .flog2 f => Enc.fmtV 0x0B 1 f
  | .frcp f => Enc.fmtV 0x0B 2 f
  | .frsq f => Enc.fmtV 0x0B 3 f
  | .fsin f => Enc.fmtV 0x0B 4 f
  | .fcos f => Enc.fmtV 0x0B 5 f
  | .ftanh f => Enc.fmtV 0x0B 6 f
  | .icmp f => Enc.fmtV 0x0C 0 f
  | .fcmp f => Enc.fmtV 0x0C 1 f
  | .plop f => Enc.fmtV 0x0C 2 f
  | .sel f => Enc.fmtV 0x0C 3 f
  | .voteany f => Enc.fmtV 0x0C 4 f
  | .voteall f => Enc.fmtV 0x0C 5 f
  | .ballot f => Enc.fmtV 0x0C 6 f
  | .fclass f => Enc.fmtV 0x0C 7 f
  | .cvt f => Enc.fmtV 0x0D 0 f
  | .cvts f => Enc.fmtV 0x0D 1 f
  | .mov f => Enc.fmtV 0x0D 2 f
  | .ptov f => Enc.fmtV 0x0D 3 f
  | .vtop f => Enc.fmtV 0x0D 4 f
  | .shfl f => Enc.fmtV 0x0E 0 f
  | .shflup f => Enc.fmtV 0x0E 1 f
  | .shfldn f => Enc.fmtV 0x0E 2 f
  | .shflx f => Enc.fmtV 0x0E 3 f
  | .redadd f => Enc.fmtV 0x0E 4 f
  | .redmin f => Enc.fmtV 0x0E 5 f
  | .redmax f => Enc.fmtV 0x0E 6 f
  | .redand f => Enc.fmtV 0x0E 7 f
  | .redor f => Enc.fmtV 0x0E 8 f
  | .scanadd f => Enc.fmtV 0x0E 9 f
  | .scanaddx f => Enc.fmtV 0x0E 10 f
  | .scanmax f => Enc.fmtV 0x0E 11 f
  | .bcast f => Enc.fmtV 0x0E 12 f
  | .merge f => Enc.fmtV 0x0F 0 f
  | .ld f => Enc.fmtM 0x18 0 f
  | .ldg f => Enc.fmtM 0x18 1 f
  | .lds f => Enc.fmtM 0x18 2 f
  | .ldt f => Enc.fmtM 0x18 3 f
  | .pref f => Enc.fmtM 0x18 4 f
  | .stbind f => Enc.fmtM 0x18 5 f
  | .stsave f => Enc.fmtM 0x18 6 f
  | .ldu f => Enc.fmtM 0x18 7 f
  | .mapset f => Enc.fmtM 0x18 8 f
  | .mapflush f => Enc.fmtM 0x18 9 f
  | .mapclr f => Enc.fmtM 0x18 10 f
  | .st f => Enc.fmtM 0x19 0 f
  | .stg f => Enc.fmtM 0x19 1 f
  | .sts f => Enc.fmtM 0x19 2 f
  | .stt f => Enc.fmtM 0x19 3 f
  | .stl f => Enc.fmtM 0x19 4 f
  | .aadd f => Enc.fmtAT 0x1A 0 f
  | .amin f => Enc.fmtAT 0x1A 1 f
  | .amax f => Enc.fmtAT 0x1A 2 f
  | .aand f => Enc.fmtAT 0x1A 3 f
  | .aor f => Enc.fmtAT 0x1A 4 f
  | .axor f => Enc.fmtAT 0x1A 5 f
  | .axchg f => Enc.fmtAT 0x1A 6 f
  | .acas f => Enc.fmtAT 0x1A 7 f
  | .radd f => Enc.fmtAT 0x1B 0 f
  | .rmin f => Enc.fmtAT 0x1B 1 f
  | .rmax f => Enc.fmtAT 0x1B 2 f
  | .rand f => Enc.fmtAT 0x1B 3 f
  | .ror f => Enc.fmtAT 0x1B 4 f
  | .rxor f => Enc.fmtAT 0x1B 5 f
  | .fence f => Enc.fmtAT 0x1C 0 f
  | .boinit f => Enc.fmtAT 0x1C 1 f
  | .mma f => Enc.fmtX 0x20 0 f
  | .mmas f => Enc.fmtX 0x20 1 f
  | .dmma f => Enc.fmtX 0x20 2 f
  | .accclr f => Enc.fmtX 0x20 3 f
  | .accrd f => Enc.fmtX 0x20 4 f
  | .accwr f => Enc.fmtX 0x20 5 f
  | .accmv f => Enc.fmtX 0x20 6 f
  | .cpy f => Enc.fmtA 0x24 0 f
  | .cpych f => Enc.fmtA 0x24 1 f
  | .cpyrel f => Enc.fmtA 0x24 2 f
  | .spqfill f => Enc.fmtA 0x24 3 f
  | .twcpy f => Enc.fmtA 0x24 4 f
  | .subscr f => Enc.fmtA 0x24 5 f
  | .slotrel f => Enc.fmtA 0x24 6 f
  | .twflip f => Enc.fmtA 0x24 7 f
  | .twset f => Enc.fmtA 0x24 8 f
  | .twclr f => Enc.fmtA 0x24 9 f
  | .bra f => Enc.fmtCB 0x28 0 f
  | .brs f => Enc.fmtCB 0x28 1 f
  | .brz f => Enc.fmtCB 0x28 2 f
  | .breod f => Enc.fmtCB 0x28 3 f
  | .brneod f => Enc.fmtCB 0x28 4 f
  | .call f => Enc.fmtCB 0x28 5 f
  | .ret f => Enc.fmtC 0x29 0 f
  | .exit f => Enc.fmtC 0x29 1 f
  | .bar f => Enc.fmtC 0x29 2 f
  | .bargang f => Enc.fmtC 0x29 3 f
  | .wait f => Enc.fmtC 0x29 4 f
  | .yield f => Enc.fmtC 0x29 5 f
  | .spawn f => Enc.fmtC 0x29 6 f
  | .grow f => Enc.fmtC 0x29 7 f
  | .shrink f => Enc.fmtC 0x29 8 f
  | .boarv f => Enc.fmtC 0x29 9 f
  | .bowait f => Enc.fmtC 0x29 10 f
  | .qpush f => Enc.fmtC 0x29 11 f
  | .qpop f => Enc.fmtC 0x29 12 f
  | .qcreate f => Enc.fmtC 0x29 13 f
  | .nop f => Enc.fmtC 0x29 14 f
  | .crrd f => Enc.fmtC 0x2A 0 f
  | .crwr f => Enc.fmtC 0x2A 1 f
  | .trap f => Enc.fmtC 0x2A 2 f
  | .tret f => Enc.fmtC 0x2A 3 f
  | .lkline f => Enc.fmtC 0x2A 4 f
  | .ulkline f => Enc.fmtC 0x2A 5 f
  | .clrpois f => Enc.fmtC 0x2A 6 f
  | .clwb f => Enc.fmtC 0x2A 7 f
  | .clinv f => Enc.fmtC 0x2A 8 f
  | .hldSlot f => Enc.fmtM 0x30 0 f
  | .hldField f => Enc.fmtM 0x30 0 f
  | .hstSlot f => Enc.fmtM 0x30 1 f
  | .hstField f => Enc.fmtM 0x30 1 f
  | .hfld f => Enc.fmtM 0x30 2 f
  | .hstr f => Enc.fmtM 0x30 3 f
  | .hpin f => Enc.fmtM 0x30 4 f
  | .hunpin f => Enc.fmtM 0x30 5 f
  | .htnull f => Enc.fmtM 0x30 6 f
  | .hteq f => Enc.fmtM 0x30 7 f
  | .hmovRef f => Enc.fmtM 0x30 8 f
  | .hmovToRef f => Enc.fmtM 0x30 8 f
  | .hmovFromRef f => Enc.fmtM 0x30 8 f
  | .apxb f => Enc.fmtP 0x31 0 f
  | .apxe f => Enc.fmtP 0x31 1 f
  | .apxinv f => Enc.fmtV 0x31 2 f
  | .apxstat f => Enc.fmtV 0x31 3 f
  | .clauseFetch | .barrierWatchdogExpiry _ _ | .gangBarrierWatchdogExpiry _ _ _ | .issueAgingExpiry _ _ | .loadReturn _ _
  | .storePerformed _ _ | .accCopyComplete _ | .matrixOpComplete _ | .dmmaAssistDone _ | .sideLogReplay _
  | .streamFetchAhead _ _ | .asyncLand _ _ _ | .streamerTileInbound _ _ | .streamerTileOutbound _ _ | .relocEntryClaim _
  | .relocCopyDone _ | .relocTableDone _ | .assistedCopyDone _ | .kiteServeDone _ | .kiteTrainingEnd _ _ _ _
  | .coarseInvalidationAck _ _ | .remoteOwnershipGrant _ | .backInvalidateReceive _ | .backInvalidateResponse _ _ _ | .cerlinkPeerRequest _
  | .doorbell _ _ | .launch _ _ | .order _ _ | .kill _ _ | .schedEpoch
  | .workgroupStart _ _ | .preemptSave _ | .workgroupRestore _ _ | .domkill _ _ | .pageWalk _ _ _
  | .retry _ _ | .decline _ _ | .invalidatePage _ _ | .invalidateContext _ _ | .invalidateMachine _ _
  | .invalidationComplete _ | .mresume _ | .append _ | .promote _ | .promoteCopyDone _
  | .functionLevelReset _ | .outresume _ | .dcExtentAdd _ _ _ | .tenantWrite _ _ | .xrel _
  | .extentScrubDone _ _ | .taskRingPoll _ | .taskPacket _ | .allreduce _ _ | .broadcast _ _
  | .collectiveDone _ | .collectiveMemberLoss _ | .uncorrectableError _ | .viralEventReceive _ _ | .outsideAgentDeath _
  | .expanderLinkDown _ | .expanderTimeout _ | .recallComplete _ _ | .recallTimeout _ | .powerInterval _ _
  | .thermalTrip | .railOvercurrent | .powerOffRequest | .pwrctl _ | .tethertx _
  | .tetherReceive _ _ | .tetherLapse | .tetherDelayEnd | .coldReset _ _ | .startWatchdogExpiry
  | .bootclr _ | .firmwareUpdate | .fatalError _ | .dumpComplete | .getMeasurements _
  | .certificateRequest | .registerWrite _ _ _ | .thermalTripClear | .overcurrentClear | .fqHeadRaise _
  | .cxlMemRequest _ | .cxlCacheSnoop _ _ | .spdmRequest _ => []

/-- The instruction the decoder reads from table bits: word 0 is the low 32 bits, word 1 the next. -/
def decodeTableWord (_nbits w : Nat) : Option Instr :=
  match decodeWords (w % 2 ^ 32) (w / 2 ^ 32 % 2 ^ 32) with
  | .ok i => some i
  | .error _ => none

/-! ### Clauses -/

/-- A clause header (R140). -/
structure Header where
  count : Nat
  cls : Class
  w1p : Nat
  w1t : Nat
  w2p : Nat
  w2t : Nat
  yld : Bool
  litn : Nat
  deriving DecidableEq, Repr

def Class.dec : Nat → Option Class
  | 0 => some .scalar | 1 => some .vector | 2 => some .memory | 3 => some .matrix | 4 => some .async
  | 5 => some .control | 6 => some .heap | _ => none

def Class.enc : Class → Nat
  | .scalar => 0 | .vector => 1 | .memory => 2 | .matrix => 3 | .async => 4 | .control => 5 | .heap => 6

/-- A counter-wait path and threshold that a header may hold (R141). -/
def waitOk (p t : Nat) : Bool := p ≤ 4 || (p == 7 && t == 0)

/-- Decode a header; illegal headers of R141, but for the count of literals, give nothing. -/
def decodeHeader (w : Nat) : Option Header :=
  match Class.dec (fld w 25 3) with
  | none => none
  | some c =>
    let h : Header := ⟨fld w 28 4, c, fld w 22 3, fld w 18 4, fld w 15 3, fld w 11 4, fld w 10 1 = 1, fld w 8 2⟩
    if h.count ≠ 0 ∧ waitOk h.w1p h.w1t ∧ waitOk h.w2p h.w2t ∧ h.litn < h.count ∧ fld w 0 8 = 0 then some h else none

def encodeHeader (h : Header) : Nat :=
  h.count * 2 ^ 28 + h.cls.enc * 2 ^ 25 + h.w1p * 2 ^ 22 + h.w1t * 2 ^ 18 + h.w2p * 2 ^ 15 + h.w2t * 2 ^ 11 +
  (if h.yld then 2 ^ 10 else 0) + h.litn * 2 ^ 8

def isLit (w k : Nat) : Nat := if fld w k 8 = 0xFC then 1 else 0

/-- Literal occurrences in word 0 (first) and word 1 (second) of the instruction that starts with `w0` (R141). -/
def litCount (w0 w1 : Nat) : Nat × Nat :=
  match majorFmt (fld w0 26 6) with
  | some (.u, _) => (isLit w0 8 + isLit w0 0, 0)
  | some (.v, _) =>
    (if fld w0 26 6 = 0x31 ∧ fld w0 22 4 < 2 then 0 else isLit w0 0, isLit w1 24 + isLit w1 16 + isLit w1 8)
  | some (.m, _) => (isLit w0 0, isLit w1 24)
  | some (.at, _) => (isLit w0 0, isLit w1 24 + isLit w1 16 + isLit w1 8)
  | _ => (0, 0)

/-- Literal occurrences in the words before index `stop`, scanning instructions from index `i` (R141). Words of the
whole clause are given, so that a cut instruction reads its word 1 from the literal area. -/
def litOccurrences (words : List Nat) (stop : Nat) : Nat → Nat → Nat
  | 0, _ => 0
  | fuel + 1, i =>
    if i < stop then
      let w0 := words.getD i 0
      let c := litCount w0 (words.getD (i + 1) 0)
      let two := instrWords w0 = 2 ∧ i + 1 < words.length
      c.1 + (if two then c.2 else 0) + litOccurrences words stop fuel (i + instrWords w0)
    else 0

/-- What a decoded clause holds: its header and the COUNT words behind it. -/
structure Clause where
  hdr : Header
  words : List Nat
  deriving DecidableEq, Repr

/-- Instruction words of a clause, literals apart. -/
def Clause.nIns (c : Clause) : Nat := c.hdr.count - c.hdr.litn

/-- Is word `k` the first word of an instruction of the clause? -/
def startsAt (words : List Nat) (k : Nat) : Nat → Nat → Bool
  | 0, _ => false
  | fuel + 1, i => if i < k then startsAt words k fuel (i + instrWords (words.getD i 0)) else i == k

/-- The instruction at word index `k` (R149), with the literal words it names, in order. -/
def Clause.instrAt (c : Clause) (k : Nat) : Except DecodeError (Instr × List Word32) :=
  let w0 := c.words.getD k 0
  let w1 := c.words.getD (k + 1) 0
  (decodeWords w0 w1).bind fun i =>
    let before := litOccurrences c.words k 16 0
    let n := (i.sels.filter (· == .lit)).length
    .ok (i, ((c.words.drop (c.nIns + before)).take n).map (BitVec.ofNat 32))

/-- Instructions that end their clause (R144). -/
def Instr.isTransfer : Instr → Bool
  | .bra _ | .brs _ | .brz _ | .breod _ | .brneod _ | .call _ | .ret _ | .exit _ | .tret _ => true
  | _ => false

/-- Instructions that only a privileged context may issue, known at decode (R172). -/
def Instr.isPriv : Instr → Bool
  | .clrpois _ | .clinv _ => true
  | _ => false

/-- A second word, and its variants with other fields in place of its own: an address or source of each kind, each size, a
segment, a condition register. -/
def secondWords (w1 : Nat) : List Nat :=
  w1 :: ([fld w1 24 8, 0, 0xC0, 0xFD].map (fun b3 => ([fld w1 16 8, 0, 0x20, 0xA0, 0xFD].map (fun b2 => ([fld w1 8 8, 0].map (fun b1 =>
    [fld w1 0 8, 0, 1, 2, 5, 0xC0].map (fun b0 => b3 * 2 ^ 24 + b2 * 2 ^ 16 + b1 * 2 ^ 8 + b0))).flatten)).flatten)).flatten

/-- The first word with the first of those second words that is legal beside it; none where the first word itself is at fault. -/
def firstLegal (w0 w1 : Nat) : Option (Nat × Instr) := (if instrWords w0 = 1 then [0] else secondWords w1).findSome? (fun w => match decodeWords w0 w with
  | .ok i => if i.wf then some (w, i) else none
  | .error _ => none)

/-- The literal words of an instruction, `l`, without those of selectors that another second word does not name. -/
def keptLits (w0 w1 w : Nat) (l : List Word32) : List Word32 :=
  let n := (litCount w0 w1).1
  let at_ : List Nat := match majorFmt (fld w0 26 6) with
    | some (.m, _) => [24]
    | _ => [24, 16, 8]
  l.take n ++ (((at_.filter (fun b => isLit w1 b == 1)).zip (l.drop n)).filter (fun e => isLit w e.1 == 1)).map Prod.snd

/-- A queue as the destination of LDU, which only a Mule may name (R204). -/
def Instr.pushes : Instr → Bool
  | .ldu f => match f.vd with
    | .q _ => true
    | _ => false
  | _ => false

/-- A queue among the sources, which a Mule must not name (R116, R204). -/
def Instr.pops (i : Instr) : Bool := (match i with
  | .ldu f => [f.addr]
  | j => j.sels).any (fun x => match x with
  | .q _ => true
  | _ => false)

/-- Word legality of the instruction at word `k` of a clause (R147 step 4, R144, R267): the index of the offending word, if
any. What a first word shows, and a literal value, is at fault there (R164), before anything in a second word. -/
def wordFault (c : Clause) (mule : Bool) (k : Nat) : Option Nat :=
  let w0 := c.words.getD k 0
  let w1 := c.words.getD (k + 1) 0
  let sz := instrWords w0
  match majorFmt (fld w0 26 6) with
  | none => some k
  | some (_, cls) =>
    if cls ≠ c.hdr.cls then some k
    else if c.nIns < k + sz then some k
    else match firstLegal w0 w1 with
      | none => some k
      | some (w, i) =>
        let last := k + sz = c.nIns
        let place := match i with
          | .apxb _ => last
          | .apxe _ => k = 0
          | j => !j.isTransfer || last
        let own := (litCount w0 w1).1 + (if sz = 2 then (litCount w0 w1).2 else 0)
        let lits := ((c.words.drop (c.nIns + litOccurrences c.words k 16 0)).take own).map (BitVec.ofNat 32)
        if !(i.litsOk (keptLits w0 w1 w lits) && place && (mule || !i.pushes)) then some k
        else if sz = 2 ∧ w ≠ w1 then some (k + 1)
        else if mule && i.pops then some (k + sz - 1)
        else none

/-- The first offending word of a clause, in ascending order (R147 step 4). -/
def firstWordFault (c : Clause) (mule : Bool) : Nat → Nat → Option Nat
  | 0, _ => none
  | fuel + 1, k =>
    if k < c.nIns then
      match wordFault c mule k with
      | some j => some j
      | none => firstWordFault c mule fuel (k + instrWords (c.words.getD k 0))
    else none

/-- The first word of a privileged instruction, or of a TRET at trap level 0 (R147 step 5, R172). -/
def firstPrivFault (c : Clause) (priv : Bool) (level : Nat) : Nat → Nat → Option Nat
  | 0, _ => none
  | fuel + 1, k =>
    if k < c.nIns then
      let bad := match c.instrAt k with
        | .ok (.tret _, _) => level == 0
        | .ok (i, _) => i.isPriv && !priv
        | .error _ => false
      if bad then some k else firstPrivFault c priv level fuel (k + instrWords (c.words.getD k 0))
    else none

/-- The roles of a group (R12, R30). -/
inductive Role where
  | none | copy | matrix | vector
  deriving DecidableEq, Repr

/-- The engine classes that a role may issue (R30). -/
def Role.allows : Role → Class → Bool
  | .none, _ => true
  | .copy, c => c == .scalar || c == .control || c == .memory || c == .async
  | .matrix, c => c == .scalar || c == .control || c == .matrix
  | .vector, c => c == .scalar || c == .control || c == .vector || c == .memory || c == .heap

/-- The failing check of R147 on a fetched clause, steps 2 to 5. -/
inductive ClauseFault where
  | header
  | role
  | word (k : Nat)
  | priv (k : Nat)
  deriving DecidableEq, Repr

/-- The decode of a whole clause (R147 steps 2 to 5): `words` are those after the header word `hw`, and `mule` tells
that a Mule is to run it. -/
def decodeClause (hw : Nat) (words : List Nat) (role : Role) (priv : Bool) (level : Nat) (mule : Bool := false) : Except ClauseFault Clause :=
  match decodeHeader hw with
  | none => .error .header
  | some h =>
    let c : Clause := ⟨h, words.take h.count⟩
    if litOccurrences c.words c.nIns 16 0 ≠ h.litn then .error .header
    else if !role.allows h.cls then .error .role
    else match firstWordFault c mule 16 0 with
      | some k => .error (.word k)
      | none =>
        match firstPrivFault c priv level 16 0 with
        | some k => .error (.priv k)
        | none => .ok c

end Sys2Proof
end

