-- ==== Sys2Proof/Machine/State.lean ====
section
/-! DEFINITION. The state of the machine as plain data: the whole device (memory, registers, engines, scheduler
tables) and everything a resident workgroup, group, fragment and Mule hold. INVENTORY.md lists each piece with
the rule that names it. -/

namespace Sys2Proof.Machine

/-- Why a step stops. -/
inductive Fault where
  /-- Raised by the meaning of an instruction that only a group issues, in a state whose `cur` names no live fragment
  (or no running Mule). No hardware reaches this: nothing issues an instruction but a fragment. Safe. -/
  | noIssuer
  deriving DecidableEq, Repr

/-- Why an instruction has no meaning. -/
inductive Refusal where
  /-- Raised by the arm of an instruction that is not modelled yet; safe. -/
  | notModelled (mnemonic : String)
  deriving DecidableEq, Repr

/-- The fittings (R1). -/
inductive Fitting where
  | h | l
  deriving DecidableEq, Repr

/-! ### What a group holds -/

/-- One dimension of a stream (R47). -/
structure Dim where
  cnt : BitVec 16 := 0
  stride : BitVec 32 := 0
  idx : BitVec 16 := 0
  deriving DecidableEq, Repr

/-- A stream register (R47): descriptor fields and the elements fetched ahead (R49), one list of 32 values per position. -/
structure Stream where
  bound : Bool := false
  base : BitVec 57 := 0
  space : Bool := false
  esize : BitVec 2 := 0
  dir : Bool := false
  ndim : BitVec 2 := 0
  tstride : BitVec 32 := 0
  dims : List Dim := [{}, {}, {}, {}]
  flags : BitVec 4 := 0
  ahead : List (List Word64) := []
  deriving DecidableEq, Repr

/-- A pending join (R23, R181): `id` is shared by the fragments split from it. -/
structure Join where
  id : Nat
  addr : Word64
  depth : BitVec 16
  deriving DecidableEq, Repr

/-- What a fragment waits for; such a fragment holds no lane (R29). -/
inductive Wait where
  | none
  /-- a counter wait of a clause header or of WAIT (R142, R191) -/
  | counter
  /-- the workgroup barrier `n`, arrived (R189) -/
  | bar (n : Nat)
  /-- the gang barrier `n`, arrived (R190) -/
  | gang (n : Nat)
  /-- a fusion at the innermost pending join (R23) -/
  | fuse
  /-- a fault posted under this TAG of this function (R343), for an access at this address by this thread -/
  | fault (fn tag : Nat) (va : Word64) (thr : Option Nat)
  /-- nothing, or answers about a line of the handler table: a trap is taken when the fragment issues. Its code, TVAL and
  thread, whether at the clause header, whether deferred, and the fault that is with the driver (R316, R318, R344) -/
  | trap (code : Nat) (tval : Word64) (thr : Option Nat) (atHdr deferred : Bool) (posted : Option (Nat × Nat))
  /-- a GROW of `n` granules on a side; requested at this time (R34) -/
  | grow (n : Nat) (mside : Bool)
  /-- a barrier object's phase (R222) -/
  | object (addr : Word64)
  /-- a hardware queue (R225), by the header's physical address: a push or a pop, held since this step -/
  | queue (addr : Nat) (push : Bool) (since : Nat)
  /-- an empty Mule queue or sparsity queue (R112, R116) -/
  | supply
  /-- entries of the side log: room for some, or the end of them (R83, R84) -/
  | sideLog
  /-- a claimed forwarding entry (R126) -/
  | claimed (entry : Nat)
  /-- its own assisted copy of the object of slot `slot` of the forwarding table at `table` (R128); a fault may hold the
  copy -/
  | copying (table slot : Nat) (fault : Option (Nat × Nat))
  /-- PEND of a twin slot, or FLIPPING (R79, R236) -/
  | twin
  /-- PEND of the slot that its own TWFLIP has set FLIPPING in (R79, R238) -/
  | flip (g : Bool) (slot : Nat)
  /-- FLIPPING and PEND of the slot that its own TWCLR will clear (R236) -/
  | clear (g : Bool) (slot : Nat)
  /-- 32 asynchronous commands outstanding (R228) -/
  | commands
  /-- a training step of the fitting engine (R297) -/
  | kite
  /-- a serving Kite of region `id`: the register words that it will write, and where the fragment goes on (R268) -/
  | serve (id : Nat) (words : List (Nat × Word32)) (target : Word64)
  /-- answers about a line: back-invalidation responses of a CB7-L (R361), or M from the home of a remote line (R360) -/
  | snoop
  /-- an FP64 assist (R102) -/
  | assist
  /-- a full in-flight counter (R51) -/
  | full
  /-- the driver's answer to a fault posted from a handler level (R322) -/
  | driver
  deriving DecidableEq, Repr

/-- State of the other path of a serial level (R22). -/
inductive PathState where
  | running | arrived | exited
  deriving DecidableEq, Repr

/-- A serial level (R22): its reconvergence address, call depth, and its other path, parked with the levels nested
inside it (`oChain`, outermost first). -/
structure SLevel where
  id : Nat
  recon : Word64
  depth : BitVec 16
  oMask : BitVec 32
  oHdr : Word64
  oWidx : Nat
  oDepth : BitVec 16
  oState : PathState
  oChain : List Nat
  /-- what the parked path waits for, if it is a barrier -/
  oWait : Wait := .none
  /-- joins opened inside the parked path, and how many joins were pending when the level was opened -/
  oJoins : List Join := []
  jbase : Nat := 0
  deriving DecidableEq, Repr

/-- A fragment (R18, R21). Between clauses `clause` is none and `hdr` is the next header's address; inside a clause
`clause` is the decoded clause and `widx` the word index of the next instruction (R149). -/
structure Frag where
  fid : Nat
  mask : BitVec 32
  hdr : Word64
  widx : Nat := 0
  clause : Option Clause := none
  depth : BitVec 16 := 0
  joins : List Join := []
  serial : List SLevel := []
  chain : List Nat := []
  /-- trap level at which the fragment runs (R318) -/
  level : Nat := 0
  age : Nat := 0
  /-- the aging bound has passed (R314) -/
  aged : Bool := false
  /-- CLOCK when it last issued, or came to be (R314), and the number of that step -/
  last : Word64 := 0
  turn : Nat := 0
  /-- the barrier wait that it was saved or trapped in: it does not arrive a second time (R28, R184); `some .none` once
  that instance has completed -/
  arrived : Option Wait := Option.none
  wait : Wait := .none
  deriving DecidableEq, Repr

/-- The banked registers of a trap level (R316, R318) and the fragment that trapped. -/
structure TrapBank where
  cause : Word64 := 0
  ret : Word64 := 0
  val : Word64 := 0
  save : Word64 := 0
  spill : Word64 := 0
  frag : Nat := 0
  /-- function and TAG of the fault that is with the driver (R321, R322), while it is not answered; TAG 0 once the driver
  has declined it -/
  posted : Option (Nat × Nat) := none
  /-- a RETRY came while the group was saved: the access that walks again when it is restored (R352) -/
  again : Option (Word64 × Acc) := none
  deriving DecidableEq, Repr

/-- Kinds of counted operations (R51). -/
inductive FlightKind where
  | load | store | copy
  deriving DecidableEq, Repr

/-- An operation counted on an in-flight path (R51, R52). `lines` are the lines a store still needs ownership of. -/
structure Flight where
  path : Nat
  kind : FlightKind
  lines : List Nat := []
  /-- what the bytes of a store held before it, by generic address: another agent may still read that (R76) -/
  old : List (Nat × Byte) := []
  /-- what it awaits of expanders (R376): the expander, the address, CLOCK at the request -/
  ext : List (Nat × Word64 × Word64) := []
  deriving DecidableEq, Repr

/-- A side-log entry (R82). `op` 0 is a store; reductions carry their operation's minor plus 1. `clear` marks a whole-line
store, whose replay clears poison (R215). -/
structure LogEntry where
  seq : BitVec 16
  line : BitVec 50
  bytes : List (Nat × Byte)
  op : Nat
  ty : Nat
  scope : Nat
  clear : Bool := false
  /-- function and TAG of the outstanding fault record, if the walk faulted -/
  tag : Option (Nat × Nat) := none
  deriving DecidableEq, Repr

/-- A Mule (R114). -/
structure Mule where
  hdr : Word64
  widx : Nat := 0
  clause : Option Clause := none
  depth : BitVec 16 := 0
  sregs : SMap Word64 := []
  preds : BitVec 8 := 0
  ended : Bool := false
  /-- held by a fault under a TAG (R115) -/
  fault : Option (Nat × Nat) := none
  /-- held by the counter waits of the clause header at which it stands (R142) -/
  counter : Bool := false
  deriving DecidableEq, Repr

/-- An open true execution (R268): `record` tells whether APXE records samples. -/
structure ApxOpen where
  region : Nat
  sampled : Bool
  record : Bool
  mask : BitVec 32
  /-- inputs of each thread, by 8 × thread + input -/
  inputs : SMap Word32
  /-- pending joins of the group when the region was opened -/
  joins : List Nat
  deriving DecidableEq, Repr

/-- A matrix operation issued and not yet complete (R105): the poison its reads met (R108), and, while an FP64 assist
runs, the accumulator words that it will write (R102). -/
structure MatOp where
  poison : Option Word64 := none
  assist : Option (List (Nat × Word32)) := none
  deriving DecidableEq, Repr

/-- A temporal group (R18). -/
structure Group where
  gid : Nat
  wid : Nat
  gidx : Nat
  part : Nat := 0
  role : Role := .none
  sregs : SMap Word64 := []
  /-- 32 × register + thread -/
  vregs : SMap Word32 := []
  /-- p0 to p6 as ballots -/
  preds : SMap (BitVec 32) := []
  /-- 32 × register + thread -/
  hregs : SMap Word64 := []
  /-- 2048 × register + byte -/
  mregs : SMap Byte := []
  /-- (32 × tile + row) × 64 + column -/
  acc : SMap Word32 := []
  vside : Nat := 0
  mside : Nat := 0
  tiles : Nat := 0
  streams : List Stream := [{}, {}, {}, {}, {}, {}, {}, {}]
  srstate : BitVec 32 := 1
  cvstate : Word64 := 0
  good : BitVec 2 := 0
  prev : BitVec 2 := 0
  tlevel : Nat := 0
  bank1 : TrapBank := {}
  bank2 : TrapBank := {}
  tvec : Word64 := 0
  /-- deferred causes with the TVAL of their first raise (R320) -/
  pending : SMap (Option Word64) := []
  frags : List Frag := []
  nextFid : Nat := 1
  flights : List Flight := []
  sideLog : List LogEntry := []
  seq : BitVec 16 := 0
  mule : Option Mule := none
  queues : List (List Word64) := [[], [], [], []]
  sparse : Bool := false
  spq : List (List Byte) := []
  apx : Option ApxOpen := none
  matrix : List MatOp := []
  since : Nat := 0
  deriving DecidableEq, Repr

/-! ### What a workgroup holds -/

/-- State of a map block (R43). -/
inductive Block where
  | empty | clean | dirty
  deriving DecidableEq, Repr

/-- A scratchpad map (R43). -/
structure WMap where
  gbase : BitVec 57
  nblk : Nat
  wr : Bool
  wblk : Nat
  blocks : List Block
  deriving DecidableEq, Repr

/-- A workgroup or gang barrier instance (R26, R27): arrivals, and CLOCK at the first of them. -/
structure Barrier where
  arrived : Nat := 0
  start : Word64 := 0
  isOpen : Bool := false
  /-- the watchdog's exponent, and whether it has expired -/
  exp : Nat := 24
  stalled : Bool := false
  deriving DecidableEq, Repr

/-- A twin descriptor (R77). -/
structure Twin where
  base0 : BitVec 57 := 0
  base1 : BitVec 57 := 0
  size : BitVec 32 := 0
  gen : BitVec 32 := 0
  pend : BitVec 16 := 0
  flipping : Bool := false
  live : Bool := false
  deriving DecidableEq, Repr

/-- A memory-side subscription (R56, R239): the fields of its descriptor and the next tile index. -/
structure Sub where
  idx : Nat
  gid : Nat
  tbase : Word64
  rpitch : Nat
  trows : Nat
  tbytes : Nat
  tcount : Nat
  tpitch : Nat
  outbound : Bool
  slots : Nat
  spitch : Nat
  ring : Nat
  objs : Nat
  next : Nat := 0
  /-- held by a fault, for an access at this address -/
  fault : Option (Nat × Nat × Word64) := none
  deriving DecidableEq, Repr

/-- A resident workgroup. -/
structure Workgroup where
  wid : Nat
  rcb : Nat
  wgx : Nat
  ctx : Nat
  lnum : Nat
  gang : Nat
  gangSize : Nat
  place : Place
  ngrp : Nat
  fn : Nat
  fdom : Nat
  world : BitVec 8
  prot : Bool
  priv : Bool
  divtrap : Bool
  prio : Nat
  bwe : Nat
  depth : Nat
  image : Nat
  winSize : Nat
  /-- bytes that were written; see `left` for the others -/
  win : SMap (Option Byte) := []
  /-- 8-byte units of the window with the poison mark (R228) -/
  winPoison : List Nat := []
  maps : SMap (Option WMap) := []
  bars : SMap Barrier := []
  subs : List Sub := []
  twins : SMap Twin := []
  locks : List Nat := []
  /-- ranges of window bytes, by offset and length, that an earlier workgroup of the context left (R333); where nothing has
  written they read as free values -/
  left : List (Nat × Nat) := []
  /-- every thread has ended; the window stays until commands have read it (R230) -/
  ending : Bool := false
  /-- chosen as a victim (R313); it runs on to its save points (R326) -/
  stopping : Bool := false
  /-- where the window lies in the cluster's pool (R40) -/
  winBase : Nat := 0
  deriving DecidableEq, Repr

/-- Gang barriers 0 to 3 of gang `num` of a launch (R190). -/
structure Gang where
  rcb : Nat
  num : Nat
  bars : SMap Barrier := []
  deriving DecidableEq, Repr

/-! ### What the device holds -/

/-- A part of a cluster's scratchpad pool that a workgroup of a context released and nothing has taken since (R333). -/
structure Left where
  cluster : Nat
  base : Nat
  size : Nat
  ctx : Nat
  deriving DecidableEq, Repr

/-- One entry of a pre-emption side table (R281). -/
structure SideEntry where
  hoff : Nat
  widx : Nat
  period : Bool := false
  hold : Bool := false
  target : Bool := false
  entry : Bool := false
  accmask : BitVec 32
  mmask : BitVec 32
  hmask : BitVec 16
  vmask : BitVec 12
  deriving DecidableEq, Repr

/-- One region record of a loaded object (R132, R284): the configuration, the initial weights when INITW is 1. -/
structure Region where
  id : Nat
  config : BitVec 128
  weights : List (BitVec 16)
  apxb : Word64
  deriving DecidableEq, Repr

/-- The tables of a loaded object (R301 IMAGE, R281 to R284). -/
structure Image where
  key : Nat
  text : Word64
  vgran : Nat
  mgran : Nat
  scrk : Nat
  acct : Nat
  ngrp : Nat
  roles : List Role
  sparse : BitVec 32
  mules : List (Nat × Word64)
  side : List SideEntry
  regions : List Region
  /-- stacks of a group: scratchpad in 16-byte units, global in 256-byte units (R282) -/
  sstk : Nat := 0
  gstk : Nat := 0
  deriving DecidableEq, Repr

/-- The footprint that a SPAWN descriptor gives a wave (R186), by the wave's RCB. -/
structure Wave where
  rcb : Nat
  ngrp : Nat
  vgran : Nat
  mgran : Nat
  scrk : Nat
  acct : Nat
  deriving DecidableEq, Repr

/-- Resources of a budget or of a holding (R10, R299); the shares of copy engines and of power are in 256ths. -/
structure Res where
  cores : Nat := 0
  gran : Nat := 0
  scrk : Nat := 0
  acct : Nat := 0
  cesh : Nat := 0
  pwsh : Nat := 0
  deriving DecidableEq, Repr

/-- What the scheduler holds of a launch or wave that has not ended: its context, the nodes of its path with the fields
that must not change (R308), and its effective fields as of the last epoch (R10). -/
structure Work where
  rcb : Nat
  ctx : Nat
  path : List (Nat × List Nat)
  prio : Nat
  fdom : Nat
  bwe : Nat
  gang : Nat
  deriving DecidableEq, Repr

/-- A promotion in progress (R350): the page, the page of its new copy, and its leaf: where it lies, its GPA, what it was. -/
structure Promotion where
  va : Nat
  new : Nat
  leaf : Nat
  slot : Nat
  was : Nat
  deriving DecidableEq, Repr

/-- A context known to the device (R300, R303). -/
structure Ctx where
  num : Nat
  rcb : Nat
  sealver : Word64 := 0
  sealKey : BitVec 128 := 0
  /-- a colour change in progress: SEQ and the new colour (R307) -/
  change : Option (BitVec 32 × BitVec 2) := none
  /-- outbound writes are dropped (R375) -/
  blocked : Bool := false
  /-- promotion in progress (R350) -/
  promote : Option Promotion := none
  /-- function and TAG of a fault that the paging service met in stage 2 (R343, R348); TAG 0 once it is declined -/
  held : Option (Nat × Nat) := none
  counters : SMap Word64 := []
  deriving DecidableEq, Repr

/-- A kill of a fault domain (R323) or of one launch or wave that waits for assisted copies of its groups (R128). -/
inductive Kill where
  | domain (ctx fdom reason level : Nat) (cause ret val : Word64)
  | launch (rcb fail : Nat)
  deriving DecidableEq, Repr

/-- An outstanding fault record (R343) by its key; the waiting accesses name function and TAG. -/
structure FaultRec where
  fn : Nat
  tag : Nat
  owner : Nat
  ctx : Nat
  va : Word64
  acc : Acc
  kind : Nat
  stage : Nat
  level : Nat
  gpa : Nat
  /-- the record has been written to the queue; otherwise it waits for room -/
  isPosted : Bool
  /-- not posted: only MRESUME (R347) or the paging service (R350) settles it -/
  paused : Bool := false
  deriving DecidableEq, Repr

/-- A translation held in a TLB (R341): in the shared TLB of a die, or in the TLB of a core of it (cluster and core). It serves
the `leafSize` bytes of the smaller of the two leaves (R336); `vpage`, `gpage` and `ppage` are the 64 KiB pages with which they
begin. -/
structure TlbEntry where
  die : Nat := 0
  core : Option (Nat × Nat) := none
  ctx : Nat
  machine : Nat
  vpage : Nat
  gpage : Nat
  ppage : Nat
  w : Bool
  x : Bool
  sh : Bool
  mg : Bool
  pw : Nat
  leafSize : Nat := 2 ^ 16
  /-- bytes of the stage-1 leaf (R125) -/
  pageSize : Nat := 2 ^ 16
  /-- a write through it needs no dirty-log record (R345) -/
  dirty : Bool
  deriving DecidableEq, Repr

/-- An end of an asynchronous copy: a global address or a window offset. -/
inductive Where where
  | glob (a : Word64)
  | win (o : Nat)
  /-- the inactive backing of a twin slot, at an offset (R237) -/
  | twin (g : Bool) (slot : Nat) (o : Nat)
  deriving DecidableEq, Repr

/-- The kinds of asynchronous commands (R226). -/
inductive CmdKind where
  | copy | chain | reloc | fill | twin
  deriving DecidableEq, Repr

/-- An asynchronous command in progress (R226 to R237). `todo` holds the ranges (start, length) of byte indices still to
land; a chain, a fill and a relocation count their own units there. -/
structure Cmd where
  id : Nat
  gid : Nat
  wid : Nat
  ctx : Nat
  kind : CmdKind
  src : Where := .win 0
  dst : Where := .win 0
  spitch : BitVec 32 := 0
  dpitch : BitVec 32 := 0
  rows : Nat := 0
  rbytes : Nat := 0
  /-- generic address of the barrier object -/
  obj : Option Word64 := none
  todo : List (Nat × Nat) := []
  /-- registered on its barrier object (R54), or naming none -/
  registered : Bool := false
  /-- its first read is made: a relocation knows the size of its table, a scaled chain holds its state word -/
  begun : Bool := false
  /-- chain fields (R232): the registers s(SD+4) to s(SD+9) -/
  chain : List Word64 := []
  /-- conversion state of a scaled chain -/
  cvstate : Word64 := 0
  /-- relocation: the table, the slot that is being copied; a registered twin write: 1 for a global slot, the slot -/
  table : Nat := 0
  slot : Option Nat := none
  /-- effective fault domain of the group that issued it (R128) -/
  fdom : Nat := 0
  /-- held by a fault, for an access at this address -/
  fault : Option (Nat × Nat × Word64) := none
  /-- older values that its reads may still return, by generic address (R76) -/
  old : List (Nat × Byte) := []
  deriving DecidableEq, Repr

/-- Surrogate states (R136). -/
inductive KState where
  | invalid | observe | serve | fallback
  deriving DecidableEq, Repr

/-- A surrogate in a cluster's fitting engine (R132 to R138). Weights in the order of the image of R138: W1 (16×8), W2
(16×16), W3 (4×16), B1, B2, B3; gradient sums in the same order. -/
structure Kite where
  die : Nat
  cluster : Nat
  ctx : Nat
  id : Nat
  state : KState
  config : BitVec 128
  weights : SMap (BitVec 16)
  grads : SMap (BitVec 32) := []
  drops : Nat := 0
  batches : Nat := 0
  scnt : Nat := 0
  est : BitVec 32 := 0
  /-- samples of the open batch: inputs and true outputs -/
  batch : List (List Word32 × List Word32) := []
  training : Bool := false
  /-- 64 KiB range of the APXB clause header at allocation: virtual, guest and physical -/
  code : Nat
  codeGpa : Nat
  codePa : Nat
  /-- saved to memory (R138); for a protected context, under this seal version (R330) -/
  isSaved : Bool := false
  ver : Option Word64 := none
  /-- the tag of the sealed image, which the engine keeps (R330, log 10) -/
  tag : BitVec 128 := 0
  deriving DecidableEq, Repr

/-- A saved workgroup (R327): where its image lies, the bytes written there, and the body as structured data (log 10). -/
structure Saved where
  id : Nat
  fn : Nat
  addr : Nat
  written : List Byte
  isSealed : Bool
  ver : Word64
  wg : Workgroup
  groups : List Group
  deriving DecidableEq, Repr

/-- The states of a line in an L1 (R59); an absent line is invalid. -/
inductive Moesi where
  | modified | owned | exclusive | shared
  deriving DecidableEq, Repr

/-- A line in the L1 of a core: the cluster by its global number (R58, R59). -/
structure L1Line where
  cluster : Nat
  core : Nat
  line : Nat
  st : Moesi
  deriving DecidableEq, Repr

/-- An entry of the directory (R59). -/
structure DirEntry where
  line : Nat
  dstate : Nat := 0
  coarse : Bool := false
  ptrs : List Nat := []
  owner : Option Nat := none
  vec : BitVec 32 := 0
  /-- clusters whose acknowledgement is awaited, and the requester -/
  acks : List Nat := []
  requester : Option Nat := none
  /-- requests that reached the home meanwhile, oldest first: the cluster, where it has an L1, and whether it writes -/
  waiting : List (Option Nat × Bool) := []
  /-- a recall broadcast is in progress since this time (R378) -/
  recallAt : Option Word64 := none
  deriving DecidableEq, Repr

/-- A snoop-filter entry of a CB7-L (R361): agents that hold the 64-byte line, and the holder in M. -/
structure SnoopEntry where
  line : Nat
  sharers : List Nat := []
  owner : Option Nat := none
  /-- holders whose response is awaited -/
  awaited : List Nat := []
  /-- every agent is being back-invalidated after an error of the entry, since this time (R378) -/
  recallAt : Option Word64 := none
  deriving DecidableEq, Repr

/-- A collective operation in progress (R372): its result, each byte with a poison mark. -/
structure Collective where
  id : Nat
  ctx : Nat
  gid : Nat
  dst : Word64
  bobj : Word64
  result : List (Byte × Bool)
  deriving DecidableEq, Repr

/-- A running task (R365): its launch RCB, its tenant, the physical address of its slot, the extents that it names. -/
structure Task where
  rcb : Nat
  tenant : Nat
  slot : Nat
  tags : List Nat
  deriving DecidableEq, Repr

/-- An update of a barrier object (R54): a landing of bytes or arrivals that may lower PENDCMD too, the lowering alone, ERR with or
without the lowering, a registration. -/
inductive ObjUpd where
  | step (n arr : Nat) (low : Bool)
  | lower
  | setErr (low : Bool)
  | register
  deriving DecidableEq, Repr

/-- A write of the device's own that waits: for answers about its line (R360, R361, R382), or for room in a dirty-log ring (R347).
The end of a launch or wave, which raises its completion word, or what follows the raise; the final status of a task at a
physical address; an update of an object in global memory; a twin write's end at a global slot. -/
inductive Late where
  | complete (ctx rcb : Nat)
  | raised (ctx rcb line : Nat)
  | status (pa status : Nat)
  | object (ctx : Nat) (va : Word64) (u : ObjUpd)
  | lower (ctx slot : Nat)
  deriving DecidableEq, Repr

/-- A record of the error log (R399): unit and type are the model's own numbers. -/
structure ErrRec where
  clock : Word64
  unit : Nat
  kind : Nat
  addr : Nat
  deriving DecidableEq, Repr

/-- Power state (R388 to R395). `hist` holds P(n), newest first, in W. -/
structure Power where
  hist : List Nat := []
  ballast : Nat := 0
  boostMHz : Nat := 0
  thermal : Bool := false
  overcurrent : Bool := false
  isOff : Bool := false
  /-- the last Tether taken, the microseconds that it still lives, and whether its rise has come -/
  tether : Option Tether := none
  left : Nat := 0
  used : Bool := false
  /-- Tethers taken: sender and sequence -/
  taken : List (Nat × BitVec 16) := []
  txSeq : BitVec 16 := 0
  slot : Nat := 0
  /-- a delay that runs: microseconds left, and the level that it holds -/
  delay : Option Nat := none
  level : Nat := 0
  /-- the PWRCTL limits of the interval in progress (R389) -/
  limits : Word64 := 0x0C8000460A000001
  /-- the last interval held the draw below demand; the issues of each context since then (R390) -/
  paced : Bool := false
  issues : SMap Nat := []
  /-- core ticks of CLOCK that each function's resident workgroups have held since the last interval closed (R404) -/
  held : SMap Nat := []
  /-- energy not yet counted, in nJ, by function; Ballast at 65 (log 41) -/
  energy : SMap Nat := []
  deriving DecidableEq, Repr

/-- Start-up and dump state (R396 to R400). -/
structure Boot where
  stage : Nat := 0
  reason : Nat := 0
  lastStage : Nat := 0
  fails : Nat := 0
  /-- 0 full, 1 minimal, 2 held after a fatal error, 3 recovery -/
  mode : Nat := 0
  /-- this start came up in minimal mode (R397) -/
  minimal : Bool := false
  /-- firmware updates accepted so far (R397, R402) -/
  firmware : Nat := 0
  starts : BitVec 32 := 0
  /-- this start has failed (R396) -/
  ended : Bool := false
  /-- a fatal error holds the device: its error-log index, CLOCK then -/
  fatal : Option (Nat × Word64) := none
  /-- its dump is complete -/
  dumped : Bool := false
  /-- the dump that the on-chip buffer holds (R400) -/
  onchip : List Byte := []
  deriving DecidableEq, Repr

/-- A message to a party outside the device. -/
inductive OutMsg where
  | msix (fn vector : Nat)
  | tether (port : Nat) (t : Tether)
  | event (bytes : List Byte)
  | management (bytes : List Byte)
  /-- bytes written to memory of the host, at its physical address -/
  | hostMemory (addr : Nat) (bytes : List Byte)
  | report (bytes : List Byte) (signature : BitVec 512)
  | peerReply (peer : Nat) (data : Option (List Byte))
  | cxlReply (agent : Nat) (data : Option (List Byte))
  | viral (base : Nat)
  | backInvalidate (line agent : Nat)
  | snoopReply (line : Nat) (data : Option (List Byte))
  | extentReleased (idx : Nat)
  /-- the loader's failing code for the object of this IMAGE (R285) -/
  | loadFailed (key code : Nat)
  | collective (ctag : Word64) (data : List Byte)
  deriving DecidableEq, Repr

/-- One division of the device among tenants (R62): its clusters by global number, its contexts, and its 64 KiB pages of
memory as ranges of page numbers (first, count). The driver makes it (log 44). -/
structure Domain where
  clusters : List Nat
  ctxs : List Nat
  pages : List (Nat × Nat)
  deriving DecidableEq, Repr

/-- Where the driver has a section stand: its virtual address, and the physical address at which the loader writes it; none where
software has put it there (log 61). -/
structure Site where
  va : Word64
  pa : Option Nat := none
  deriving DecidableEq, Repr

/-- Which agent moves next (log 1): plain data. `order` is the order in which the lane visits threads (R18, R64);
threads it does not name come after it in ascending order. -/
inductive Move where
  | issue (gid fid : Nat) (order : List Nat)
  | mule (gid : Nat)
  | event (i : Instr)
  | hostWrite (pa : Nat) (data : List Byte)
  /-- the driver assigns a context number to the context of this RCB, or releases it (R300, R330, R367) -/
  | assign (rcb : Nat)
  | release (ctx : Nat)
  /-- the loader loads an object (R285) with the tables at IMAGE `key`, and the sections of kinds 1 to 4 at these sites -/
  | loadObject (key : Nat) (text mule data const : Site) (file : List Byte)
  /-- the driver divides the device into coherence domains, or undoes it (R62) -/
  | divide (l : List Domain)
  /-- a cache replaces a line, the snoop filter an entry, a translation cache its entry number `n` (R58, R341, R361) -/
  | writeBack (line : Nat)
  | filterEvict (half : Nat)
  | dropTlb (n : Nat)
  /-- the next stage of a start runs, or the stage that runs reports an error (R396) -/
  | stage (error : Option Nat)
  /-- firmware sets the peer ID (R371) -/
  | peerId (id : BitVec 12)
  /-- poison comes in over CXL.mem or Cerlink with the data of a line that lies there (R374) -/
  | linkPoison (line : Nat)
  /-- an error of memory or SRAM is corrected (R405) -/
  | corrected
  deriving DecidableEq, Repr

/-- The fragment or Mule that issues in this step, and the literal words of its instruction. -/
structure Cur where
  gid : Nat := 0
  fid : Nat := 0
  mule : Bool := false
  lits : List Word32 := []
  order : List Nat := []
  deriving DecidableEq, Repr

/-- The machine. -/
structure State where
  fitting : Fitting := .h
  /-- bytes at 52-bit physical addresses (R357) -/
  mem : SMap Byte := []
  /-- poisoned 128-byte lines, by address / 128, rising (R374) -/
  poison : List Nat := []
  /-- lines held modified in caches, with the bytes that memory itself holds (R58, R200, R202) -/
  modified : SMap (List Byte) := []
  /-- the lines of the L1 data caches, longest held first (R58, R59) -/
  l1 : List L1Line := []
  /-- the lines of the L2, longest held first (R58) -/
  l2 : List Nat := []
  dir : List DirEntry := []
  snoop : List SnoopEntry := []
  /-- remote lines that an L2 slice holds: false S, true M (R360); ownership requests in `asked`, with CLOCK when they went out
  (R376) -/
  remote : SMap (Option Bool) := []
  asked : List (Nat × Word64) := []
  tlb : List TlbEntry := []
  clock : Word64 := 0
  /-- registers of the first BARs: 4096 × function + offset (R303, R328, R340, R356, R389 to R403) -/
  bar : SMap Word64 := []
  /-- completed invalidations of each function, and those in progress (R340, R342) -/
  invDone : SMap Word64 := []
  invPending : List (Nat × Word64 × Word64) := []
  /-- function counters 32 × function + doubleword, device counters at function 65 (R404, R405) -/
  counters : SMap Word64 := []
  ctxs : List Ctx := []
  images : List Image := []
  wgs : List Workgroup := []
  groups : List Group := []
  gangs : List Gang := []
  /-- released window bytes that are not cleared (R333) -/
  leftovers : List Left := []
  cmds : List Cmd := []
  faults : List FaultRec := []
  /-- kills that wait (R128), oldest first -/
  kills : List Kill := []
  kites : List Kite := []
  saved : List Saved := []
  /-- sealed images: key, VER (R330) -/
  seals : List (List Nat × Word64) := []
  /-- candidates, by RCB address (R309), and the launches and waves that have not ended in the order in which they reached
  STATE 1 (R311) -/
  candidates : List Nat := []
  reached : List Nat := []
  waves : List Wave := []
  work : List Work := []
  /-- effective budgets of the nodes with work, as of the last epoch (R10, R308) -/
  budgets : SMap (Option Res) := []
  /-- launch queues that a QERR stopped, by context and queue (R305) -/
  stopped : List (Nat × Nat) := []
  /-- launches held behind ORDER: RCB and the earlier launches it waits for (R304) -/
  ordered : List (Nat × List Nat) := []
  /-- launches of each queue that have not ended, and whether an ORDER stands behind them: (context, queue, RCB) -/
  queued : List (Nat × Nat × Nat) := []
  orders : List (Nat × Nat × List Nat) := []
  /-- gang reservations: die, RCB, cores, CLOCK when made (R312) -/
  reserved : List (Nat × Nat × List Place × Word64) := []
  /-- gangs waiting: RCB and the epochs they have waited (R312) -/
  gangWait : SMap Nat := []
  lastEpoch : Word64 := 0
  lastStart : SMap Word64 := []
  collectives : List Collective := []
  /-- who pushed the entries of collective queues: context, entry number, group (R372) -/
  pushers : List (Nat × Nat × Nat) := []
  /-- retired 64 KiB pages of device memory (R379) -/
  retired : List Nat := []
  /-- event records that met a full event ring: function and record (log 19) -/
  heldEvents : List (Nat × List Byte) := []
  errlog : List ErrRec := []
  rseq : BitVec 32 := 0
  scrubs : List (Nat × Word64) := []
  /-- SPDM requests since cold reset, which the sessions come of (R402) -/
  spdm : List (List Byte) := []
  tasks : List Task := []
  /-- writes of the device's own that wait for answers, oldest first (R361, R382) -/
  late : List Late := []
  /-- the TAIL of each tenant record's ring as last polled (R363) -/
  taskTails : SMap (BitVec 32) := []
  /-- expanders that are lost: 4 × port + number behind the port (R359, R376) -/
  lost : List Nat := []
  /-- coherence domains; none while the device is not divided (R62) -/
  domains : List Domain := []
  viralDevice : Bool := false
  power : Power := {}
  /-- the device's Cerlink peer ID, which firmware sets (R371) -/
  peerId : BitVec 12 := 0
  boot : Boot := {}
  nextId : Nat := 0
  nextTag : Nat := 1
  /-- the model's own fields (log 1, log 2) -/
  agenda : List Move := []
  cur : Cur := {}
  freeCtr : Nat := 0
  out : List OutMsg := []
  deriving DecidableEq, Repr

/-- The machine right after cold reset (R396): no start-up stage has run, nothing is resident, CLOCK is 0 (R196), PWRCTL
holds its reset value (R389), memory lists nothing. -/
def State.reset : State :=
  { bar := [(4096 * 64 + 0x200, 0x0C8000460A000001)] }

end Sys2Proof.Machine
end

