-- ==== Sys2Proof/Machine/Bits.lean ====
section
/-! DEFINITION. Bit fields, byte order and list helpers of the machine (R5, R7): values read from memory are natural
numbers, little-endian. -/

namespace Sys2Proof.Machine

/-- The number whose little-endian bytes are the list (R5). -/
def leNat : List Byte → Nat
  | [] => 0
  | b :: l => b.toNat + 256 * leNat l

/-- The `n` little-endian bytes of a number (R5). -/
def leBytes : Nat → Nat → List Byte
  | 0, _ => []
  | n + 1, x => BitVec.ofNat 8 x :: leBytes n (x / 256)

/-- Replace the field of `n` bits at bit `k`. -/
def putFld (w k n v : Nat) : Nat := w - fld w k n * 2 ^ k + v % 2 ^ n * 2 ^ k

/-- The two's-complement value of the low `n` bits. -/
def sx (n x : Nat) : Int :=
  let y := x % 2 ^ n
  if n = 0 then 0 else if y < 2 ^ (n - 1) then (y : Int) else (y : Int) - (2 ^ n : Nat)

/-- An integer as a 64-bit word, wrapped. -/
def w64 (i : Int) : Word64 := BitVec.ofInt 64 i

/-- A natural number as a 64-bit word. -/
def n64 (i : Nat) : Word64 := BitVec.ofNat 64 i

/-- Bit `k` of a number. -/
def bitN (x k : Nat) : Bool := x / 2 ^ k % 2 = 1

/-- A flag as a number. -/
def b2n (b : Bool) : Nat := if b then 1 else 0

/-- Addresses of code are computed modulo 2^57 (R178). -/
def va57 (a : Nat) : Word64 := n64 (a % 2 ^ 57)

/-- Replace element `i` of a list. -/
def putAt {α : Type} (l : List α) (i : Nat) (x : α) : List α := l.set i x

/-- The first position in a list at which the test holds. -/
def firstIdx {α : Type} (p : α → Bool) : List α → Nat → Option Nat
  | [], _ => none
  | x :: l, i => if p x then some i else firstIdx p l (i + 1)

/-- The threads of a mask, ascending. -/
def threads (m : BitVec 32) : List Nat := (List.range 32).filter (fun t => m.getLsbD t)

/-- The mask of a list of threads. -/
def maskOf (l : List Nat) : BitVec 32 := l.foldl (fun m t => m ||| BitVec.twoPow 32 t) 0

/-- The first failing element's value, in order (R205). -/
def firstSome {α β : Type} (f : α → Option β) : List α → Option β
  | [] => none
  | x :: l => match f x with
    | some y => some y
    | none => firstSome f l

/-- Fold a partial step over a list, stopping at the first error. -/
def foldE {α β ε : Type} (f : β → α → Except ε β) : β → List α → Except ε β
  | b, [] => .ok b
  | b, x :: l => match f b x with
    | .ok b' => foldE f b' l
    | .error e => .error e

/-- Put an element into an ascending list without repeats. -/
def insertAsc (x : Nat) : List Nat → List Nat
  | [] => [x]
  | y :: l => if x < y then x :: y :: l else if x = y then y :: l else y :: insertAsc x l

/-- Signed and unsigned order of equal-width words. -/
def sltB {w : Nat} (a b : BitVec w) : Bool := a.toInt < b.toInt
def ultB {w : Nat} (a b : BitVec w) : Bool := a.toNat < b.toNat

/-- Ceiling of a quotient. -/
def ceilDiv (a b : Nat) : Nat := (a + b - 1) / b

end Sys2Proof.Machine
end

