-- ==== Sys2Proof/Machine/Regs.lean ====
section
/-! DEFINITION. Reading and replacing the parts of the state: groups, fragments, workgroups, registers, predicates,
physical memory bytes, BAR registers, free values. -/

namespace Sys2Proof.Machine

/-- A group with nothing in it: what a lookup of an absent group gives. -/
def blankGroup : Group := { gid := 0, wid := 0, gidx := 0 }
/-- A fragment with nothing in it. -/
def blankFrag : Frag := { fid := 0, mask := 0, hdr := 0 }
/-- A workgroup with nothing in it. -/
def blankWg : Workgroup :=
  { wid := 0, rcb := 0, wgx := 0, ctx := 0, lnum := 0, gang := 0, gangSize := 0, place := ⟨0, 0, 0, 0⟩, ngrp := 0, fn := 0,
    fdom := 0, world := 0, prot := false, priv := false, divtrap := false, prio := 0, bwe := 24, depth := 0, image := 0, winSize := 0 }
/-- A Mule with nothing in it. -/
def blankMule : Mule := { hdr := 0, ended := true }

/-! ### Groups and fragments -/

def findGroup (l : List Group) (gid : Nat) : Option Group := l.find? (fun g => g.gid == gid)
def mapGroup (l : List Group) (gid : Nat) (f : Group → Group) : List Group := l.map (fun g => if g.gid = gid then f g else g)

def State.group? (s : State) (gid : Nat) : Option Group := findGroup s.groups gid
def State.group (s : State) (gid : Nat) : Group := (s.group? gid).getD blankGroup
/-- Replace group `gid` by its image. -/
def State.modGroup (s : State) (gid : Nat) (f : Group → Group) : State := { s with groups := mapGroup s.groups gid f }

def Group.frag? (g : Group) (fid : Nat) : Option Frag := g.frags.find? (fun f => f.fid == fid)
def Group.frag (g : Group) (fid : Nat) : Frag := (g.frag? fid).getD blankFrag
def Group.modFrag (g : Group) (fid : Nat) (h : Frag → Frag) : Group :=
  { g with frags := g.frags.map (fun f => if f.fid = fid then h f else f) }
def Group.modMule (g : Group) (h : Mule → Mule) : Group := { g with mule := g.mule.map h }

/-- The group, fragment, workgroup and Mule that issue in this step. -/
def State.cg (s : State) : Group := s.group s.cur.gid
def State.cf (s : State) : Frag := s.cg.frag s.cur.fid
def State.cm (s : State) : Mule := s.cg.mule.getD blankMule
def State.modCg (s : State) (f : Group → Group) : State := s.modGroup s.cur.gid f
def State.modCf (s : State) (h : Frag → Frag) : State := s.modCg (fun g => g.modFrag s.cur.fid h)
def State.modCm (s : State) (h : Mule → Mule) : State := s.modCg (fun g => g.modMule h)

/-! ### Workgroups -/

def State.wg? (s : State) (wid : Nat) : Option Workgroup := s.wgs.find? (fun w => w.wid == wid)
def State.wg (s : State) (wid : Nat) : Workgroup := (s.wg? wid).getD blankWg
def State.modWg (s : State) (wid : Nat) (f : Workgroup → Workgroup) : State :=
  { s with wgs := s.wgs.map (fun w => if w.wid = wid then f w else w) }
def State.cw (s : State) : Workgroup := s.wg s.cg.wid
def State.modCw (s : State) (f : Workgroup → Workgroup) : State := s.modWg s.cg.wid f
/-- The groups of a workgroup, by group index as the list holds them. -/
def State.groupsOf (s : State) (wid : Nat) : List Group := s.groups.filter (fun g => g.wid == wid)

/-! ### Position of the issuer -/

def State.curHdr (s : State) : Word64 := if s.cur.mule then s.cm.hdr else s.cf.hdr
def State.curWidx (s : State) : Nat := if s.cur.mule then s.cm.widx else s.cf.widx
def State.curClause (s : State) : Option Clause := if s.cur.mule then s.cm.clause else s.cf.clause
/-- Address of the first word of the instruction at word `k` of the clause at `hdr` (R316). -/
def wordAddr (hdr : Word64) (k : Nat) : Word64 := hdr + n64 (4 * (k + 1))
/-- Address of the issuing instruction. -/
def State.instrAddr (s : State) : Word64 := wordAddr s.curHdr s.curWidx

/-- A fragment of the group is held by the trap level (R318). -/
def Group.stopped (g : Group) (f : Frag) : Bool := f.level < g.tlevel

/-- Words of an instruction (R150). -/
def instrSize (i : Instr) : Nat := (encode i).length

/-- The next clause in fall-through order (R139). -/
def nextHdr (hdr : Word64) (c : Clause) : Word64 := va57 (hdr.toNat + 4 * (c.hdr.count + 1))

/-- Leave the instruction of `n` words behind: the next word of the clause, or the next clause (R139, R144). -/
def Frag.advance (f : Frag) (n : Nat) : Frag :=
  match f.clause with
  | some c =>
    if f.widx + n < c.nIns then { f with widx := f.widx + n, wait := .none, aged := false }
    else { f with hdr := nextHdr f.hdr c, widx := 0, clause := none, wait := .none, aged := false, arrived := none }
  | none => f

/-- Go to a clause header. -/
def Frag.goto (f : Frag) (a : Word64) : Frag :=
  { f with hdr := a, widx := 0, clause := none, wait := .none, aged := false, arrived := none }

def Mule.advance (m : Mule) (n : Nat) : Mule :=
  match m.clause with
  | some c => if m.widx + n < c.nIns then { m with widx := m.widx + n } else { m with hdr := nextHdr m.hdr c, widx := 0, clause := none }
  | none => m

def Mule.goto (m : Mule) (a : Word64) : Mule := { m with hdr := a, widx := 0, clause := none }

/-- Position of the issuer behind its instruction. -/
def State.advance (s : State) (n : Nat) : State :=
  if s.cur.mule then s.modCm (fun m => m.advance n) else s.modCf (fun f => f.advance n)
/-- Position of the issuer at a clause header. -/
def State.goto (s : State) (a : Word64) : State :=
  if s.cur.mule then s.modCm (fun m => m.goto a) else s.modCf (fun f => f.goto a)
/-- The clause after the issuer's own (R139). -/
def State.nextClause (s : State) : Word64 :=
  match s.curClause with
  | some c => nextHdr s.curHdr c
  | none => s.curHdr

/-! ### Registers (R19, R32, R122, R249) -/

def Group.sreg (g : Group) (i : Nat) : Word64 := SMap.get 0 g.sregs i
def Group.setS (g : Group) (i : Nat) (x : Word64) : Group := { g with sregs := SMap.set 0 g.sregs i x }
/-- Vector register `r` of thread `t`. -/
def Group.vreg (g : Group) (r t : Nat) : Word32 := SMap.get 0 g.vregs (32 * r + t)
def Group.setV (g : Group) (r t : Nat) (x : Word32) : Group := { g with vregs := SMap.set 0 g.vregs (32 * r + t) x }
/-- The pair of vector registers named by the even register `r` (R163). -/
def Group.vpair (g : Group) (r t : Nat) : Word64 := g.vreg (r + 1) t ++ g.vreg r t
def Group.setVpair (g : Group) (r t : Nat) (x : Word64) : Group :=
  (g.setV r t (x.setWidth 32)).setV (r + 1) t ((x >>> 32).setWidth 32)
def Group.href (g : Group) (r t : Nat) : Word64 := SMap.get 0 g.hregs (32 * r + t)
def Group.setH (g : Group) (r t : Nat) (x : Word64) : Group := { g with hregs := SMap.set 0 g.hregs (32 * r + t) x }
/-- Ballot of predicate `p`; p7 reads as true (R249). -/
def Group.pred (g : Group) (p : Nat) : BitVec 32 := if p = 7 then BitVec.allOnes 32 else SMap.get 0 g.preds p
/-- Write predicate `p` in the threads of `m` from the ballot `b`; a write to p7 is discarded (R249). -/
def Group.setPred (g : Group) (p : Nat) (m b : BitVec 32) : Group :=
  if p = 7 then g else { g with preds := SMap.set 0 g.preds p ((g.pred p &&& ~~~m) ||| (b &&& m)) }
def Group.mbyte (g : Group) (r i : Nat) : Byte := SMap.get 0 g.mregs (2048 * r + i)
def Group.accWord (g : Group) (tile row col : Nat) : Word32 := SMap.get 0 g.acc ((32 * tile + row) * 64 + col)
def Group.setAcc (g : Group) (tile row col : Nat) (x : Word32) : Group :=
  { g with acc := SMap.set 0 g.acc ((32 * tile + row) * 64 + col) x }

/-- Scalar register of the issuer: a Mule's own, or its group's (R19, R114). -/
def State.sreg (s : State) (i : Nat) : Word64 := if s.cur.mule then SMap.get 0 s.cm.sregs i else s.cg.sreg i
def State.setS (s : State) (i : Nat) (x : Word64) : State :=
  if s.cur.mule then s.modCm (fun m => { m with sregs := SMap.set 0 m.sregs i x }) else s.modCg (fun g => g.setS i x)
/-- Scalar register of an optional field; none gives `d` (R160). -/
def State.sregOr (s : State) (d : Word64) : SIdx → Word64
  | some i => s.sreg i.val
  | none => d
def State.setSOpt (s : State) (i : SIdx) (x : Word64) : State :=
  match i with
  | some i => s.setS i.val x
  | none => s

/-- Threads of the fragment that the guard selects (R151). -/
def State.guardBallot (s : State) (g : Guard) : BitVec 32 :=
  if g.neg then ~~~(s.cg.pred g.p.val) else s.cg.pred g.p.val
def State.gmask (s : State) (g : Guard) : BitVec 32 := s.cf.mask &&& s.guardBallot g
/-- The guard of a Mule, whose predicates are single bits (R114); p7 reads as true. -/
def State.muleGuard (s : State) (g : Guard) : Bool :=
  let p := g.p.val == 7 || s.cm.preds.getLsbD g.p.val
  if g.neg then !p else p

/-- `order` first, then the other threads in ascending order: the order in which the lane visits (R18, R64). -/
def State.visit (s : State) (m : BitVec 32) : List Nat :=
  let named := s.cur.order.filter (fun t => t < 32 && m.getLsbD t)
  named ++ (threads m).filter (fun t => !named.contains t)

/-! ### Physical memory -/

/-- The canonical form of memory: strictly rising addresses, and no entry that equals what an unlisted address reads as. -/
abbrev Memory.wf (m : SMap Byte) : Prop := SMap.wf 0 m = true

def State.rd8 (s : State) (a : Nat) : Byte := SMap.get 0 s.mem a
/-- `n` bytes from physical address `a`. -/
def State.rdN (s : State) (a n : Nat) : List Byte := (List.range n).map (fun i => s.rd8 (a + i))
/-- The `n`-byte little-endian number at `a`. -/
def State.rd (s : State) (a n : Nat) : Nat := leNat (s.rdN a n)
def writeBytes (m : SMap Byte) (a : Nat) : List Byte → SMap Byte
  | [] => m
  | b :: l => writeBytes (SMap.set 0 m a b) (a + 1) l
/-- Surrogates whose code range holds one of `n` bytes from `a` on become INVALID, their batch discarded (R136). -/
def staleKites (l : List Kite) (a n : Nat) : List Kite :=
  l.map (fun k => if a / 65536 ≤ k.codePa ∧ 65536 * k.codePa < a + n then { k with state := .invalid, batch := [] } else k)
/-- An agent of the device writes bytes at physical address `a`. -/
def State.wrN (s : State) (a : Nat) (l : List Byte) : State :=
  { s with mem := writeBytes s.mem a l, kites := staleKites s.kites a l.length }
/-- Bytes come to physical address `a` from outside the device, or from its caches: no store of an agent of the device. -/
def State.poke (s : State) (a : Nat) (l : List Byte) : State := { s with mem := writeBytes s.mem a l }
/-- Write an `n`-byte little-endian number. -/
def State.wr (s : State) (a n x : Nat) : State := s.wrN a (leBytes n x)

/-- Write many bytes at once: the listed cells below and above the range stay. -/
def writeRange (m : SMap Byte) (a : Nat) (l : List Byte) : SMap Byte :=
  m.filter (fun e => decide (e.1 < a)) ++ ((l.zipIdx a).filter (fun e => e.1 ≠ 0)).map (fun e => (e.2, e.1)) ++
    m.filter (fun e => decide (a + l.length ≤ e.1))
def State.wrBig (s : State) (a : Nat) (l : List Byte) : State :=
  { s with mem := writeRange s.mem a l, kites := staleKites s.kites a l.length }

def State.poisonedLine (s : State) (line : Nat) : Bool := s.poison.contains line
def State.poisonLine (s : State) (line : Nat) : State := { s with poison := insertAsc line s.poison }
def State.cleanLine (s : State) (line : Nat) : State := { s with poison := s.poison.filter (· ≠ line) }

/-! ### Window bytes and free values -/

/-- Free value `k` of this step, of width `w` (log 2). -/
def State.free (s : State) (w k : Nat) : BitVec w := Config.freeValue w (s.freeCtr * 2 ^ 24 + k)

/-- A byte of the window; a byte that nothing has written reads as zero, or as a free value where bytes of an earlier
workgroup of the context may remain (R333). -/
def Workgroup.winByte (w : Workgroup) (o : Nat) : Byte :=
  match SMap.get none w.win o with
  | some b => b
  | none => if w.left.any (fun e => e.1 ≤ o && o < e.1 + e.2) then Config.leftByte w.wid o else 0
def Workgroup.winN (w : Workgroup) (o n : Nat) : List Byte := (List.range n).map (fun i => w.winByte (o + i))
def writeWin (m : SMap (Option Byte)) (o : Nat) : List Byte → SMap (Option Byte)
  | [] => m
  | b :: l => writeWin (SMap.set none m o (some b)) (o + 1) l
/-- Write window bytes. -/
def Workgroup.setWinN (w : Workgroup) (o : Nat) (l : List Byte) : Workgroup := { w with win := writeWin w.win o l }

/-! ### BAR registers and telemetry (R6, R340, R403 to R405) -/

/-- The physical function (R339). -/
def physFn : Nat := 64
def State.barReg (s : State) (fn off : Nat) : Word64 := SMap.get 0 s.bar (4096 * fn + off)
def State.setBar (s : State) (fn off : Nat) (x : Word64) : State := { s with bar := SMap.set 0 s.bar (4096 * fn + off) x }
/-- A 64-bit counter saturates (R403). -/
def satAdd (x : Word64) (n : Nat) : Word64 := n64 (min (2 ^ 64 - 1) (x.toNat + n))

/-- Raise a counter: doubleword `i` of function `fn`, device counters at 65 (R404, R405). -/
def State.count (s : State) (fn i n : Nat) : State :=
  { s with counters := SMap.set 0 s.counters (32 * fn + i) (satAdd (SMap.get 0 s.counters (32 * fn + i)) n) }

/-- Raise a context's counter (R404): 0 DASSIST, 1 PREEMPT, 2 KSERVE, 3 KSAVE. -/
def State.countCtx (s : State) (ctx i : Nat) : State :=
  { s with ctxs := s.ctxs.map (fun c => if c.num = ctx then { c with counters := SMap.set 0 c.counters i (satAdd (SMap.get 0 c.counters i) 1) } else c) }

def State.emit (s : State) (m : OutMsg) : State := { s with out := s.out ++ [m] }

/-! ### Contexts, commands -/

def State.ctx? (s : State) (n : Nat) : Option Ctx := s.ctxs.find? (fun c => c.num == n)
def State.modCtx (s : State) (n : Nat) (f : Ctx → Ctx) : State :=
  { s with ctxs := s.ctxs.map (fun c => if c.num = n then f c else c) }
def State.cmd? (s : State) (id : Nat) : Option Cmd := s.cmds.find? (fun c => c.id == id)
def State.modCmd (s : State) (id : Nat) (f : Cmd → Cmd) : State :=
  { s with cmds := s.cmds.map (fun c => if c.id = id then f c else c) }
def State.dropCmd (s : State) (id : Nat) : State := { s with cmds := s.cmds.filter (fun c => c.id ≠ id) }

/-! ### In-flight operations (R51, R52) -/

/-- The in-flight counter of a path. -/
def Group.inflight (g : Group) (path : Nat) : Nat := (g.flights.filter (fun f => f.path == path)).length
/-- Count an operation on a path. -/
def Group.fly (g : Group) (f : Flight) : Group := { g with flights := g.flights ++ [f] }
/-- Older values of the bytes that its counted stores have written: what another agent may still read (R76). -/
def Group.olderBytes (g : Group) : List (Nat × Byte) := (g.flights.map (·.old)).flatten
/-- Remove the oldest operation of a path that is of one of these kinds. -/
def landFirst (p : Flight → Bool) : List Flight → List Flight
  | [] => []
  | f :: l => if p f then l else f :: landFirst p l

end Sys2Proof.Machine
end

