-- ==== Sys2Proof/Machine/Rcb.lean ====
section
/-! DEFINITION. Region control blocks in memory: their fields, the effective values of inheritable fields (R10, R299 to
R301), budgets, and the event ring (R323, R337). RCB addresses are physical (log 20). -/

namespace Sys2Proof.Machine

/-- Doubleword `i` of the RCB. -/
def State.rcbD (s : State) (rcb i : Nat) : Nat := s.rd (rcb + 8 * i) 8
def State.setRcbD (s : State) (rcb i x : Nat) : State := s.wr (rcb + 8 * i) 8 x
def State.rcbKind (s : State) (rcb : Nat) : Nat := fld (s.rcbD rcb 0) 60 4
def State.rcbState (s : State) (rcb : Nat) : Nat := fld (s.rcbD rcb 0) 56 4
def State.rcbDepth (s : State) (rcb : Nat) : Nat := fld (s.rcbD rcb 0) 53 3
def State.rcbOvr (s : State) (rcb k : Nat) : Bool := bitN (s.rcbD rcb 0) (42 + k)
def State.rcbParent (s : State) (rcb : Nat) : Nat := fld (s.rcbD rcb 1) 0 57
/-- Set STATE and FAIL (R299, R314). -/
def State.setRcbState (s : State) (rcb st fail : Nat) : State :=
  s.setRcbD rcb 0 (putFld (putFld (s.rcbD rcb 0) 56 4 st) 0 8 fail)
def State.setRcbStateOnly (s : State) (rcb st : Nat) : State := s.setRcbD rcb 0 (putFld (s.rcbD rcb 0) 56 4 st)

/-- The nodes from an RCB up to its context, at most `fuel` of them. -/
def State.rcbPath (s : State) : Nat → Nat → List Nat
  | 0, _ => []
  | fuel + 1, r => r :: (if s.rcbKind r = 1 || s.rcbParent r = 0 then [] else s.rcbPath fuel (s.rcbParent r))
/-- A chain that reaches a context within 16 nodes (R304). -/
def State.path (s : State) (rcb : Nat) : List Nat := s.rcbPath 16 rcb
/-- The context's RCB at the top of a path. -/
def State.rootOf (s : State) (rcb : Nat) : Nat := (s.path rcb).getLastD rcb

/-- The effective value of a field: from the context down, an override replaces the value, clamped to the parent's
where the field is clamped (R10). -/
def State.eff (s : State) (rcb ovr : Nat) (clamp : Bool) (own : Nat → Nat) : Nat :=
  match (s.path rcb).reverse with
  | [] => 0
  | r :: l => l.foldl (fun v n => if s.rcbOvr n ovr then (if clamp then min v (own n) else own n) else v) (own r)

def State.effPrio (s : State) (rcb : Nat) : Nat := s.eff rcb 1 true (fun n => fld (s.rcbD n 4) 60 4)
def State.effFdom (s : State) (rcb : Nat) : Nat := s.eff rcb 2 false (fun n => fld (s.rcbD n 4) 52 8)
def State.effWorld (s : State) (rcb : Nat) : Nat := fld (s.rcbD (s.rootOf rcb) 4) 44 8
/-- The effective watchdog exponent (R10, R299). -/
def State.effBwe (s : State) (rcb : Nat) : Nat :=
  let c := s.eff rcb 4 false (fun n => fld (s.rcbD n 4) 39 5)
  if c = 0 then 24 else max c 16
def State.effGang (s : State) (rcb : Nat) : Nat := s.eff rcb 5 false (fun n => fld (s.rcbD n 4) 35 4)

/-- The effective budget of a node as its RCBs hold it (R10). -/
def State.effBudget (s : State) (rcb : Nat) : Res :=
  { cores := s.eff rcb 0 true (fun n => fld (s.rcbD n 2) 48 16), gran := s.eff rcb 0 true (fun n => fld (s.rcbD n 2) 28 20)
    scrk := s.eff rcb 0 true (fun n => fld (s.rcbD n 3) 40 24), acct := s.eff rcb 0 true (fun n => fld (s.rcbD n 2) 10 18)
    cesh := s.eff rcb 0 true (fun n => fld (s.rcbD n 3) 32 8), pwsh := s.eff rcb 0 true (fun n => fld (s.rcbD n 3) 24 8) }

/-- The effective budget of a node, as of the last epoch (R308). -/
def State.budget (s : State) (rcb : Nat) : Res := (SMap.get none s.budgets rcb).getD (s.effBudget rcb)

/-- The fields of a node that must not change while it has work (R308). -/
def State.nodeSig (s : State) (n : Nat) : List Nat :=
  [s.rcbKind n, s.rcbParent n, if s.rcbOvr n 2 then fld (s.rcbD n 4) 52 8 else 256, if s.rcbKind n = 1 then fld (s.rcbD n 4) 44 8 else 256]

/-- The scheduler takes up a launch or wave. -/
def State.newWork (s : State) (ctx rcb : Nat) : State :=
  let p := s.path rcb
  { s with
    work := s.work.filter (fun w => w.rcb ≠ rcb) ++ [⟨rcb, ctx, p.map (fun n => (n, s.nodeSig n)), s.effPrio rcb, s.effFdom rcb, s.effBwe rcb, s.effGang rcb⟩]
    budgets := p.foldl (fun (m : SMap (Option Res)) n =>
      if (SMap.get none m n).isSome then m else SMap.set none m n (some (s.effBudget n))) s.budgets }
def State.dropWork (s : State) (rcb : Nat) : State :=
  { s with work := s.work.filter (fun w => w.rcb ≠ rcb), waves := s.waves.filter (fun w => w.rcb ≠ rcb), reached := s.reached.filter (· ≠ rcb) }
def State.workOf (s : State) (rcb : Nat) : Option Work := s.work.find? (fun w => w.rcb == rcb)

/-- Nodes of a launch's path: as it was taken up, while the scheduler knows it (R308). -/
def State.nodesOf (s : State) (rcb : Nat) : List Nat := match s.workOf rcb with
  | some w => w.path.map Prod.fst
  | none => s.path rcb

/-- Is `node` on the path of `rcb`: does the work hang in its subtree? -/
def State.inSubtree (s : State) (node rcb : Nat) : Bool := (s.nodesOf rcb).contains node

/-- The distinct cores of a list of places. -/
def coresOf (l : List Place) : List (Nat × Nat × Nat) := (l.map (fun p => (p.die, p.cluster, p.core))).eraseDups

/-- What the resident work of a node's subtree holds (R10). -/
def State.held (s : State) (node : Nat) : Res :=
  let ws := s.wgs.filter (fun w => s.inSubtree node w.rcb)
  let gs := s.groups.filter (fun g => ws.any (fun w => w.wid == g.wid))
  { cores := (coresOf (ws.map (·.place))).length, gran := gs.foldl (fun n g => n + g.vside + g.mside) 0
    scrk := ws.foldl (fun n w => n + w.winSize / 1024) 0, acct := gs.foldl (fun n g => n + g.tiles) 0 }

/-- Write the holdings of every node on a path into D5 and D6 (R299). -/
def State.writeHeld (s : State) (rcb : Nat) : State :=
  (s.nodesOf rcb).foldl (fun s n =>
    let h := s.held n
    let d5 := putFld (putFld (putFld (s.rcbD n 5) 44 20 h.gran) 20 24 h.scrk) 2 18 h.acct
    (s.setRcbD n 5 d5).setRcbD n 6 (putFld (s.rcbD n 6) 48 16 h.cores)) s

/-- Granules that every node on the path still allows (R34). -/
def State.granFree (s : State) (rcb n : Nat) : Bool :=
  (s.nodesOf rcb).all (fun r => decide ((s.held r).gran + n ≤ (s.budget r).gran))

/-! ### Fields of a context (R300) -/

def State.ctxRcb (s : State) (ctx : Nat) : Nat := match s.ctx? ctx with
  | some c => c.rcb
  | none => 0
def State.ctxFn (s : State) (ctx : Nat) : Nat :=
  let v := fld (s.rcbD (s.ctxRcb ctx) 8) 8 8
  if v = 0xFF then physFn else v
def State.ctxProt (s : State) (ctx : Nat) : Bool := bitN (s.rcbD (s.ctxRcb ctx) 8) 2
def State.ctxWorld (s : State) (ctx : Nat) : BitVec 8 := BitVec.ofNat 8 (fld (s.rcbD (s.ctxRcb ctx) 4) 44 8)
/-- GOOD and PREV as adopted (R123, R300). -/
def State.ctxGood (s : State) (ctx : Nat) : BitVec 2 := BitVec.ofNat 2 (fld (s.rcbD (s.ctxRcb ctx) 11) 0 2)
def State.ctxPrev (s : State) (ctx : Nat) : BitVec 2 := BitVec.ofNat 2 (fld (s.rcbD (s.ctxRcb ctx) 11) 2 2)

/-! ### Function and machine blocks (R339), rings (R337) -/

def State.fnBlock (s : State) (fn : Nat) : Nat := (s.barReg physFn 0x100).toNat + 128 * fn
def State.machOf (s : State) (fn : Nat) : Nat := fld (s.rd (s.fnBlock fn + 8) 8) 0 6
def State.machBlock (s : State) (mach : Nat) : Nat := (s.barReg physFn 0x108).toNat + 32 * mach

/-- A ring descriptor at a physical address (R337). -/
structure Ring where
  base : Nat
  logn : Nat
  head : Nat
  tail : Nat
  deriving DecidableEq, Repr

def State.ring (s : State) (a : Nat) : Ring :=
  let d0 := s.rd a 8
  let d1 := s.rd (a + 8) 8
  ⟨fld d0 0 57, fld d0 60 4, fld d1 32 32, fld d1 0 32⟩

/-- Records in the ring. -/
def Ring.used (r : Ring) : Nat := (r.tail + 2 ^ 32 - r.head) % 2 ^ 32
/-- LOGN lies in 4 to 15 and a record more fits (R337). -/
def Ring.room (r : Ring) : Bool := 4 ≤ r.logn && r.used < 2 ^ r.logn

/-- Write a record at TAIL and raise TAIL (R337). -/
def State.ringPut (s : State) (a : Nat) (rec : List Byte) : State :=
  let r := s.ring a
  (s.wrN (r.base + rec.length * (r.tail % 2 ^ r.logn)) rec).wr (a + 8) 4 (r.tail + 1)

/-- Post the event records that wait for room, oldest first (log 19). -/
def State.flushEvents (s : State) : List (Nat × List Byte) → State
  | [] => s
  | (fn, rec) :: l =>
    let a := s.fnBlock fn + 48
    if (s.ring a).room then ((s.ringPut a rec).emit (.msix fn 1)).flushEvents l
    else
      let t := s.flushEvents l
      { t with heldEvents := (fn, rec) :: t.heldEvents }

/-- Post a 32-byte event record to a function's event ring, with MSI-X vector 1 (R323, R355). -/
def State.postEvent (s : State) (fn : Nat) (rec : List Byte) : State :=
  let l := s.heldEvents ++ [(fn, rec)]
  { s with heldEvents := [] }.flushEvents l

end Sys2Proof.Machine
end

