-- ==== Sys2Proof/Machine/Translate.lean ====
section
/-! DEFINITION. Address translation (R334 to R336, R338, R341, R343, R345) and the fate of an access to a translated
address (R357, R358, R366 to R370, R375, R376). Reading tables changes nothing, so a walk is a function. -/

namespace Sys2Proof.Machine

/-- A translation fault (R343). `paused` marks a write held by a full dirty-log ring (R347). -/
structure XFault where
  kind : Nat
  stage : Nat
  level : Nat
  gpa : Nat
  acc : Acc
  paused : Bool := false
  deriving DecidableEq, Repr

/-- A translated access. `leaf` is the physical address of the stage-2 leaf whose D is clear while DL is set. -/
structure Xlat where
  pa : Nat
  gpa : Nat
  w : Bool
  x : Bool
  sh : Bool
  mg : Bool
  pw : Nat
  leafBase : Nat
  leafSize : Nat
  /-- bytes of the stage-1 leaf, which is the managed page (R125) -/
  pageSize : Nat := 2 ^ 16
  dirty : Option (Nat × Nat) := none
  deriving DecidableEq, Repr

/-- The base of the managed page of an address: of the stage-1 leaf that maps it (R125). -/
def Xlat.pageOf (x : Xlat) (va : Nat) : Nat := va / x.pageSize * x.pageSize

/-- Bytes that a leaf at a level maps (R334). -/
def leafBytes (level : Nat) : Nat := if level = 0 then 2 ^ 16 else if level = 1 then 2 ^ 21 else 2 ^ 30

/-- Index into the table of a level (R334); `top` bits at level 4. -/
def tableIndex (a level top : Nat) : Nat :=
  if level = 4 then fld a 48 top else if level = 0 then fld a 16 5 else fld a (9 * level + 12) 9

/-- The leaf bit L of R335. -/
def entLeaf (e : Nat) : Bool := bitN e 1

/-- Is a valid entry malformed (R335)? -/
def malformed (e level : Nat) (stage1 : Bool) : Bool :=
  (entLeaf e && decide (level ≥ 3)) || (!entLeaf e && level == 0) ||
  (!entLeaf e && fld e 2 6 != 0) ||
  (entLeaf e && stage1 && fld e 4 2 != 0) || (!stage1 && bitN e 6) ||
  (entLeaf e && bitN e 6 && (level == 2 || bitN e 7)) ||
  (entLeaf e && (fld e 16 36 * 2 ^ 16) % leafBytes level != 0) ||
  (entLeaf e && !(stage1 && bitN e 6) && fld e 8 8 != 0)

def nextTable (e : Nat) : Nat := fld e 8 44 * 2 ^ 8
def leafAddr (e : Nat) : Nat := fld e 16 36 * 2 ^ 16

/-- Walk of one stage from a level's table down. `rd` reads the entry at an address of the tables; the leaf, its level
and where it lies are returned (R334, R335). A fault names the GPA of a stage-1 entry, or the GPA `gpa` that stage 2
translates (R343). -/
def walk (rd : Nat → Except XFault Nat) (a top : Nat) (stage1 : Bool) (acc : Acc) (gpa : Nat) :
    Nat → Nat → Except XFault (Nat × Nat × Nat)
  | level, table =>
    let at_ := table + 8 * tableIndex a level top
    match rd at_ with
    | .error f => .error f
    | .ok e =>
      let bad (k : Nat) : XFault := ⟨k, if stage1 then 1 else 2, level, if stage1 then at_ else gpa, acc, false⟩
      if !bitN e 0 then .error (bad 1)
      else if malformed e level stage1 then .error (bad 4)
      else if entLeaf e then .ok (e, level, at_)
      else match level with
        | 0 => .error (bad 4)
        | l + 1 => walk rd a top stage1 acc gpa l (nextTable e)

/-- What stage 2 makes of a GPA. -/
structure S2 where
  pa : Nat
  w : Bool
  x : Bool
  sh : Bool
  size : Nat
  level : Nat
  /-- physical address of a leaf with DL 1, and its D -/
  log : Option (Nat × Bool)
  deriving DecidableEq, Repr

/-- Stage 2 of a machine (R336, R339). -/
def State.stage2 (s : State) (mach gpa : Nat) (acc : Acc) : Except XFault S2 :=
  let m0 := s.rd (s.machBlock mach) 8
  if !bitN m0 0 then .ok ⟨gpa, true, true, false, 2 ^ 30, 2, none⟩
  else
    match walk (fun a => .ok (s.rd a 8)) gpa 4 false acc gpa 4 (fld m0 12 40 * 2 ^ 12) with
    | .error f => .error f
    | .ok (e, level, at_) =>
      if acc == .write && !bitN e 2 then .error ⟨2, 2, level, gpa, acc, false⟩
      else if acc == .fetch && !bitN e 3 then .error ⟨3, 2, level, gpa, acc, false⟩
      else .ok ⟨leafAddr e + gpa % leafBytes level, bitN e 2, bitN e 3, bitN e 7, leafBytes level, level,
        if bitN e 5 then some (at_, bitN e 4) else none⟩

/-- A context's translation block (R338). -/
def State.ctxBlock (s : State) (fn ctx : Nat) : Nat := fld (s.rd (s.fnBlock fn) 8) 0 57 + 32 * ctx

/-- Bytes of device memory: what is fitted (R1), or what minimal mode leaves: one HBM stack, or one bridge die's channels
(R397). -/
def State.capacity (s : State) : Nat := match s.fitting, s.boot.minimal with
  | .h, false => 384 * 2 ^ 30
  | .h, true => 48 * 2 ^ 30
  | .l, false => 2 ^ 41
  | .l, true => 2 ^ 40

/-- Cerlink is up: a CB7-H that runs in full (R1, R397). -/
def State.cerlink (s : State) : Bool := s.fitting == .h && !s.boot.minimal

/-- Target bits of a physical address (R357). -/
def paTarget (pa : Nat) : Nat := fld pa 50 2

/-- Entry `i` of a function's remote range table (R358): base, pages, D1. -/
def State.rrt (s : State) (fn i : Nat) : Nat := (s.barReg physFn 0x130).toNat + 2048 * fn + 32 * i
def State.rrtCovers (s : State) (fn pa i : Nat) : Bool :=
  let e := s.rrt fn i
  let d0 := s.rd e 8
  let base := fld d0 16 36 * 2 ^ 16
  bitN d0 0 && decide (base ≤ pa) && decide (pa < base + fld (s.rd (e + 8) 8) 32 32 * 2 ^ 16)
/-- The valid entry that covers a CXL address. -/
def State.rrtFind (s : State) (fn pa : Nat) : Option Nat := (List.range 64).find? (s.rrtCovers fn pa)

/-- Is a valid range of the function viral (R358, R375)? -/
def State.viralRange (s : State) (fn : Nat) : Bool := (List.range 64).any (fun i =>
  bitN (s.rd (s.rrt fn i) 8) 0 && bitN (s.rd (s.rrt fn i + 8) 8) 16)

/-- Does the output of a translation exist (R357)? -/
def State.paExists (s : State) (fn pa : Nat) : Bool :=
  match paTarget pa with
  | 0 => decide (pa < s.capacity)
  | 1 => (s.rrtFind fn pa).isSome
  | _ => s.cerlink

/-- Both stages (R336). The page-word array lies at a physical address: the spec says of PWBASE no address space, and the model
takes it so (log 20). -/
def State.walkBoth (s : State) (fn ctx : Nat) (va : Nat) (acc : Acc) : Except XFault Xlat :=
  let blk := s.ctxBlock fn ctx
  let b0 := s.rd blk 8
  let mach := s.machOf fn
  if !bitN b0 0 then .error ⟨1, 1, 4, 0, acc, false⟩
  else
    let rd (gpa : Nat) : Except XFault Nat :=
      match s.stage2 mach gpa .read with
      | .error f => .error { f with acc := .walk, gpa := gpa }
      | .ok t => .ok (s.rd t.pa 8)
    match walk rd va 9 true acc 0 4 (fld b0 12 40 * 2 ^ 12) with
    | .error f => .error f
    | .ok (e, level, at_) =>
      if acc == .write && !bitN e 2 then .error ⟨2, 1, level, at_, acc, false⟩
      else if acc == .fetch && !bitN e 3 then .error ⟨3, 1, level, at_, acc, false⟩
      else
        let gpa := leafAddr e + va % leafBytes level
        match s.stage2 mach gpa acc with
        | .error f => .error f
        | .ok t =>
          let st := if bitN (s.rd (s.machBlock mach) 8) 0 then 2 else 1
          let lv := if st = 2 then t.level else level
          if !s.paExists fn t.pa then .error ⟨1, st, lv, if st = 2 then gpa else at_, acc, false⟩
          else if bitN e 6 && paTarget t.pa ≠ 0 then .error ⟨5, 1, level, at_, acc, false⟩
          else
            let size := min (leafBytes level) t.size
            .ok { pa := t.pa, gpa := gpa, w := bitN e 2 && t.w, x := bitN e 3 && t.x, sh := bitN e 7 || t.sh, mg := bitN e 6
                  pw := fld (s.rd (blk + 8) 8) 0 57 + 8 * (fld e 52 12 * 256 + fld e 8 8)
                  leafBase := va / size * size, leafSize := size, pageSize := leafBytes level
                  dirty := match t.log with
                    | some (a, false) => some (a, gpa / 65536 * 65536 + t.level)
                    | _ => none }

/-- The place of an agent that stands on no cluster. -/
def noPlace : Place := ⟨4, 0, 0, 0⟩

/-- Does a core's access look into the TLB that holds the entry: its own, or the shared one of its die? An agent on no
cluster looks into the shared ones (R341). -/
def TlbEntry.seenBy (e : TlbEntry) (p : Place) : Bool :=
  (p.die == e.die && (e.core == none || e.core == some (p.cluster, p.core))) || (4 ≤ p.die && e.core == none)

/-- The first address that the entry serves. -/
def TlbEntry.base (e : TlbEntry) : Nat := 65536 * e.vpage
/-- Does the entry serve an address? -/
def TlbEntry.covers (e : TlbEntry) (va : Nat) : Bool := e.base ≤ va && va < e.base + e.leafSize

/-- A cached translation with the rights that the access needs, to memory that exists. A write that a dirty log must record
first finds none, and walks (R341, R345, R357). -/
def State.tlbFind (s : State) (fn ctx va : Nat) (acc : Acc) (p : Place := noPlace) : Option TlbEntry :=
  s.tlb.find? (fun e => e.ctx == ctx && e.machine == s.machOf fn && e.covers va && e.seenBy p &&
    (acc != .write || (e.w && e.dirty)) && (acc != .fetch || e.x) && s.paExists fn (65536 * e.ppage + (va - e.base)))

/-- What a cached translation says of an address. -/
def TlbEntry.at (e : TlbEntry) (va : Nat) : Xlat :=
  { pa := 65536 * e.ppage + (va - e.base), gpa := 65536 * e.gpage + (va - e.base), w := e.w, x := e.x, sh := e.sh, mg := e.mg
    pw := e.pw, leafBase := e.base, leafSize := e.leafSize, pageSize := e.pageSize }

/-- The translation of an access of an agent at a place: a cached one where a TLB holds it, else a walk (R341). -/
def State.translate (s : State) (fn ctx va : Nat) (acc : Acc) (p : Place := noPlace) : Except XFault Xlat :=
  match s.tlbFind fn ctx va acc p with
  | some e => .ok (e.at va)
  | none => s.walkBoth fn ctx va acc

/-! ### The fate of an access -/

/-- The agent of an access. -/
structure Who where
  fn : Nat
  ctx : Nat
  world : BitVec 8
  prot : Bool
  place : Place
  /-- the group on whose scratchpad path its map fills count (R44) -/
  gid : Option Nat := none
  /-- older values that its reads may return, by generic address (R76) -/
  old : List (Nat × Byte) := []
  deriving DecidableEq, Repr

def Workgroup.who (w : Workgroup) : Who := { fn := w.fn, ctx := w.ctx, world := w.world, prot := w.prot, place := w.place }
/-- A context as an agent of its own: the scheduler and the engines (R63), which have no L1 and stand on no cluster. -/
def State.ctxWho (s : State) (ctx : Nat) : Who :=
  { fn := s.ctxFn ctx, ctx := ctx, world := s.ctxWorld ctx, prot := s.ctxProt ctx, place := noPlace }
/-- An asynchronous command as an agent (R63, R76). -/
def State.cmdWho (s : State) (c : Cmd) : Who := { s.ctxWho c.ctx with gid := some c.gid, old := c.old }
/-- Does the agent issue through an L1? -/
def Who.cached (a : Who) : Bool := a.place.die < 4
/-- The hardware of the agent's core where it reads and writes tables at their home slices, past the L1. -/
def Who.atHome (a : Who) : Who := { a with place := noPlace }

/-- The page word of a translation's page as a place (R124). -/
def Xlat.word (x : Xlat) : Xlat := { x with pa := x.pw, sh := false, dirty := none }

/-- What becomes of one access. -/
inductive Fate where
  /-- performed at this translation -/
  | ok (x : Xlat)
  /-- the translation faults -/
  | fault (f : XFault)
  /-- CONF_STORE (R369) -/
  | conf
  /-- CONF_STORE answered by a peer (R369): the write does nothing and the cause is deferred -/
  | peerConf
  /-- the read returns poisoned data (R362, R369, R376) -/
  | poison
  /-- the write is dropped and settled as if performed (R362, R369, R376) -/
  | silent
  /-- the operation is dropped whole (R370, R375); the deferred cause's code and TVAL, if it takes one here -/
  | dropped (c : Option (Nat × Word64))
  /-- the home slice rejects a request that comes from a cluster of another coherence domain (R62) -/
  | reject
  deriving DecidableEq, Repr

/-- Does some protected context have this world (R369)? -/
def State.worldProtected (s : State) (w : BitVec 8) : Bool := s.ctxs.any (fun c => s.ctxProt c.num && s.ctxWorld c.num == w)

/-- World and WS of a page (R368): device memory and CXL; a peer's are known to the peer alone. -/
def State.pageWorld (s : State) (fn pa : Nat) : BitVec 8 × Bool :=
  match paTarget pa with
  | 0 =>
    let e := s.rd ((s.barReg physFn 0x128).toNat + 2 * (pa / 65536)) 2
    (BitVec.ofNat 8 (fld e 0 8), bitN e 15)
  | _ =>
    match s.rrtFind fn pa with
    | some i =>
      let d1 := s.rd (s.rrt fn i + 8) 8
      (BitVec.ofNat 8 (fld d1 24 8), bitN d1 17)
    | none => (0, true)

/-- Does the peer refuse the access under its own world map (R369)? Only the peer knows: a free value (log 2). -/
def State.peerRefuses (s : State) (pa : Nat) : Bool := s.free 1 (pa % 65536) == 1

/-- The roster bit of a peer (R356). -/
def State.onRoster (s : State) (ctx peer : Nat) : Bool :=
  bitN (s.rd ((s.barReg physFn 0x118).toNat + 1024 * ctx + peer / 8) 1) (peer % 8)

/-- Are outbound writes of the context dropped (R375)? -/
def State.blocked (s : State) (ctx : Nat) : Bool := s.ctxs.any (fun c => c.num == ctx && c.blocked)

/-- The number of the expander that holds a CXL address, among the four of each port (R359). -/
def expanderOf (pa : Nat) : Nat := 4 * fld pa 48 2 + (Config.expander pa).toNat
/-- Does an expander of a CB7-H hold the address: ports 2 and 3 (R357)? -/
def State.onExpander (s : State) (pa : Nat) : Bool := s.fitting == .h && paTarget pa == 1 && decide (2 ≤ fld pa 48 2)

/-- Does an extent in STATE 3 hold the address (R362)? -/
def State.releasing (s : State) (pa : Nat) : Bool :=
  s.fitting == .l && paTarget pa = 0 &&
  s.scrubs.any (fun e => fld (s.rd ((s.barReg physFn 0x150).toNat + 32 * e.1) 8) 53 11 == pa / 2 ^ 30)

/-- Room in a machine's dirty-log ring (R347). -/
def State.dlrRoom (s : State) (mach : Nat) : Bool := (s.ring (s.machBlock mach + 8)).room

/-- The domain of a context, of a cluster and of a page, by its place in the list (R62). -/
def State.ctxDomain (s : State) (ctx : Nat) : Option Nat := s.domains.findIdx? (fun d => d.ctxs.contains ctx)
def State.clusterDomain (s : State) (c : Nat) : Option Nat := s.domains.findIdx? (fun d => d.clusters.contains c)
def State.pageDomain (s : State) (page : Nat) : Option Nat :=
  s.domains.findIdx? (fun d => d.pages.any (fun r => decide (r.1 ≤ page ∧ page < r.1 + r.2)))

/-- Does the home slice reject the agent's request for a line: of another domain than the agent's cluster, and not of a page
that tenants share, whose lines no cluster holds (R61, R62)? -/
def State.rejects (s : State) (a : Who) (x : Xlat) : Bool :=
  a.cached && !x.sh && (s.pageDomain (x.pa / 65536)).isSome && s.pageDomain (x.pa / 65536) != s.clusterDomain (a.place.die * 64 + a.place.cluster)

/-- The fate of an access of an agent to a translated address (R357 to R376). -/
def State.fateAt (s : State) (a : Who) (x : Xlat) (va : Nat) (isW : Bool) : Fate :=
  if paTarget x.pa ≥ 2 then
    if !s.onRoster a.ctx (fld x.pa 39 12) then .dropped (some (32, n64 va))
    else if isW && s.blocked a.ctx then .dropped none
    else if s.peerRefuses x.pa then (if !isW then .poison else if a.prot then .peerConf else .silent)
    else .ok x
  else if isW && paTarget x.pa = 1 && s.blocked a.ctx then .dropped none
  else
    let (pw, ws) := s.pageWorld a.fn x.pa
    let foreign := pw ≠ a.world ∧ !ws
    if isW && a.prot && foreign then .conf
    else if foreign && s.worldProtected pw then (if isW then .silent else .poison)
    else if (paTarget x.pa = 1 && !s.lost.isEmpty && s.lost.contains (expanderOf x.pa)) || s.releasing x.pa then (if isW then .silent else .poison)
    else if s.rejects a x then .reject
    else if isW && x.dirty.isSome && !s.dlrRoom (s.machOf a.fn) then
      .fault ⟨2, 2, 0, x.gpa, .write, true⟩
    else .ok x

/-- The fate of an access to a virtual address. -/
def State.fate (s : State) (a : Who) (va : Nat) (isW : Bool) : Fate :=
  match s.translate a.fn a.ctx (va % 2 ^ 57) (if isW then .write else .read) a.place with
  | .error f => .fault f
  | .ok x => s.fateAt a x va isW

/-- The fate of a write that the hardware itself makes in a table that stores may only read: stage 1 needs no W, stage 2 is that of
a write, and its page is logged dirty (R236, R345). -/
def State.tableFate (s : State) (a : Who) (va : Nat) : Fate :=
  match s.translate a.fn a.ctx (va % 2 ^ 57) .read a.place with
  | .error f => .fault f
  | .ok x => match s.stage2 (s.machOf a.fn) x.gpa .write with
    | .error f => .fault f
    | .ok t => s.fateAt a { x with dirty := match t.log with
        | some (l, false) => some (l, x.gpa / 65536 * 65536 + t.level)
        | _ => none } va true

/-- PIN of the page word of a managed page (R124). -/
def State.pin (s : State) (x : Xlat) : Nat := fld (s.rd x.pw 8) 0 12

/-- Does an ordinary access meet a managed page whose PIN is 0 (R210)? Known only where the walk succeeds. -/
def State.pinFails (s : State) (a : Who) (va : Nat) (isW : Bool) : Bool :=
  match s.translate a.fn a.ctx (va % 2 ^ 57) (if isW then .write else .read) a.place with
  | .ok x => x.mg && s.pin x == 0
  | .error _ => false

end Sys2Proof.Machine
end

