-- ==== Sys2Proof/Machine/Memory.lean ====
section
/-! DEFINITION. Performing an access at a physical address: caches (R58), the directory (R59, R60), remote states (R360),
the snoop filter (R361), dirty logging (R345), and the posting of translation faults (R343). -/

namespace Sys2Proof.Machine

/-! ### Directory (R59, R60) -/

/-- The global number of a cluster. -/
def gcluster (p : Place) : Nat := p.die * 64 + p.cluster

def State.dirEntry (s : State) (line : Nat) : DirEntry := (s.dir.find? (fun e => e.line == line)).getD { line := line }
def State.setDir (s : State) (e : DirEntry) : State :=
  if s.dir.any (fun d => d.line == e.line) then { s with dir := s.dir.map (fun d => if d.line = e.line then e else d) }
  else { s with dir := s.dir ++ [e] }

/-- The coarse vector of a list of clusters: bit b covers clusters 8b to 8b + 7. -/
def coarseVec (l : List Nat) : BitVec 32 := l.foldl (fun v c => v ||| BitVec.twoPow 32 (c / 8)) 0

/-- A cluster becomes a sharer; a sole reader's line is recorded as shared, never exclusive (log 12). An owner keeps its own
field beside the vector. -/
def DirEntry.share (e : DirEntry) (c : Nat) : DirEntry :=
  if e.owner = some c ∨ e.ptrs.contains c then e
  else if e.coarse then { e with vec := e.vec ||| coarseVec [c] }
  else if e.ptrs.length < 4 then { e with ptrs := e.ptrs ++ [c], dstate := if e.owner.isSome then 3 else 1 }
  else { e with coarse := true, ptrs := [], vec := coarseVec (e.ptrs ++ [c]), dstate := if e.owner.isSome then 3 else 1 }

/-- The clusters under the set bits of a vector. -/
def clustersOf (v : BitVec 32) : List Nat := (List.range 256).filter (fun c => v.getLsbD (c / 8))

/-- Ownership is granted: pointer mode, the writer as owner and no other pointer (R60). -/
def DirEntry.grant (e : DirEntry) (c : Nat) : DirEntry :=
  { e with dstate := 2, coarse := false, ptrs := [], owner := some c, vec := 0, acks := [], requester := none }

/-- A cluster needs exclusive ownership; in coarse mode the acknowledgements are awaited first (R60). -/
def DirEntry.own (e : DirEntry) (c : Nat) : DirEntry :=
  if e.coarse then
    let l := (clustersOf e.vec).filter (· ≠ c)
    if l.isEmpty then e.grant c else { e with acks := l, requester := some c }
  else e.grant c

/-- No L1 holds the line: the entry as at reset, with what is under way. -/
def DirEntry.empty (e : DirEntry) : DirEntry := { line := e.line, recallAt := e.recallAt, acks := e.acks, waiting := e.waiting }

/-- An agent without an L1 writes at the home: no other copy stays (R60). -/
def DirEntry.clear (e : DirEntry) : DirEntry :=
  if e.coarse ∧ !(clustersOf e.vec).isEmpty then { e with acks := clustersOf e.vec, requester := none } else e.empty

/-- A request at the home slice: of a cluster, or of an agent without an L1 that writes. One that comes while
acknowledgements are awaited has its turn after them (R60). -/
def DirEntry.request (e : DirEntry) (c : Option Nat) (isW : Bool) : DirEntry :=
  if !e.acks.isEmpty || e.recallAt.isSome then { e with waiting := e.waiting ++ [(c, isW)] }
  else match c with
    | some c => if isW then e.own c else e.share c
    | none => if isW then e.clear else e

/-- The last acknowledgement has arrived: the requester is served, then those that came meanwhile, in order (R60). -/
def DirEntry.served (e : DirEntry) : DirEntry :=
  let d := match e.requester with
    | some c => e.grant c
    | none => { e with acks := [] }.empty
  e.waiting.foldl (fun d r => d.request r.1 r.2) { d with waiting := [] }

/-- A cluster no longer holds the line: its pointer and its ownership are gone (R59). -/
def DirEntry.leave (e : DirEntry) (c : Nat) : DirEntry :=
  let owner := if e.owner = some c then none else e.owner
  let ptrs := e.ptrs.filter (· ≠ c)
  { e with owner := owner, ptrs := ptrs
           dstate := if e.coarse || !ptrs.isEmpty then (if owner.isSome then 3 else 1) else if owner.isSome then 2 else 0 }

/-! ### The L1 data caches and the L2 (R58 to R60) -/

/-- Home slice of a physical address (R58). -/
def State.homeSlice (s : State) (a : Nat) : Nat :=
  let h := Nat.xor (Nat.xor (Nat.xor (fld a 7 11) (fld a 18 11)) (Nat.xor (fld a 29 11) (fld a 40 11))) (fld a 51 1)
  match s.fitting with
  | .h => h
  | .l => h % 512

/-- Do two lines fall into one set of one slice? -/
def State.sameSet (s : State) (l k : Nat) : Bool := s.homeSlice (128 * l) == s.homeSlice (128 * k) && Config.l2Set l == Config.l2Set k

/-- Is an ownership request for the line on its way (R360)? -/
def State.askedFor (s : State) (line : Nat) : Bool := s.asked.any (fun e => e.1 == line)
/-- Does the line still wait for acknowledgements (R60), for M (R360) or for a recall (R378)? -/
def State.lineWaits (s : State) (line : Nat) : Bool :=
  !(s.dirEntry line).acks.isEmpty || (s.dirEntry line).recallAt.isSome || s.askedFor line
/-- May the line leave its L2 slice: no workgroup has locked it (R199), and no answer about it is awaited? -/
def State.mayLeave (s : State) (line : Nat) : Bool := !s.wgs.any (fun w => w.locks.contains line) && !s.lineWaits line

/-- No cache holds the line any more: no L1, no L2 slice, no remote state, no directory entry. What memory itself holds is
the caller's part. -/
def State.uncache (s : State) (line : Nat) : State :=
  { s with modified := SMap.set [] s.modified line [], remote := SMap.set none s.remote line none
           l1 := s.l1.filter (fun e => e.line ≠ line), l2 := s.l2.filter (· ≠ line), dir := s.dir.filter (fun e => e.line ≠ line) }

/-- The same for the `n` lines from line `l` on. -/
def State.uncacheRange (s : State) (l n : Nat) : State :=
  let out (k : Nat) : Bool := k < l || l + n ≤ k
  { s with modified := s.modified.filter (fun e => out e.1), remote := s.remote.filter (fun e => out e.1)
           l1 := s.l1.filter (fun e => out e.line), l2 := s.l2.filter out, dir := s.dir.filter (fun e => out e.line) }

/-- A line comes into its home slice. A full set loses the line that it has held longest of those that may leave; the L2
holds every line that an L1 holds, so its L1 copies go with it, and a modified line is written back (log 12). -/
def State.fillL2 (s : State) (line : Nat) : State :=
  if s.l2.contains line then s
  else
    let ways := if s.l2.length < 16 then [] else s.l2.filter (s.sameSet line)
    if ways.length < 16 then { s with l2 := s.l2 ++ [line] }
    else match ways.find? s.mayLeave with
      | some v => let t := s.uncache v; { t with l2 := t.l2 ++ [line] }
      | none => s

/-- A line leaves an L1: a clean one silently; a dirty one is written back to its home slice, and the cluster's pointer and its
ownership are cleared (R59). While another core of the cluster holds the line, the cluster is a sharer from then on, so that
the entry still names every holder (log 12). -/
def State.evictL1 (s : State) (v : L1Line) : State :=
  let rest := s.l1.filter (· ≠ v)
  let t := { s with l1 := rest }
  if v.st == .modified || v.st == .owned then
    let e := (s.dirEntry v.line).leave v.cluster
    t.setDir (if rest.any (fun x => x.line == v.line && x.cluster == v.cluster) then e.share v.cluster else e)
  else t

/-- A line comes into the L1 of a core in a state; a full set loses the line that it has held longest (log 12). -/
def State.fillL1 (s : State) (p : Place) (line : Nat) (st : Moesi) : State :=
  let c := gcluster p
  let mine (e : L1Line) : Bool := e.cluster == c && e.core == p.core
  let rest := s.l1.filter (fun e => !(mine e && e.line == line))
  let ways := if rest.length < 8 then [] else rest.filter (fun e => mine e && Config.l1Set e.line == Config.l1Set line)
  let t := { s with l1 := rest ++ [⟨c, p.core, line, st⟩] }
  match ways with
  | v :: _ => if ways.length < 8 then t else t.evictL1 v
  | [] => t

/-- Another core reads the line: a modified copy becomes owned, an exclusive one shared. -/
def Moesi.onRead : Moesi → Moesi
  | .modified => .owned
  | .exclusive => .shared
  | st => st

/-- A read by a core: its L1 holds the line, or takes it as shared; the other copies give up what they must (R59). -/
def State.readL1 (s : State) (p : Place) (line : Nat) : State :=
  let c := gcluster p
  if s.l1.any (fun e => e.cluster == c && e.core == p.core && e.line == line) then s
  else
    let t := s.setDir ((s.dirEntry line).request (some c) false)
    ({ t with l1 := t.l1.map (fun (e : L1Line) => if e.line = line then { e with st := e.st.onRead } else e) }).fillL1 p line .shared

/-- A write at the home slice, by a core or by an agent without an L1: the other L1 copies are invalid, those whose
acknowledgement is awaited once it arrives; a core's own copy is modified (R60). -/
def State.writeL1 (s : State) (p : Place) (line : Nat) : State :=
  let c := if p.die < 4 then some (gcluster p) else none
  let e := (s.dirEntry line).request c true
  let t := { s.setDir e with l1 := (s.l1.filter (fun x => x.line ≠ line || e.acks.contains x.cluster)).map (fun (x : L1Line) =>
    if x.line = line then { x with st := .shared } else x) }
  if p.die < 4 then t.fillL1 p line .modified else t

/-! ### Snoop filter of the CB7-L (R361) -/

def State.snoopEntry (s : State) (h : Nat) : SnoopEntry := (s.snoop.find? (fun e => e.line == h)).getD { line := h }
/-- An entry that records nothing. -/
def SnoopEntry.idle (e : SnoopEntry) : Bool := e.sharers.isEmpty && e.owner.isNone && e.awaited.isEmpty && e.recallAt.isNone
/-- Write an entry; one that records nothing gives up its place. -/
def State.setSnoop (s : State) (e : SnoopEntry) : State :=
  if e.idle then { s with snoop := s.snoop.filter (fun d => d.line ≠ e.line) }
  else if s.snoop.any (fun d => d.line == e.line) then { s with snoop := s.snoop.map (fun d => if d.line = e.line then e else d) }
  else { s with snoop := s.snoop ++ [e] }

/-- Holders that an access by the device must back-invalidate: on a read the holder in M, on a write every holder. -/
def SnoopEntry.mustInvalidate (e : SnoopEntry) (isW : Bool) : List Nat :=
  if isW then (e.owner.toList ++ e.sharers).eraseDups else e.owner.toList

/-- Both 64-byte halves of the lines that `n` bytes at `pa` touch (R359). -/
def halfLines (pa n : Nat) : List Nat := (List.range (2 * ((pa + n + 127) / 128 - pa / 128))).map (fun i => pa / 128 * 2 + i)

/-- Does an entry keep an access waiting: an error is being recovered, an answer is awaited, or a holder must give way? -/
def SnoopEntry.blocks (e : SnoopEntry) (isW : Bool) : Bool := e.recallAt.isSome || !e.awaited.isEmpty || !(e.mustInvalidate isW).isEmpty

/-- Does the access wait for back-invalidation responses? -/
def State.snoopBusy (s : State) (pa n : Nat) (isW : Bool) : Bool :=
  paTarget pa = 0 && (halfLines pa n).any (fun h => (s.snoopEntry h).blocks isW)

/-- Back-invalidate agents on one half, those of them that hold it and have not been asked. -/
def State.askAgents (s : State) (h : Nat) (l : List Nat) : State :=
  let e := s.snoopEntry h
  let l := l.filter (fun a => (e.mustInvalidate true).contains a && !e.awaited.contains a)
  if l.isEmpty then s
  else l.foldl (fun s a => s.emit (.backInvalidate h a)) (s.setSnoop { e with awaited := e.awaited ++ l })
/-- Back-invalidate agents of a half, and of its line's other half, which an agent gives up with it (R381). -/
def State.askBoth (s : State) (h : Nat) (l : List Nat) : State := (s.askAgents (h / 2 * 2) l).askAgents (h / 2 * 2 + 1) l

/-- Send the back-invalidations that the access still needs. -/
def State.sendSnoops (s : State) (pa n : Nat) (isW : Bool) : State :=
  (halfLines pa n).foldl (fun s h => s.askBoth h ((s.snoopEntry h).mustInvalidate isW)) s

def State.logError (s : State) (unit kind addr : Nat) : State := { s with errlog := s.errlog ++ [⟨s.clock, unit, kind, addr⟩] }

/-- A rejected request poisons the line and is logged (R62, R374). -/
def State.rejectTaken (s : State) (a : Who) (va : Nat) : State :=
  match s.translate a.fn a.ctx (va % 2 ^ 57) .read a.place with
  | .ok x => if s.fateAt a x va false = .reject then (s.poisonLine (x.pa / 128)).logError 6 0 x.pa else s
  | .error _ => s

/-- The extent record that covers a device address, where the device has extents and one does (R362). -/
def State.extentAt (s : State) (pa : Nat) : Option Nat :=
  let base := (s.barReg physFn 0x150).toNat
  if base = 0 then none
  else ((List.range 2048).map (fun i => base + 32 * i)).find? (fun a =>
    let d := s.rd a 8
    fld d 53 11 == pa / 2 ^ 30 && fld d 50 3 != 0)

/-- A CB7-L marks an extent viral when a group takes DATA_POISON on it while VIRALPOL is 1, and tells every port, before the
trap's handler is looked up (R375, R386). -/
def State.poisonTaken (s : State) (pa : Nat) : State :=
  if s.fitting = .l ∧ paTarget pa = 0 then
    match s.extentAt pa with
    | some a =>
      let d := s.rd a 8
      if bitN d 48 && !bitN d 49 then (s.wr a 8 (putFld d 49 1 1)).emit (.viral (pa / 2 ^ 30 * 2 ^ 30)) else s
    | none => s
  else s

/-- What DATA_POISON at an address of an agent leaves behind: a rejected request is logged (R62), an extent turns viral
(R375). -/
def State.notePoison (s : State) (a : Who) (va : Nat) : State :=
  match s.translate a.fn a.ctx (va % 2 ^ 57) .read a.place with
  | .ok x => (s.rejectTaken a va).poisonTaken x.pa
  | .error _ => s

/-! ### Performing reads and writes -/

/-- 128-byte lines that `n` bytes at `pa` touch. -/
def linesOf (pa n : Nat) : List Nat := (List.range ((pa + n + 127) / 128 - pa / 128)).map (fun i => pa / 128 + i)

/-- Bookkeeping of a read of device or CXL memory: the L2, the core's L1, directory and remote state (R59, R360). Lines of
pages that tenants share, and of peers, are in no cache (R61, R360). -/
def State.noteRead (s : State) (a : Who) (x : Xlat) (n : Nat) : State :=
  if x.sh || 2 ≤ paTarget x.pa then s
  else (linesOf x.pa n).foldl (fun s l =>
    let s := s.fillL2 l
    let s := if a.cached then s.readL1 a.place l else s
    if paTarget x.pa = 1 && (SMap.get none s.remote l).isNone then { s with remote := SMap.set none s.remote l (some false) } else s) s

/-- Append the dirty-log record and set D before a write; a leaf whose D is set by now appends nothing (R345). -/
def State.logDirty (s : State) (a : Who) (x : Xlat) : State :=
  match x.dirty with
  | none => s
  | some (leaf, record) =>
    if bitN (s.rd leaf 8) 4 then s
    else
      let s := s.ringPut (s.machBlock (s.machOf a.fn) + 8) (leBytes 8 record)
      s.wr leaf 8 (putFld (s.rd leaf 8) 4 1 1)

/-- A line that the L2 holds becomes modified: memory's own bytes are kept (R58, R202). -/
def State.markModified (s : State) (line : Nat) : State :=
  if s.l2.contains line && (SMap.get [] s.modified line).isEmpty then
    { s with modified := SMap.set [] s.modified line (s.rdN (128 * line) 128) }
  else s

/-- Ask the home of a remote line for M (R360). -/
def State.askM (s : State) (line : Nat) : State :=
  if SMap.get none s.remote line = some true ∨ s.askedFor line then s else { s with asked := s.asked ++ [(line, s.clock)] }

/-- Bookkeeping of a write: ownership, remote state, modified lines. -/
def State.noteWrite (s : State) (a : Who) (x : Xlat) (n : Nat) : State :=
  if x.sh || 2 ≤ paTarget x.pa then s
  else (linesOf x.pa n).foldl (fun s l =>
    let s := ((s.fillL2 l).writeL1 a.place l).markModified l
    if paTarget x.pa = 1 then s.askM l else s) s

/-- Write bytes at a translated address. A line's poison mark stays (R214). -/
def State.performWrite (s : State) (a : Who) (x : Xlat) (l : List Byte) : State :=
  (((s.logDirty a x).noteWrite a x l.length).wrN x.pa l)

/-- The device itself writes bytes at their home slice: no L1 keeps another copy. -/
def State.homeWrite (s : State) (pa : Nat) (l : List Byte) : State :=
  ((linesOf pa l.length).foldl (fun (s : State) k => s.writeL1 noPlace k) s).wrN pa l

/-- Write a whole line and clear its poison mark (R201, R215). -/
def State.performLine (s : State) (a : Who) (x : Xlat) (l : List Byte) : State := (s.performWrite a x l).cleanLine (x.pa / 128)

/-- Does a write that cannot wait in flight still need M of a remote line (R360)? -/
def State.needsM (s : State) (x : Xlat) (n : Nat) : Bool :=
  paTarget x.pa = 1 && !x.sh && (linesOf x.pa n).any (fun l => SMap.get none s.remote l != some true)
/-- Ask for M of every line of a write. -/
def State.askLines (s : State) (x : Xlat) (n : Nat) : State := (linesOf x.pa n).foldl State.askM s
/-- Does an access at once wait for answers about its lines: back-invalidations (R361), or M (R360)? -/
def State.lineBusy (s : State) (x : Xlat) (n : Nat) (isW : Bool) : Bool := s.snoopBusy x.pa n isW || (isW && s.needsM x n)
/-- Ask for those answers. -/
def State.askFor (s : State) (x : Xlat) (n : Nat) (isW : Bool) : State :=
  let s := s.sendSnoops x.pa n isW
  if isW && s.needsM x n then s.askLines x n else s
/-- A place that an operation reads or writes at once: ready, or what it waits for. -/
def State.lineHold (s : State) (x : Xlat) (n : Nat) (isW : Bool) : Option State :=
  if s.lineBusy x n isW then some (s.askFor x n isW) else none
/-- Does an ordinary access to a managed page wait for answers about its page word (R210, R360, R361)? -/
def State.pinBusy (s : State) (a : Who) (va : Nat) (isW : Bool) : Option State :=
  match s.translate a.fn a.ctx (va % 2 ^ 57) (if isW then .write else .read) a.place with
  | .ok x => if x.mg then s.lineHold x.word 8 false else none
  | .error _ => none
/-- Lines of a write whose performance still waits. -/
def State.waitingLines (s : State) (pa n : Nat) : List Nat := (linesOf pa n).filter s.lineWaits

/-- Is any line of the bytes poisoned? -/
def State.poisoned (s : State) (pa n : Nat) : Bool := (linesOf pa n).any s.poisonedLine

/-! ### Fault records (R343) -/

def accCode : Acc → Nat
  | .read => 0
  | .write => 1
  | .fetch => 2
  | .walk => 3

/-- The function whose queue takes the record: stage 2 goes to the physical function. -/
def XFault.queue (f : XFault) (owner : Nat) : Nat := if f.stage = 2 then physFn else owner

/-- The 32 bytes of a record. -/
def FaultRec.bytes (r : FaultRec) : List Byte :=
  leBytes 8 0 ++
  leBytes 8 (r.ctx * 2 ^ 48 + r.tag % 2 ^ 16 * 2 ^ 32 + r.kind * 2 ^ 24 + r.stage * 2 ^ 22 + r.level * 2 ^ 19 + accCode r.acc * 2 ^ 16 +
    r.owner * 2 ^ 9) ++
  leBytes 8 (r.gpa * 2 ^ 12) ++ leBytes 8 r.va.toNat

/-- Room for one record more in a function's fault queue (R343). -/
def State.fqRoom (s : State) (fn : Nat) : Bool :=
  (s.ring (s.fnBlock fn + 32)).room && decide ((s.faults.filter (fun r => r.fn == fn && r.isPosted && !r.paused)).length < 1024)

/-- Write a record into its queue, with MSI-X vector 0, and count it (R343, R355, R404). -/
def State.putRecord (s : State) (r : FaultRec) : State :=
  ((s.ringPut (s.fnBlock r.fn + 32) r.bytes).emit (.msix r.fn 0)).count r.fn 6 1

/-- Set PAUSED of a machine and post its event, once (R347). -/
def State.pauseMachine (s : State) (mach : Nat) : State :=
  let a := s.machBlock mach + 24
  let d := s.rd a 8
  if bitN d 0 then s
  else (s.wr a 8 (putFld d 0 1 1)).postEvent physFn (leBytes 8 (2 * 2 ^ 56 + mach) ++ leBytes 24 0)

/-- Does the paging service protect the page (R350)? -/
def State.promoting (s : State) (ctx va : Nat) : Bool :=
  s.ctxs.any (fun c => c.num == ctx && (match c.promote with
    | some p => p.va / 65536 == va / 65536
    | none => false))

/-- The first number from `t` on, round 65,535, that no outstanding record has (R343). -/
def freshTag (used : List Nat) : Nat → Nat → Nat
  | 0, t => t
  | n + 1, t => if used.contains t then freshTag used n (t % 65535 + 1) else t

/-- Post a fault, or join it to the record of its page and class; the record's function and TAG (R343). A write that only MRESUME or
the paging service settles joins none but its like, and a full ring pauses the machine at each of them (R347, R350). -/
def State.postFault (s : State) (a : Who) (va : Nat) (f : XFault) : State × (Nat × Nat) :=
  let service := f.paused || (f.acc == .write && f.stage = 1 && f.kind = 2 && s.promoting a.ctx va)
  match s.faults.find? (fun r => r.owner == a.fn && r.ctx == a.ctx && r.va.toNat / 65536 == va / 65536 && r.acc == f.acc &&
      r.paused == service && (!service || r.stage == f.stage)) with
  | some r => (if f.paused then s.pauseMachine (s.machOf a.fn) else s, (r.fn, r.tag))
  | none =>
    let fn := f.queue a.fn
    let room := s.fqRoom fn
    let tag := freshTag (s.faults.map (·.tag)) s.faults.length s.nextTag
    let r : FaultRec := ⟨fn, tag, a.fn, a.ctx, n64 va, f.acc, f.kind, f.stage, f.level, f.gpa, room || service, service⟩
    let s := { s with faults := s.faults ++ [r], nextTag := tag % 65535 + 1 }
    let s := if f.paused then s.pauseMachine (s.machOf a.fn)
      else if service || !room then s
      else s.putRecord r
    (s, (fn, r.tag))

/-- Post the waiting records of a function for which there is room, oldest first (R343). -/
def State.postWaiting (s : State) (fn : Nat) : List FaultRec → State
  | [] => s
  | r :: l =>
    if r.fn = fn ∧ !r.isPosted ∧ s.fqRoom fn then
      ({ s with faults := s.faults.map (fun (q : FaultRec) =>
          if q.fn = r.fn ∧ q.tag = r.tag then { q with isPosted := true } else q) }.putRecord r).postWaiting fn l
    else s.postWaiting fn l

end Sys2Proof.Machine
end

