-- ==== Sys2Proof/Machine/Objects.lean ====
section
/-! DEFINITION. Generic addresses (R39), scratchpad windows and maps (R40 to R44), the side log's entries (R82),
barrier objects (R53, R54), and twin descriptors (R77). -/

namespace Sys2Proof.Machine

/-- What a generic address names (R39); none takes ADDRESS_RANGE. -/
def resolveGeneric (a : Word64) : Option Where :=
  let n := a.toNat
  if fld n 57 7 = 0 then some (.glob a)
  else if fld n 56 8 = 0xFE ∧ fld n 20 36 = 0 then some (.win (fld n 0 20))
  else none

/-- A global address has bits [63:57] zero (R38). -/
def isGlobal (a : Word64) : Bool := fld a.toNat 57 7 == 0

/-! ### Maps (R43, R44) -/

/-- The map that holds a window offset: its number, the map, the block. -/
def Workgroup.mapAt (w : Workgroup) (o : Nat) : Option (Nat × WMap × Nat) :=
  firstSome (fun (k, m) => match m with
    | some m => if 2048 * m.wblk ≤ o ∧ o < 2048 * (m.wblk + m.nblk) then some (k, m, (o - 2048 * m.wblk) / 2048) else none
    | none => none) w.maps

/-- Does a write to the offset meet a read-only map (R44)? -/
def Workgroup.readOnly (w : Workgroup) (o : Nat) : Bool := match w.mapAt o with
  | some (_, m, _) => !m.wr
  | none => false

def Workgroup.setBlock (w : Workgroup) (k : Nat) (m : WMap) (b : Nat) (st : Block) : Workgroup :=
  { w with maps := SMap.set none w.maps k (some { m with blocks := putAt m.blocks b st }) }

/-- Blocks of maps in which bytes have been written are DIRTY (R44). -/
def Workgroup.wrote (w : Workgroup) (o n : Nat) : Workgroup :=
  (List.range (n / 2048 + 2)).foldl (fun (w : Workgroup) i => match w.mapAt (o + min (2048 * i) (n - 1)) with
    | some (k, m, b) => if m.blocks.getD b .clean == .dirty then w else w.setBlock k m b .dirty
    | none => w) w
/-- A write of window bytes by an access: no map block that it touches is EMPTY any more. -/
def Workgroup.storeWin (w : Workgroup) (o : Nat) (l : List Byte) : Workgroup := if l.isEmpty then w else (w.setWinN o l).wrote o l.length

/-- Mark or clear the poison marks of the window's 8-byte units (R228). -/
def Workgroup.markWin (w : Workgroup) (o n : Nat) (p : Bool) : Workgroup :=
  let units := (List.range ((o + n + 7) / 8 - o / 8)).map (fun i => o / 8 + i)
  { w with winPoison := if p then units.foldl (fun l u => insertAsc u l) w.winPoison else w.winPoison.filter (fun u => !units.contains u) }
/-- Is a unit of the bytes marked? -/
def Workgroup.winPoisoned (w : Workgroup) (o n : Nat) : Bool := w.winPoison.any (fun u => o / 8 ≤ u && u < (o + n + 7) / 8)

/-- Why an access that needs a block stops. -/
inductive Blocked where
  | fault (va : Nat) (f : XFault)
  | dropped (c : Option (Nat × Word64))
  /-- answers about the lines of an access are awaited (R360, R361) -/
  | lines (x : Xlat) (n : Nat) (isW : Bool)
  /-- the scratchpad path's counter is full (R44, R51) -/
  | full
  deriving DecidableEq, Repr

/-- The issuing group as an agent. -/
def State.me (s : State) : Who := { s.cw.who with gid := some s.cur.gid }

/-- Has the agent's group room for a fill on its scratchpad path (R44, R51)? -/
def State.fillRoom (s : State) (a : Who) : Bool := match a.gid with
  | some g => (s.group g).inflight 2 < 63
  | none => true
/-- Count a fill. -/
def State.countFill (s : State) (a : Who) : State := match a.gid with
  | some g => s.modGroup g (fun g => g.fly { path := 2, kind := .load })
  | none => s

/-- Make the block that holds offset `o` ready for an access: an EMPTY block is filled from global memory and is CLEAN then; a
write marks it DIRTY when it is made (R44). A poisoned line marks its units. The fill reads memory as it stands: it does not
wait for entries of the group's own side log for these bytes (log 29). -/
def State.touchBlock (s : State) (a : Who) (wid o : Nat) : Except Blocked State :=
  let w := s.wg wid
  match w.mapAt o with
  | none => .ok s
  | some (k, m, b) =>
    if m.blocks.getD b .clean != .empty then .ok s
    else
      let va := m.gbase.toNat + 2048 * b
      match s.fate a va false with
      | .fault f => .error (.fault va f)
      | .dropped c => .error (.dropped c)
      | .ok x =>
        if !s.fillRoom a then .error .full
        else if s.lineBusy x 2048 false then .error (.lines x 2048 false)
        else
          let s := (s.noteRead a x 2048).countFill a
          .ok (s.modWg wid (fun w =>
            let off := 2048 * (m.wblk + b)
            let w := (w.setWinN off (s.rdN x.pa 2048)).setBlock k m b .clean
            (List.range 16).foldl (fun w i => w.markWin (off + 128 * i) 128 (s.poisonedLine (x.pa / 128 + i))) w))
      | _ =>  -- poisoned data of another world or a lost expander
        if !s.fillRoom a then .error .full
        else .ok (((s.rejectTaken a va).countFill a).modWg wid (fun w => (w.markWin (2048 * (m.wblk + b)) 2048 true).setBlock k m b .clean))

/-! ### Side log (R82) -/

/-- Groups of one core share a side log of 64 entries. -/
def sameCore (p q : Place) : Bool := p.die == q.die && p.cluster == q.cluster && p.core == q.core
def State.sideFree (s : State) (p : Place) : Nat :=
  64 - ((s.groups.filter (fun g => sameCore (s.wg g.wid).place p)).map (fun g => g.sideLog.length)).sum

/-- Put entries into a group's side log, numbered in SEQ order (R82). -/
def Group.logAll (g : Group) : List LogEntry → Group
  | [] => g
  | e :: l => { g with sideLog := g.sideLog ++ [{ e with seq := g.seq }], seq := g.seq + 1 }.logAll l

/-- Does the log hold an entry of the group for the line (R83)? -/
def Group.logged (g : Group) (line : Nat) : Bool := g.sideLog.any (fun e => e.line.toNat == line)
/-- Does the log hold one of these bytes (R83)? -/
def Group.loggedByte (g : Group) (va n : Nat) : Bool :=
  g.sideLog.any (fun e => e.bytes.any (fun b => decide (va ≤ e.line.toNat * 128 + b.1) && decide (e.line.toNat * 128 + b.1 < va + n)))

/-! ### Barrier objects (R53, R54) -/

/-- A landing of `n` bytes or an arrival, with the lowering of PENDCMD in the same update when `low` (R54). -/
def objStep (o n a : Nat) (low : Bool) : Nat :=
  let b := fld o 64 32
  let c := fld o 32 16
  let past := b < n ∨ c < a
  let b' := if past then 0 else b - n
  let c' := if past then 0 else c - a
  let o := if past then putFld o 8 1 1 else o
  let o :=
    if b' = 0 ∧ c' = 0 then putFld (putFld (putFld o 0 8 (fld o 0 8 + 1)) 64 32 (fld o 96 32)) 32 16 (fld o 48 16)
    else putFld (putFld o 64 32 b') 32 16 c'
  if low then (if fld o 16 16 = 0 then putFld o 8 1 1 else putFld o 16 16 (fld o 16 16 - 1)) else o

/-- Only the lowering of PENDCMD (R54). -/
def objLower (o : Nat) : Nat := if fld o 16 16 = 0 then putFld o 8 1 1 else putFld o 16 16 (fld o 16 16 - 1)
/-- A registration (R54). -/
def objRegister (o : Nat) : Nat := putFld o 16 16 (fld o 16 16 + 1)
def objPending (o : Nat) : Nat := fld o 16 16
def objErr (o : Nat) : Bool := bitN o 8
def objPhase (o : Nat) : Nat := fld o 0 1
def objSetErr (o : Nat) : Nat := putFld o 8 1 1

/-- The object BOINIT writes over `o` from its data (R221). -/
def objInit (o data : Nat) : Nat :=
  let eb := fld data 0 32
  let ea := fld data 32 16
  let err := fld o 16 16 ≠ 0 ∨ (eb = 0 ∧ ea = 0) ∨ fld data 48 16 ≠ 0
  eb * 2 ^ 96 + eb * 2 ^ 64 + ea * 2 ^ 48 + ea * 2 ^ 32 + fld o 16 16 * 2 ^ 16 + (if err then 2 ^ 8 else 0)

/-- The 16 bytes of an object at a place that an access of the agent reaches. -/
def State.objAt (s : State) (wid : Nat) : Where → Xlat → Nat
  | .win o, _ => leNat ((s.wg wid).winN o 16)
  | _, x => s.rd x.pa 16

/-- What an update makes of an object (R54). -/
def ObjUpd.apply : ObjUpd → Nat → Nat
  | .step n arr low, o => objStep o n arr low
  | .lower, o => objLower o
  | .setErr low, o => objSetErr (if low then objLower o else o)
  | .register, o => objRegister o

/-- A write of the device's own at an address: made now, or late where answers about its line or MRESUME are awaited (R347, R360,
R361); where it cannot be made otherwise, nothing happens. -/
def State.writeLate (s : State) (a : Who) (va n : Nat) (f : Fate) (l : Late) (now : Xlat → State) : State := match f with
  | .ok x => match s.lineHold x n true with
    | some t => { t with late := t.late ++ [l] }
    | none => now x
  | .fault e => if e.paused then
      let t := (s.postFault a va e).1
      { t with late := t.late ++ [l] }
    else s
  | _ => s

/-- Update the object at a place by one indivisible read-modify-write (R54). -/
def State.objPut (s : State) (a : Who) (wid : Nat) (loc : Where) (u : ObjUpd) : State := match loc with
  | .glob va => s.writeLate a va.toNat 16 (s.fate a va.toNat true) (.object a.ctx va u)
      (fun x => s.performWrite a x (leBytes 16 (u.apply (s.rd x.pa 16))))
  | .win o => s.modWg wid (fun w => w.storeWin o (leBytes 16 (u.apply (leNat (w.winN o 16)))))
  | .twin _ _ _ => s

/-- The current value of an object, where it can be read. -/
def State.objRead (s : State) (a : Who) (wid : Nat) (loc : Where) : Except Fate Nat :=
  match loc with
  | .glob va => match s.fate a va.toNat false with
    | .ok x => .ok (s.rd x.pa 16)
    | e => .error e
  | .win o => .ok (leNat ((s.wg wid).winN o 16))
  | .twin _ _ _ => .ok 0

/-- The object that a command names. -/
def Cmd.object (c : Cmd) : Option Where := c.obj.bind resolveGeneric

/-! ### Twin descriptors (R77) -/

/-- A descriptor from its 256 bits (R77). -/
def decodeTwin (d : Nat) : Twin :=
  { base0 := BitVec.ofNat 57 (fld d 128 57), base1 := BitVec.ofNat 57 (fld d 192 57), size := BitVec.ofNat 32 (fld d 96 32)
    gen := BitVec.ofNat 32 (fld d 64 32), pend := BitVec.ofNat 16 (fld d 48 16), flipping := bitN d 1, live := bitN d 0 }
def encodeTwin (t : Twin) : Nat :=
  t.base1.toNat * 2 ^ 192 + t.base0.toNat * 2 ^ 128 + t.size.toNat * 2 ^ 96 + t.gen.toNat * 2 ^ 64 + t.pend.toNat * 2 ^ 48 +
  b2n t.flipping * 2 + b2n t.live

/-- Where a slot's descriptor lies: a global slot of a context, or a scratchpad slot of a workgroup. -/
structure TwinRef where
  g : Bool
  slot : Nat
  deriving DecidableEq, Repr

/-- Device virtual address of a global descriptor (R77, R300). -/
def State.twinVa (s : State) (ctx slot : Nat) : Nat := fld (s.rcbD (s.ctxRcb ctx) 15) 0 57 + 32 * slot

/-- The descriptor, where it can be reached. -/
def State.getTwin (s : State) (a : Who) (wid : Nat) (r : TwinRef) : Except Fate Twin :=
  if r.g then match s.fate a (s.twinVa a.ctx r.slot) false with
    | .ok x => .ok (decodeTwin (s.rd x.pa 32))
    | e => .error e
  else .ok (SMap.get {} (s.wg wid).twins r.slot)

/-- A global descriptor whose line is held elsewhere: a read of it, or a write, waits (R360, R361). -/
def State.twinBusy (s : State) (a : Who) (r : TwinRef) (isW : Bool) : Option State :=
  let va := s.twinVa a.ctx r.slot
  if !r.g then none
  else match if isW then s.tableFate a va else s.fate a va false with
    | .ok x => s.lineHold x 32 isW
    | _ => none
/-- The descriptor has been read. -/
def State.noteTwin (s : State) (a : Who) (r : TwinRef) : State :=
  if !r.g then s
  else match s.fate a (s.twinVa a.ctx r.slot) false with
    | .ok x => s.noteRead a.atHome x 32
    | _ => s

/-- What stops a write of a descriptor. -/
def State.twinFate (s : State) (a : Who) (r : TwinRef) : Option Fate :=
  if !r.g then none
  else match s.tableFate a (s.twinVa a.ctx r.slot) with
    | .ok _ => none
    | f => some f

/-- One indivisible write of the descriptor at its home; the table is read-only to ordinary stores only (R236). -/
def State.putTwin (s : State) (a : Who) (wid : Nat) (r : TwinRef) (t : Twin) : State :=
  if r.g then match s.tableFate a (s.twinVa a.ctx r.slot) with
    | .ok x => s.performWrite a.atHome x (leBytes 32 (encodeTwin t))
    | _ => s
  else s.modWg wid (fun w => { w with twins := SMap.set {} w.twins r.slot t })

/-- Base of backing 0 or 1. -/
def Twin.base (t : Twin) (b : Bool) : Nat := if b then t.base1.toNat else t.base0.toNat
def Twin.free (t : Twin) : Bool := t.size == 0

/-- A twin write is counted out of PEND (R78). -/
def State.lowerTwin (s : State) (a : Who) (wid : Nat) (r : TwinRef) : State := match s.getTwin a wid r with
  | .ok t =>
    let t := { t with pend := if t.pend = 0 then 0 else t.pend - 1 }
    let va := s.twinVa a.ctx r.slot
    if r.g then s.writeLate a va 32 (s.tableFate a va) (.lower a.ctx r.slot) (fun _ => s.putTwin a wid r t) else s.putTwin a wid r t
  | .error _ => s

/-- The slot on which a twin copy is registered. -/
def Cmd.twinSlot (c : Cmd) : Option TwinRef := if c.kind = .twin then c.slot.map (fun k => ⟨c.table == 1, k⟩) else none

end Sys2Proof.Machine
end

