-- ==== Sys2Proof/Machine/Frags.lean ====
section
/-! DEFINITION. Divergence: splitting (R21, R22, R179), joins and fusion (R23, R181), serial levels (R22); barriers of
workgroups and gangs (R26 to R28, R189, R190). -/

namespace Sys2Proof.Machine

/-! ### Masks -/

/-- Threads of a fragment that have not exited: its path and the parked paths of its serial levels. -/
def Frag.liveMask (f : Frag) : BitVec 32 :=
  f.serial.foldl (fun m l => if l.oState = .exited then m else m ||| l.oMask) f.mask
/-- Threads of a group that have not exited. -/
def Group.liveMask (g : Group) : BitVec 32 := g.frags.foldl (fun m f => m ||| f.liveMask) 0
def popcount {w : Nat} (m : BitVec w) : Nat := ((List.range w).filter (fun i => m.getLsbD i)).length

/-! ### Split table (R21, R22) -/

/-- Joins pending in a fragment, on its path and in its parked paths. -/
def Frag.allJoins (f : Frag) : List Nat := (f.joins ++ (f.serial.map (·.oJoins)).flatten).map (·.id)
/-- Entries that a group holds: one per fragment beyond the first, one per pending join; serial levels take none. -/
def Group.splitEntries (g : Group) : Nat :=
  (g.frags.length - 1) + ((g.frags.map Frag.allJoins).flatten).eraseDups.length
/-- Groups of one partition (R13). -/
def State.samePart (s : State) (g h : Group) : Bool := sameCore (s.wg g.wid).place (s.wg h.wid).place && g.part == h.part
/-- Free entries of the 96 of the group's partition. -/
def State.splitFree (s : State) (g : Group) : Nat :=
  96 - ((s.groups.filter (fun h => s.samePart g h)).map Group.splitEntries).sum
/-- A split needs a fragment below the limit of 4 and two free entries (R22). -/
def State.splitAllowed (s : State) (g : Group) : Bool := g.frags.length < 4 && 2 ≤ s.splitFree g

/-! ### Joins (R23) -/

/-- Every fragment that still has the join waits at it. -/
def Group.joinReady (g : Group) (j : Nat) : Bool :=
  g.frags.all (fun f => !f.allJoins.contains j ||
    (f.wait == .fuse && (f.joins.head?.map (·.id)) == some j && !(f.serial.any (fun l => l.oJoins.any (fun k => k.id == j)))))

/-- The older of two fragments. -/
def olderFrag (a b : Frag) : Frag := if b.age < a.age then b else a

/-- Fuse the fragments of join `j`: the oldest stays, with the union of the masks, and the join is done (R23). -/
def Group.fuse (g : Group) (j : Nat) : Group :=
  let fs := g.frags.filter (fun f => f.allJoins.contains j)
  match fs with
  | [] => g
  | f :: l =>
    let o := l.foldl olderFrag f
    let m := fs.foldl (fun m f => m ||| f.mask) 0
    let o' : Frag := { o with mask := m, joins := o.joins.drop 1, wait := .none
                              serial := (fs.map (·.serial)).flatten, chain := (fs.map (·.chain)).flatten }
    { g with frags := (g.frags.filter (fun f => !f.allJoins.contains j || f.fid == o.fid)).map (fun f => if f.fid = o.fid then o' else f) }

/-- Fuse at every join whose fragments have all arrived or exited. -/
def Group.fuseAll (g : Group) : Nat → Group
  | 0 => g
  | n + 1 =>
    match (g.frags.filterMap (fun f => if f.wait = .fuse then f.joins.head?.map (·.id) else none)).find? g.joinReady with
    | some j => (g.fuse j).fuseAll n
    | none => g

/-! ### Serial levels (R22) -/

def Frag.level? (f : Frag) (id : Nat) : Option SLevel := f.serial.find? (fun l => l.id == id)
def Frag.setLevel (f : Frag) (l : SLevel) : Frag := { f with serial := f.serial.map (fun k => if k.id = l.id then l else k) }
def Frag.dropLevel (f : Frag) (id : Nat) : Frag :=
  { f with serial := f.serial.filter (fun k => k.id ≠ id), chain := f.chain.filter (· ≠ id) }

/-- The joins of the current path that were opened inside level `l`. -/
def Frag.inner (f : Frag) (l : SLevel) : List Join := f.joins.take (f.joins.length - l.jbase)
def Frag.outer (f : Frag) (l : SLevel) : List Join := f.joins.drop (f.joins.length - l.jbase)

/-- Take up the other path of level `l` at place `i` of the chain; the path that is left is recorded in the state `st`. -/
def Frag.takeUp (f : Frag) (l : SLevel) (i : Nat) (st : PathState) (w : Wait) : Frag :=
  let l' : SLevel := { l with oMask := f.mask, oHdr := f.hdr, oWidx := f.widx, oDepth := f.depth, oState := st
                              oChain := f.chain.drop (i + 1), oWait := w, oJoins := f.inner l }
  { f.setLevel l' with mask := l.oMask, hdr := l.oHdr, widx := l.oWidx, clause := none, depth := l.oDepth
                       chain := f.chain.take (i + 1) ++ l.oChain, joins := l.oJoins ++ f.outer l, wait := l.oWait
                       arrived := if l.oWait = .none then none else some l.oWait }

/-- Swap at the innermost level whose other path has neither reached its reconvergence address nor exited; none where no
level qualifies (R22). The places of the chain are tried from the innermost outward. A path taken up in its barrier wait
looks at its levels too, and finds the path that was left: there is no swap then (log 26). -/
def Frag.swapAt (f : Frag) (w : Wait) : Nat → Option Frag
  | 0 => none
  | i + 1 =>
    match f.level? (f.chain.getD i 0) with
    | some l => if l.oState ≠ .running then f.swapAt w i else if l.oWait = .none then some (f.takeUp l i .running w) else none
    | none => f.swapAt w i
def Frag.swap (f : Frag) (w : Wait) : Option Frag := f.swapAt w f.chain.length
/-- At a swap point: swap if a level qualifies, else go on. -/
def Frag.swapPoint (f : Frag) : Frag := (f.swap .none).getD f

/-- Continue at the level's reconvergence address with the threads of both paths (R22). -/
def Frag.closeLevel (f : Frag) (l : SLevel) (m : BitVec 32) : Frag :=
  { f.dropLevel l.id with mask := m, hdr := l.recon, widx := 0, clause := none, depth := l.depth, wait := .none, arrived := none
                          joins := f.outer l }

/-- The path has reached the innermost level's reconvergence address. -/
def Frag.reconverge (f : Frag) (l : SLevel) : Frag :=
  match l.oState with
  | .running => f.takeUp l (f.chain.length - 1) .arrived .none
  | .arrived => f.closeLevel l (f.mask ||| l.oMask)
  | .exited => f.closeLevel l f.mask

/-- The threads of the path have all exited: take up another path, level by level outward; none where no thread is left. -/
def Frag.afterExit (f : Frag) : Nat → Option Frag
  | 0 => if f.mask = 0 then none else some f
  | n + 1 =>
    if f.mask ≠ 0 then some f
    else match f.level? (f.chain.getLastD 0) with
      | none => none
      | some l => match l.oState with
        | .running => some (f.takeUp l (f.chain.length - 1) .exited .none)
        | .arrived => some (f.closeLevel l l.oMask)
        | .exited => (f.closeLevel l 0).afterExit n

/-- The innermost pending reconvergence of the path: a join or a serial level, whichever was opened later. -/
inductive Pending where
  | none
  | join (j : Join)
  | level (l : SLevel)
  deriving DecidableEq, Repr

def Frag.pendingTop (f : Frag) : Pending :=
  match f.joins.head?, f.level? (f.chain.getLastD 0) with
  | some j, some l => if l.id < j.id then .join j else .level l
  | some j, none => .join j
  | none, some l => .level l
  | none, none => .none

/-- Where the fragment stands at its innermost pending reconvergence address, at the depth recorded there (R23, R181). -/
def Frag.arriveStep (f : Frag) : Frag :=
  match f.pendingTop with
  | .join j => if f.hdr = j.addr ∧ f.depth = j.depth then { f with wait := .fuse } else f
  | .level l => if f.hdr = l.recon ∧ f.depth = l.depth then f.reconverge l else f
  | .none => f

/-- Does the fragment stand at its innermost pending reconvergence address? -/
def Frag.atRecon (f : Frag) : Bool :=
  match f.pendingTop with
  | .join j => f.hdr == j.addr && f.depth == j.depth
  | .level l => f.hdr == l.recon && f.depth == l.depth
  | .none => false

/-! ### Barriers -/

def Workgroup.bar (w : Workgroup) (n : Nat) : Barrier := SMap.get {} w.bars n
def Workgroup.setBar (w : Workgroup) (n : Nat) (b : Barrier) : Workgroup := { w with bars := SMap.set {} w.bars n b }

/-- Threads of a workgroup that have not exited (R26). -/
def State.liveThreads (s : State) (wid : Nat) : Nat := ((s.groupsOf wid).map (fun g => popcount g.liveMask)).sum

/-- A fragment that waits at a completed barrier resumes behind the BAR; a parked path that waited there may be taken up
by a path that waits at another barrier (R22, R26). -/
def Frag.resumeBar (w : Wait) (f : Frag) : Frag :=
  let f := { f with serial := f.serial.map (fun (l : SLevel) => if l.oWait = w then { l with oWait := .none, oWidx := l.oWidx + 1 } else l) }
  if f.wait = w then
    (match f.clause with
     | some _ => { f.advance 1 with arrived := none }
     | none => { f with wait := .none, widx := f.widx + 1, arrived := none })
  else
    let f := if f.arrived = some w then { f with arrived := some .none } else f
    match f.wait with
    | .bar n => (f.swap (.bar n)).getD f
    | .gang n => (f.swap (.gang n)).getD f
    | _ => f

/-- Complete workgroup barrier `n` if its arrivals have reached the expected count (R26). -/
def State.settleBar (s : State) (wid n : Nat) : State :=
  let w := s.wg wid
  if (w.bar n).isOpen ∧ s.liveThreads wid ≤ (w.bar n).arrived then
    let s := s.modWg wid (fun w => w.setBar n {})
    { s with groups := s.groups.map (fun g => if g.wid = wid then { g with frags := g.frags.map (Frag.resumeBar (.bar n)) } else g) }
  else s

/-- Add arrivals to a barrier instance; the first opens it and starts its watchdog (R26, R27, R308). -/
def Barrier.arrive (b : Barrier) (n bwe : Nat) (clock : Word64) : Barrier :=
  if b.isOpen then { b with arrived := b.arrived + n } else { arrived := n, start := clock, isOpen := true, exp := bwe }

/-- The gang entry of a workgroup. -/
def State.gang (s : State) (w : Workgroup) : Gang :=
  (s.gangs.find? (fun g => g.rcb == w.rcb && g.num == w.gang)).getD { rcb := w.rcb, num := w.gang }
def State.setGang (s : State) (g : Gang) : State :=
  if s.gangs.any (fun h => h.rcb == g.rcb && h.num == g.num) then
    { s with gangs := s.gangs.map (fun h => if h.rcb = g.rcb ∧ h.num = g.num then g else h) }
  else { s with gangs := s.gangs ++ [g] }
/-- Resident workgroups of the gang (R15); a workgroup outside a gang is its own. -/
def State.gangMembers (s : State) (rcb num : Nat) : List Nat := (s.wgs.filter (fun w => w.rcb == rcb && w.gang == num)).map (·.wid)
def State.gangThreads (s : State) (rcb num : Nat) : Nat := ((s.gangMembers rcb num).map s.liveThreads).sum

def Gang.bar (g : Gang) (n : Nat) : Barrier := SMap.get {} g.bars n
def Gang.setBar (g : Gang) (n : Nat) (b : Barrier) : Gang := { g with bars := SMap.set {} g.bars n b }

/-- Complete gang barrier `n` if its arrivals have reached the expected count (R190). -/
def State.settleGang (s : State) (rcb num n : Nat) : State :=
  match s.gangs.find? (fun g => g.rcb == rcb && g.num == num) with
  | none => s
  | some g =>
    if (g.bar n).isOpen ∧ s.gangThreads rcb num ≤ (g.bar n).arrived then
      let ms := s.gangMembers rcb num
      let s := s.setGang (g.setBar n {})
      { s with groups := s.groups.map (fun h => if ms.contains h.wid then { h with frags := h.frags.map (Frag.resumeBar (.gang n)) } else h) }
    else s

/-- Complete every barrier that the end of threads of a workgroup has met (R26, R185). -/
def State.settleAll (s : State) (w : Workgroup) : State :=
  let s := (List.range 16).foldl (fun s n => s.settleBar w.wid n) s
  (List.range 4).foldl (fun s n => s.settleGang w.rcb w.gang n) s

end Sys2Proof.Machine
end

