-- ==== Sys2Proof/Machine/Reloc.lean ====
section
/-! DEFINITION. Forwarding tables and the copy of one object, which assisted copies and relocation commands share (R125,
R127, R128). -/

namespace Sys2Proof.Machine

/-- The header of a forwarding table (R125). -/
structure FwdHeader where
  page : Nat
  logn : Nat
  ncopied : Nat
  nent : Nat
  deriving DecidableEq, Repr
def fwdHeader (x : Nat) : FwdHeader := ⟨fld x 71 57, fld x 64 4, fld x 32 32, fld x 0 32⟩

/-- An entry of a forwarding table (R125). -/
structure FwdEntry where
  newAddr : Nat
  off8 : Nat
  size8 : Nat
  state : Nat
  deriving DecidableEq, Repr
def fwdEntry (x : Nat) : FwdEntry := ⟨fld x 71 57, fld x 46 18, fld x 28 18, fld x 0 2⟩
def fwdVa (table slot : Nat) : Nat := table + 16 + 16 * slot

/-- Why a read of a table gives no value: a fate, or answers about its line that are awaited. -/
inductive FwdStop where
  | fate (va : Nat) (f : Fate)
  | busy (x : Xlat)
  deriving DecidableEq, Repr

/-- A 16-byte read of a table by an agent. -/
def State.readFwd (s : State) (a : Who) (va : Nat) : Except FwdStop Nat :=
  match s.fate a va false with
  | .ok x => if s.lineBusy x 16 false then .error (.busy x) else if s.poisoned x.pa 16 then .error (.fate va .poison) else .ok (s.rd x.pa 16)
  | e => .error (.fate va e)

/-- What a lookup finds (R125). -/
inductive Lookup where
  | found (slot : Nat) (e : FwdEntry)
  | absent
  /-- HEAP_FWD -/
  | bad
  | stop (w : FwdStop)
  deriving DecidableEq, Repr

/-- Probe from a slot (R125). -/
def State.probe (s : State) (a : Who) (table logn o : Nat) : Nat → Nat → Lookup
  | 0, _ => .bad
  | n + 1, slot =>
    match s.readFwd a (fwdVa table slot) with
    | .error w => .stop w
    | .ok x =>
      let e := fwdEntry x
      if e.state = 0 then .absent
      else if e.off8 = o then .found slot e
      else s.probe a table logn o n ((slot + 1) % 2 ^ logn)

/-- The slot at which the probes for an object begin (R125). -/
def fwdHash (h : FwdHeader) (o : Nat) : Nat := o * 0x9E3779B1 % 2 ^ 32 / 2 ^ (32 - h.logn)

/-- The lookup of an object at `addr` on the managed page at `page` (R125). -/
def State.lookupFwd (s : State) (a : Who) (table page addr : Nat) : Lookup :=
  match s.readFwd a table with
  | .error w => .stop w
  | .ok h =>
    let h := fwdHeader h
    if h.page ≠ page then .bad
    else
      let o := (addr - page) / 8
      s.probe a table h.logn o (2 ^ h.logn) (fwdHash h o)

/-- A table's 16 bytes at an address have been read. -/
def State.noteFwd (s : State) (a : Who) (va : Nat) : State := match s.fate a va false with
  | .ok x => s.noteRead a.atHome x 16
  | _ => s

/-- The entries that a lookup has read, from a slot on. -/
def State.noteProbe (s : State) (a : Who) (table logn o : Nat) : Nat → Nat → State
  | 0, _ => s
  | n + 1, slot => match s.readFwd a (fwdVa table slot) with
    | .error _ => s
    | .ok x =>
      let t := s.noteFwd a (fwdVa table slot)
      if (fwdEntry x).state = 0 ∨ (fwdEntry x).off8 = o then t else t.noteProbe a table logn o n ((slot + 1) % 2 ^ logn)

/-- What a lookup has read. -/
def State.noteLookup (s : State) (a : Who) (table page addr : Nat) : State := match s.readFwd a table with
  | .error _ => s
  | .ok h =>
    let h := fwdHeader h
    let o := (addr - page) / 8
    (s.noteFwd a table).noteProbe a table h.logn o (if h.page = page then 2 ^ h.logn else 0) (fwdHash h o)

/-- Does the CAS of an entry wait for answers about its line: the state in which they are asked for (R360, R361)? -/
def State.claimBusy (s : State) (a : Who) (va : Nat) : Option State := match s.fate a va true with
  | .ok x => s.lineHold x 16 true
  | _ => none

/-- CAS of an entry from FREE to CLAIMED with a CLAIMER, at .dev (R127). The caller has seen FREE. -/
def State.claimFwd (s : State) (a : Who) (va claimer : Nat) : Except Fate State :=
  match s.fate a va true with
  | .ok x => .ok (s.performWrite a x (leBytes 8 (putFld (putFld (s.rd x.pa 8) 4 16 claimer) 0 2 2)))
  | e => .error e

/-- The pieces of a copy that stay on one 64 KiB page at both ends: source, target, bytes. -/
def copyPieces : Nat → Nat → Nat → Nat → List (Nat × Nat × Nat)
  | 0, _, _, _ => []
  | fuel + 1, old, new, n =>
    if n = 0 then []
    else
      let k := min n (min (65536 - old % 65536) (65536 - new % 65536))
      (old, new, k) :: copyPieces fuel (old + k) (new + k) (n - k)

/-- The first thing that stops a piece. -/
def State.pieceStop (s : State) (a : Who) (p : Nat × Nat × Nat) : Option Blocked :=
  match s.fate a p.1 false, s.fate a p.2.1 true with
  | .fault f, _ => some (.fault p.1 f)
  | _, .fault f => some (.fault p.2.1 f)
  | .ok x, .ok y =>
    if s.lineBusy x p.2.2 false then some (.lines x p.2.2 false)
    else if s.lineBusy y p.2.2 true then some (.lines y p.2.2 true)
    else none
  | _, _ => none

/-- Copy one piece; the poison marks of the source's lines go with it (R228). -/
def State.copyPiece (s : State) (a : Who) (p : Nat × Nat × Nat) : State :=
  match s.fate a p.1 false, s.fate a p.2.1 true with
  | .ok x, .ok y =>
    let n := p.2.2
    let bad := (List.range ((n + 7) / 8)).filter (fun i => s.poisonedLine ((x.pa + 8 * i) / 128))
    let t := (s.noteRead a x n).performWrite a y (s.rdN x.pa n)
    bad.foldl (fun t i => t.poisonLine ((y.pa + 8 * i) / 128)) t
  | _, _ => s

/-- A write of the copy at one address: what stops it, or its translation with the dirty-log record written (R345). -/
def State.copyTarget (s : State) (a : Who) (va n : Nat) : Except Blocked (State × Xlat) := match s.fate a va true with
  | .ok x => if s.lineBusy x n true then .error (.lines x n true) else .ok (s.logDirty a x, x)
  | .fault f => .error (.fault va f)
  | .dropped c => .error (.dropped c)
  | _ => .error (.dropped none)

/-- Copy the object of an entry, mark it COPIED and raise NCOPIED (R127); or what stops it. -/
def State.copyObject (s : State) (a : Who) (table slot : Nat) : Except Blocked State :=
  (s.copyTarget a table 16).bind fun (s, hx) =>
  (s.copyTarget a (fwdVa table slot) 16).bind fun (s, ex) =>
  let e := fwdEntry (s.rd ex.pa 16)
  let old := (fwdHeader (s.rd hx.pa 16)).page + 8 * e.off8
  let ps := copyPieces 70 old e.newAddr (8 * e.size8)
  (foldE (fun (t : State) p => match t.pieceStop a p with
    | some b => .error b
    | none => .ok (match t.fate a p.2.1 true with
      | .ok y => t.logDirty a y
      | _ => t)) s ps).bind fun t =>
  let t := ps.foldl (fun t p => t.copyPiece a p) t
  let t := t.performWrite a ex (leBytes 8 (putFld (t.rd ex.pa 8) 0 2 3))
  .ok (t.performWrite a hx (leBytes 8 (putFld (t.rd hx.pa 8) 32 32 (fld (t.rd hx.pa 8) 32 32 + 1))))

end Sys2Proof.Machine
end

