-- ==== Sys2Proof/Machine/Ops.lean ====
section
/-! DEFINITION. How an issue ends (retire, hold, trap), taking a trap and returning from one (R315 to R322), the
end of threads, groups, workgroups and launches (R185, R306, R332), fault-domain kills (R323), and the settling of GROW
requests (R34 to R36). -/

namespace Sys2Proof.Machine

/-- Why an instruction does not complete. Each form names the state it applies to: the state before the instruction,
with a fault record or back-invalidation added where one was posted. -/
inductive Stop where
  /-- trap `code` with TVAL, the offending thread, and the fault that is also with the driver (R316) -/
  | trap (t : State) (code : Nat) (tval : Word64) (thr : Option Nat) (posted : Option (Nat × Nat))
  /-- the issuer is held without a lane and issues the instruction again later (R29, R184) -/
  | hold (t : State) (w : Wait)
  /-- the operation is dropped whole (R370, R375): it completes with no effect of its own -/
  | skip (t : State) (c : Option (Nat × Word64))

abbrev Exec := Except Stop State

def trapAt {α : Type} (s : State) (code : Nat) (tval : Word64) : Except Stop α := .error (.trap s code tval none none)
def trapThr {α : Type} (s : State) (code : Nat) (tval : Word64) (t : Nat) : Except Stop α := .error (.trap s code tval (some t) none)
def holdOn {α : Type} (s : State) (w : Wait) : Except Stop α := .error (.hold s w)

/-! Codes of R315 that instructions raise. -/
def cIllegal : Nat := 1
def cRole : Nat := 2
def cPriv : Nat := 3
def cTrapInstr : Nat := 4
def cDivide : Nat := 5
def cMisaligned : Nat := 6
def cAddress : Nat := 7
def cScratch : Nat := 8
def cAcc : Nat := 9
def cRegister : Nat := 10
def cMatrixDesc : Nat := 11
def cStream : Nat := 12
def cSplit : Nat := 13
def cJoin : Nat := 14
def cSpawn : Nat := 15
def cAsync : Nat := 16
def cSpq : Nat := 17
def cTwin : Nat := 18
def cQscope : Nat := 19
def cQstate : Nat := 20
def cBarobj : Nat := 21
def cStall : Nat := 22
def cMule : Nat := 23
def cMuleEmpty : Nat := 24
def cHeapRef : Nat := 25
def cHeapFwd : Nat := 26
def cHeapPin : Nat := 27
def cApx : Nat := 28
def cTranslation : Nat := 29
def cPoison : Nat := 30
def cConf : Nat := 31
def cPeer : Nat := 32
def cViral : Nat := 33
def cLost : Nat := 34

/-! ### Deferred causes (R320) -/

/-- Raise a deferred cause; the TVAL of the first raise of each code is kept. -/
def Group.raise (g : Group) (code : Nat) (tval : Word64) : Group :=
  if (SMap.get none g.pending code).isSome then g else { g with pending := SMap.set none g.pending code (some tval) }
def State.raise (s : State) (gid code : Nat) (tval : Word64) : State := s.modGroup gid (fun g => g.raise code tval)
def State.raiseOpt (s : State) (gid : Nat) : Option (Nat × Word64) → State
  | some (c, v) => s.raise gid c v
  | none => s
/-- Raise a cause in every group of a workgroup. -/
def State.raiseWg (s : State) (wid code : Nat) (tval : Word64) : State :=
  { s with groups := s.groups.map (fun g => if g.wid = wid then g.raise code tval else g) }
/-- Raise a cause in every group of a context, resident or saved. -/
def State.raiseCtx (s : State) (ctx code : Nat) (tval : Word64) : State :=
  { s with groups := s.groups.map (fun g => if (s.wg g.wid).ctx = ctx then g.raise code tval else g)
           saved := s.saved.map (fun (i : Saved) =>
             if i.wg.ctx = ctx then { i with groups := i.groups.map (fun (g : Group) => g.raise code tval) } else i) }

/-! ### Kills that wait (R128) -/

/-- Does the kill end work of this context, fault domain and launch? -/
def Kill.hits (k : Kill) (ctx fdom rcb : Nat) : Bool := match k with
  | .domain c d _ _ _ _ _ => c == ctx && d == fdom
  | .launch r _ => r == rcb
def Kill.hitsWg (k : Kill) (w : Workgroup) : Bool := k.hits w.ctx w.fdom w.rcb
/-- Work that a waiting kill will end; it issues nothing more and nothing of it starts. -/
def State.doomed (s : State) (ctx fdom rcb : Nat) : Bool := s.kills.any (fun k => k.hits ctx fdom rcb)
def State.doomedWg (s : State) (w : Workgroup) : Bool := s.doomed w.ctx w.fdom w.rcb

/-! ### GROW requests (R34 to R36) -/

/-- The GROW at which a fragment stands. -/
def Frag.growInstr (f : Frag) : Option FmtC :=
  match f.clause with
  | some c => match c.instrAt f.widx with
    | .ok (.grow i, _) => some i
    | _ => none
  | none => none

/-- Settle a blocked GROW: status, predicate, position (R193). -/
def Group.settleGrow (g : Group) (f : Frag) (n : Nat) (mside : Bool) (code : Nat) : Group :=
  let g := if code ≠ 0 then g else if mside then { g with mside := g.mside + n } else { g with vside := g.vside + n }
  match f.growInstr with
  | some i =>
    let g := match i.sb with
      | some r => g.setS r.val (n64 code)
      | none => g
    let g := g.setPred (i.imm.toNat % 8) f.mask (if code = 0 then BitVec.allOnes 32 else 0)
    g.modFrag f.fid (fun f => f.advance 1)
  | none => g.modFrag f.fid (fun f => { f with wait := .none })

/-- Granules of a partition that no group holds (R32). -/
def State.partFree (s : State) (g : Group) : Nat :=
  128 - ((s.groups.filter (fun h => s.samePart g h)).map (fun h => h.vside + h.mside)).sum

def sideLimit (mside : Bool) : Nat := if mside then 32 else 12
def Group.side (g : Group) (mside : Bool) : Nat := if mside then g.mside else g.vside

/-- The blocked requests of a partition, those of fragments stopped by a trap among them: group, fragment, granules, side. -/
def State.growers (s : State) (g : Group) : List (Group × Frag × Nat × Bool) :=
  ((s.groups.filter (fun h => s.samePart g h)).map (fun h =>
    h.frags.filterMap (fun f => match f.wait with
      | .grow n m => some (h, f, n, m)
      | _ => none))).flatten

/-- Does request `a` come before `b`: higher priority, then older (R35)? -/
def State.growBefore (s : State) (a b : Group × Frag × Nat × Bool) : Bool :=
  let pa := (s.wg a.1.wid).prio
  let pb := (s.wg b.1.wid).prio
  decide (pb < pa) || (pa == pb && (decide (a.1.since < b.1.since) || (a.1.since == b.1.since && decide (a.2.1.age ≤ b.2.1.age))))

/-- The request that comes first. -/
def State.growFirst (s : State) : List (Group × Frag × Nat × Bool) → Option (Group × Frag × Nat × Bool)
  | [] => none
  | a :: l => match s.growFirst l with
    | none => some a
    | some b => if s.growBefore a b then some a else some b

/-- May the request be granted whole: its side's limit, its budgets, the free granules of its partition (R32, R34)? -/
def State.growFits (s : State) (h : Group) (n : Nat) (mside : Bool) : Bool :=
  decide (h.side mside + n ≤ sideLimit mside) && s.granFree (s.wg h.wid).rcb n && decide (n ≤ s.partFree h)

/-- Offer the free granules of a partition to the blocked requests, first to last; one that does not fit blocks those
after it (R35). A request that would by now take its side over its limit, since another fragment's request on that side was
granted, stays blocked: the model's choice (log 64). -/
def State.growGrant (s : State) (g : Group) : Nat → State
  | 0 => s
  | k + 1 =>
    match s.growFirst (s.growers g) with
    | none => s
    | some (h, f, n, m) => if s.growFits h n m then (s.modGroup h.gid (fun h => h.settleGrow f n m 0)).growGrant g k else s

/-- Can no fragment of the group run but by a GROW? -/
def Group.growBlocked (g : Group) : Bool :=
  let l := g.frags.filter (fun f => !g.stopped f)
  l.any (fun f => match f.wait with
    | .grow _ _ => true
    | _ => false) &&
  l.all (fun f => match f.wait with
    | .grow _ _ => true
    | .fuse => true
    | _ => false)

/-- The request that comes last: lowest priority, youngest (R36). -/
def State.growLast (s : State) : List (Group × Frag × Nat × Bool) → Option (Group × Frag × Nat × Bool)
  | [] => none
  | a :: l => match s.growLast l with
    | none => some a
    | some b => if s.growBefore a b then some b else some a

/-- Grant what fits; then, if every resident group of the partition is blocked and no kill is about to release granules there,
fail one request (R35, R36, R128). A group whose
threads have all exited while its workgroup runs on counts neither as a resident group nor as a pending release, though it
still holds its granules: the model's choice (log 27). -/
def State.growSettle (s : State) (g : Group) : State :=
  let s := s.growGrant g 128
  let l := s.groups.filter (fun h => s.samePart g h && !h.frags.isEmpty)
  let s := if l.all Group.growBlocked && !l.any (fun h => s.doomedWg (s.wg h.wid)) then
      match s.growLast ((s.growers g).filter (fun e => !e.1.stopped e.2.1)) with
      | some (h, f, n, m) => s.modGroup h.gid (fun h => h.settleGrow f n m 3)
      | none => s
    else s
  ((l.map (fun h => (s.wg h.wid).rcb)).eraseDups).foldl State.writeHeld s

/-- A fragment of the group has stopped running: its partition's requests, if there are any, are settled again (R36). -/
def State.growCheck (s : State) (gid : Nat) : State := match s.group? gid with
  | some g => if (s.growers g).isEmpty then s else s.growSettle g
  | none => s

/-! ### The end of launches (R17, R304, R306, R382) -/

/-- A launch leaves STATE 2 for STATE 1 and joins the candidates. -/
def State.becomeCandidate (s : State) (rcb : Nat) : State :=
  { s.setRcbStateOnly rcb 1 with candidates := s.candidates.filter (· ≠ rcb) ++ [rcb], reached := s.reached.filter (· ≠ rcb) ++ [rcb] }

/-- Has the launch ended (R304)? -/
def State.launchOver (s : State) (rcb : Nat) : Bool := decide (5 ≤ s.rcbState rcb)

/-- Launches held behind an ORDER go on once every earlier launch has ended (R304, R306). -/
def State.recheckOrders (s : State) : State :=
  let live (l : List Nat) : List Nat := l.filter (fun r => !s.launchOver r)
  let held := s.ordered.map (fun e => (e.1, live e.2))
  let s := { s with
    ordered := held.filter (fun e => !e.2.isEmpty)
    orders := s.orders.map (fun e => (e.1, e.2.1, live e.2.2))
    queued := s.queued.filter (fun e => !s.launchOver e.2.2) }
  (held.filter (fun e => e.2.isEmpty)).foldl (fun (s : State) e =>
    if s.rcbState e.1 = 2 ∧ fld (s.rcbD e.1 11) 8 8 = 0 then s.becomeCandidate e.1 else s) s

/-- Lower DEPS of a successor (R306). -/
def State.lowerDeps (s : State) (rcb : Nat) : State :=
  let d := s.rcbD rcb 11
  let k := fld d 8 8
  if k = 0 then s.setRcbD rcb 0 (putFld (s.rcbD rcb 0) 0 8 4)
  else
    let s := s.setRcbD rcb 11 (putFld d 8 8 (k - 1))
    if k = 1 ∧ s.rcbState rcb = 2 ∧ !(s.ordered.any (fun e => e.1 == rcb)) then s.becomeCandidate rcb else s

/-- Write the final status of a task at a slot's status word, or send the back-invalidations that it waits for (R361, R382). -/
def State.putStatus (s : State) (pa status : Nat) : State :=
  if s.snoopBusy pa 8 true then { s.sendSnoops pa 8 true with late := s.late ++ [.status pa status] } else s.homeWrite pa (leBytes 8 status)

/-- Write the final status of a task (R365, R382). -/
def State.taskStatus (s : State) (rcb status : Nat) : State :=
  let l := s.tasks.filter (fun e => e.rcb == rcb)
  l.foldl (fun (s : State) e => s.putStatus (e.slot + 4088) status) { s with tasks := s.tasks.filter (fun e => e.rcb ≠ rcb) }

/-- Address of the completion word of a launch or wave. -/
def State.cwordOf (s : State) (rcb : Nat) : Nat := fld (s.rcbD rcb 12) 0 57

/-- Behind the raise of the completion word: DEPS of the successors are lowered, then STATE is 5, then a task's status is written
(R306, R382). -/
def State.launchEnd (s : State) (rcb : Nat) : State :=
  let d := s.rcbD rcb 13
  let succ := (List.range (fld d 60 4)).map (fun i => fld (s.rd (fld d 0 57 + 8 * i) 8) 0 57)
  let s := succ.foldl State.lowerDeps s
  (((s.setRcbStateOnly rcb 5).taskStatus rcb 8).dropWork rcb).recheckOrders

/-- What follows a raise waits until it is performed: until no acknowledgement about its line is awaited (R60, R382). -/
def State.launchRaised (s : State) (ctx rcb line : Nat) : State :=
  if s.lineWaits line then { s with late := s.late ++ [.raised ctx rcb line] } else s.launchEnd rcb

/-- The last workgroup of a launch or wave has ended: its completion word is raised by 1 (R17, R306). Answers about the word's
line are awaited first, and MRESUME where a dirty-log ring is full (R347, R361); a word that cannot be written is not raised. -/
def State.launchComplete (s : State) (ctx rcb : Nat) : State :=
  let a := s.ctxWho ctx
  let va := s.cwordOf rcb
  match s.fate a va true with
  | .ok x => match s.lineHold x 8 true with
    | some t => { t with late := t.late ++ [.complete ctx rcb] }
    | none => (s.performWrite a x (leBytes 8 (s.rd x.pa 8 + 1))).launchRaised ctx rcb (x.pa / 128)
  | .fault f => if f.paused then
      let t := (s.postFault a va f).1
      { t with late := t.late ++ [.complete ctx rcb] }
    else s.launchEnd rcb
  | _ => s.launchEnd rcb

/-- An answer about a line has arrived, or a dirty-log ring is drained: the writes that waited are tried again, in order. -/
def State.settleLate (s : State) : State :=
  s.late.foldl (fun (s : State) e => match e with
    | .complete ctx rcb => s.launchComplete ctx rcb
    | .raised ctx rcb line => s.launchRaised ctx rcb line
    | .status pa status => s.putStatus pa status
    | .object ctx va u => s.objPut (s.ctxWho ctx) 0 (.glob va) u
    | .lower ctx slot => s.lowerTwin (s.ctxWho ctx) 0 ⟨true, slot⟩) { s with late := [] }

/-- Does the entry end this launch or wave? -/
def Late.ends (rcb : Nat) : Late → Bool
  | .complete _ r | .raised _ r _ => r == rcb
  | _ => false

/-! ### The end of workgroups (R55, R230, R332) -/

/-- SCALED of a chain (R232). -/
def Cmd.scaledChain (c : Cmd) : Bool := c.kind == .chain && bitN (c.chain.getD 0 0).toNat 48

/-- An asynchronous command reads its workgroup's window and writes elsewhere. -/
def Cmd.readsWindow (c : Cmd) : Bool := match c.src, c.dst with
  | .win _, .glob _ => true
  | .win _, .twin true _ _ => true
  | _, _ => false
/-- A command with a target in the window: its destination, or a chain's scale bytes or state word (R232). -/
def Cmd.writesWindow (c : Cmd) : Bool := (match c.dst with
  | .win _ => true
  | .twin false _ _ => true
  | _ => false) || (c.scaledChain && ((c.chain.drop 4).any (fun a => (match resolveGeneric a with
  | some (.win _) => true
  | _ => false))))

/-! ### Colour words (R123, R307) -/

/-- Address of a colour word of a context: the request word 0, the done word 1. -/
def State.colourVa (s : State) (n i : Nat) : Nat := fld (s.rcbD (s.ctxRcb n) 13) 0 57 + 8 * i

/-- Write SEQ to the done word, and whether that is over: answers about its line (R361) or MRESUME (R347) may be awaited. A word that
cannot be written is passed over. -/
def State.colourDone (s : State) (n seq : Nat) : State × Bool :=
  let a := s.ctxWho n
  let va := s.colourVa n 1
  match s.fate a va true with
  | .ok x => match s.lineHold x 8 true with
    | some t => (t, false)
    | none => (s.performWrite a x (leBytes 8 (seq * 2 ^ 32)), true)
  | .fault f => if f.paused then ((s.postFault a va f).1, false) else (s, true)
  | _ => (s, true)

/-- Has every resident group of the context that has a thread left adopted the colour? -/
def State.allAdopted (s : State) (n : Nat) (col : BitVec 2) : Bool :=
  s.groups.all (fun g => (s.wg g.wid).ctx != n || g.frags.isEmpty || g.good == col)

/-- A colour change is over once every resident group has adopted it: the done word is written. -/
def State.colourEnd (s : State) (n : Nat) : State := match (s.ctx? n).bind (·.change) with
  | none => s
  | some (seq, col) =>
    if s.allAdopted n col then
      let r := s.colourDone n seq.toNat
      if r.2 then r.1.modCtx n (fun c => { c with change := none }) else r.1
    else s

/-- A command is discarded: PENDCMD of its object in global memory, and PEND of its global twin slot, are lowered (R54,
R55, R78). -/
def State.discardCmd (s : State) (c : Cmd) : State :=
  let s := match c.twinSlot with
    | some r => if r.g then s.lowerTwin (s.cmdWho c) c.wid r else s
    | none => s
  let s := match c.registered, c.object with
    | true, some (.glob va) => s.objPut (s.cmdWho c) c.wid (.glob va) .lower
    | _, _ => s
  s.dropCmd c.id

/-- Take the groups of a workgroup out; their granules go to blocked requests (R35), and no colour change waits for them (R307). -/
def State.removeGroups (s : State) (wid : Nat) : State :=
  let gone := s.groupsOf wid
  let ctx := (s.wg wid).ctx
  let s := { s with groups := s.groups.filter (fun g => g.wid ≠ wid) }.colourEnd ctx
  s.groups.foldl (fun s h => if gone.any (fun g => g.part == h.part) then s.growSettle h else s) s

/-- Gangs of which no member is resident or saved are gone. -/
def State.dropGangs (s : State) : State :=
  let live (g : Gang) (w : Workgroup) : Bool := w.rcb == g.rcb && w.gang == g.num
  { s with gangs := s.gangs.filter (fun g => s.wgs.any (live g) || s.saved.any (fun i => live g i.wg)) }

/-- Release what a workgroup still holds. The window's bytes are cleared for a protected world, and otherwise before another
context gets them (R333). -/
def State.removeWg (s : State) (wid : Nat) : State :=
  let w := s.wg wid
  let s := { s with wgs := s.wgs.filter (fun w => w.wid ≠ wid)
                    leftovers := if w.prot || w.winSize == 0 then s.leftovers else ⟨gcluster w.place, w.winBase, w.winSize, w.ctx⟩ :: s.leftovers }
  s.dropGangs.writeHeld w.rcb

/-- Every thread of the workgroup has exited (R185, R332). -/
def State.wgExit (s : State) (wid : Nat) : State :=
  let w := s.wg wid
  let s := (s.cmds.filter (fun c => c.wid == wid && c.writesWindow)).foldl State.discardCmd s
  let s := s.modWg wid (fun w => { w with ending := true, maps := [], subs := [], twins := [], locks := [], bars := [] })
  let s := (s.removeGroups wid).writeHeld w.rcb
  let d := s.rcbD w.rcb 14
  let done := fld d 0 32 + 1
  let s := s.setRcbD w.rcb 14 (putFld d 0 32 done)
  let s := if done = fld (s.rcbD w.rcb 11) 32 32 then s.launchComplete w.ctx w.rcb else s
  if s.cmds.any (fun c => c.wid == wid && c.readsWindow) then s else s.removeWg wid

/-- A window that waited for its readers is released with the last of them (R230). -/
def State.wgRelease (s : State) (wid : Nat) : State :=
  if (s.wg wid).ending ∧ !(s.cmds.any (fun c => c.wid == wid && c.readsWindow)) then s.removeWg wid else s

/-- Assisted copies of a workgroup's fragments that nothing holds come to their end (R128). -/
def State.finishCopies (s : State) (wid : Nat) : State :=
  (s.groupsOf wid).foldl (fun (s : State) g => g.frags.foldl (fun (s : State) f => match f.wait with
    | .copying table slot none => match s.copyObject (s.wg wid).who table slot with
      | .ok t => t.modGroup g.gid (fun g => g.modFrag f.fid (fun f => { f with wait := .none }))
      | .error _ => s
    | _ => s) s) s

/-- A workgroup is killed (R332). -/
def State.wgKill (s : State) (wid : Nat) : State :=
  let s := (s.cmds.filter (fun c => c.wid == wid)).foldl State.discardCmd s
  (s.removeGroups wid).removeWg wid

/-! ### Killing a fault domain (R10, R313, R323) -/

/-- A launch or wave is over without completing: STATE 6 or 7 with FAIL; it starts nothing more, and a completion that waits does
not come (R306, R309, R313). -/
def State.rcbEnd (s : State) (rcb st fail : Nat) : State :=
  let s := ((s.setRcbState rcb st fail).taskStatus rcb 9).dropWork rcb
  { s with late := s.late.filter (fun e => !e.ends rcb)
           candidates := s.candidates.filter (· ≠ rcb), ordered := s.ordered.filter (fun e => e.1 ≠ rcb)
           reserved := s.reserved.filter (fun e => e.2.1 ≠ rcb), gangWait := SMap.set 0 s.gangWait rcb 0 }

/-- Launches and waves of a context that have not ended. -/
def State.knownRcbs (s : State) (ctx : Nat) : List Nat := (s.work.filter (fun w => w.ctx == ctx)).map (·.rcb)

/-- The key of a workgroup image in the table of sealed images (R330). -/
def sealKeyOf (w : Workgroup) : List Nat := [0, w.ctx, w.rcb, w.wgx]

/-- Saved workgroups of which `p` holds are discarded with their commands. -/
def State.dropSaved (s : State) (p : Workgroup → Bool) : State :=
  let s := (s.cmds.filter (fun c => s.saved.any (fun i => p i.wg && i.wg.wid == c.wid))).foldl State.discardCmd s
  let gone := s.saved.filter (fun i => p i.wg)
  { s with saved := s.saved.filter (fun i => !p i.wg), seals := s.seals.filter (fun e => !gone.any (fun i => e.1 == sealKeyOf i.wg)) }.dropGangs

/-- The record of a kill (R323). -/
def killRecord (reason fdom level ctx : Nat) (kcause ktret ktval : Word64) : List Byte :=
  leBytes 8 (2 ^ 56 + reason * 2 ^ 48 + fdom * 2 ^ 40 + level * 2 ^ 32 + ctx * 2 ^ 16) ++
  leBytes 8 kcause.toNat ++ leBytes 8 ktret.toNat ++ leBytes 8 ktval.toNat

/-- A second kill of the same work. -/
def Kill.again (k l : Kill) : Bool := match k, l with
  | .domain c d _ _ _ _ _, .domain c' d' _ _ _ _ _ => c == c' && d == d'
  | .launch r _, .launch r' _ => r == r'
  | _, _ => false

/-- Does an assisted copy run in a group of the kill, held by a fault or not (R128)? -/
def State.copiesIn (s : State) (k : Kill) : Bool := s.groups.any (fun g => k.hitsWg (s.wg g.wid) && g.frags.any (fun f => match f.wait with
  | .copying _ _ _ => true
  | _ => false))

/-- The kill: its workgroups end, resident or saved, and its launches take STATE 6; that of a domain is recorded (R313,
R323). -/
def State.doKill (s : State) (k : Kill) : State :=
  let s := (s.wgs.filter k.hitsWg).foldl (fun s w => s.wgKill w.wid) s
  let s := s.dropSaved k.hitsWg
  match k with
  | .domain ctx fdom reason level cause ret val =>
    let rcbs := (s.work.filter (fun w => w.ctx == ctx && w.fdom == fdom)).map (·.rcb)
    let s := (rcbs.foldl (fun (s : State) r => s.rcbEnd r 6 6) s).recheckOrders
    let fn := s.ctxFn ctx
    (s.count fn 7 1).postEvent fn (killRecord reason fdom level ctx cause ret val)
  | .launch rcb fail => (s.rcbEnd rcb 6 fail).recheckOrders

/-- A kill: its groups' assisted copies come to their end first; while a fault or an answer holds one, the kill waits
(R128). -/
def State.beginKill (s : State) (k : Kill) : State :=
  let s := (s.wgs.filter k.hitsWg).foldl (fun (s : State) w => s.finishCopies w.wid) s
  if !s.copiesIn k then s.doKill k
  else if s.kills.any k.again then s
  else { s with kills := s.kills ++ [k] }

/-- Kills that no assisted copy holds up any more happen, oldest first. -/
def State.settleKills (s : State) : State :=
  (s.kills.filter (fun k => !s.copiesIn k)).foldl (fun (s : State) k => { s with kills := s.kills.filter (· ≠ k) }.doKill k) s

/-- Kill a fault domain of a context for a reason (R323). -/
def State.killDomain (s : State) (ctx fdom reason level : Nat) (kcause ktret ktval : Word64) : State :=
  s.beginKill (.domain ctx fdom reason level kcause ktret ktval)

/-! ### Taking a trap (R316 to R318) -/

def Group.bank (g : Group) (n : Nat) : TrapBank := if n = 1 then g.bank1 else g.bank2
def Group.setBank (g : Group) (n : Nat) (b : TrapBank) : Group := if n = 1 then { g with bank1 := b } else { g with bank2 := b }

/-- TCAUSE (R316). -/
def causeWord (code : Nat) (thr : Option Nat) (deferred posted : Bool) : Word64 :=
  n64 (code + b2n deferred * 2 ^ 8 + b2n posted * 2 ^ 9 + (match thr with
    | some t => t * 2 ^ 16 + 2 ^ 21
    | none => 0))

/-- TRET: the instruction at word `widx` of the clause at `hdr`, or that clause's header (R316). -/
def retWord (hdr : Word64) (widx : Nat) (atHdr : Bool) : Word64 :=
  if atHdr then n64 (hdr.toNat % 2 ^ 57 + 2 ^ 59)
  else n64 ((wordAddr hdr widx).toNat % 2 ^ 57 + widx % 16 * 2 ^ 60)

/-- Why the handler table gives no entry: the kill's reason, or answers about a line that are awaited (R317, R318, R360, R361). -/
inductive HandlerStop where
  | kill (reason : Nat)
  | busy (x : Xlat)
  deriving DecidableEq, Repr

/-- Address of a slot of the handler table (R317). -/
def handlerVa (tvec : Word64) (code : Nat) : Nat := fld tvec.toNat 8 49 * 2 ^ 8 + 8 * code

/-- A slot of the handler table. -/
def State.handlerSlot (s : State) (a : Who) (tvec : Word64) (code : Nat) : Except HandlerStop Nat :=
  match s.fate a (handlerVa tvec code) false with
  | .ok x => if s.lineBusy x 8 false then .error (.busy x) else if s.poisoned x.pa 8 then .error (.kill 3) else .ok (s.rd x.pa 8)
  | _ => .error (.kill 3)

/-- The entry of the handler table for a cause, or the kill reason (R317, R318). -/
def State.handlerEntry (s : State) (a : Who) (tvec : Word64) (code : Nat) : Except HandlerStop Word64 :=
  if !bitN tvec.toNat 0 then .error (.kill 2)
  else match s.handlerSlot a tvec code with
    | .error r => .error r
    | .ok e => match if e = 0 then s.handlerSlot a tvec 0 else .ok e with
      | .error r => .error r
      | .ok 0 => .error (.kill 2)
      | .ok e => if fld e 57 7 ≠ 0 ∨ e % 4 ≠ 0 then .error (.kill 3) else .ok (n64 e)

/-- A slot of the handler table is read: one that its home slice rejects is logged (R62). -/
def State.noteSlot (s : State) (a : Who) (tvec : Word64) (code : Nat) : State := match s.fate a (handlerVa tvec code) false with
  | .ok x => s.noteRead a.atHome x 8
  | _ => s.rejectTaken a (handlerVa tvec code)
/-- What a lookup in the handler table has read. -/
def State.noteHandler (s : State) (a : Who) (tvec : Word64) (code : Nat) : State :=
  if !bitN tvec.toNat 0 then s
  else match s.handlerSlot a tvec code with
    | .ok 0 => (s.noteSlot a tvec code).noteSlot a tvec 0
    | _ => s.noteSlot a tvec code

/-- Taken DATA_POISON, VIRAL and EXPANDER_LOST are counted (R403). -/
def State.countTrap (s : State) (fn code : Nat) : State :=
  if code = cPoison then s.count fn 8 1 else if code = cViral ∨ code = cLost then s.count fn 9 1 else s

/-- A trap is taken in fragment `fid` of group `gid` (R318). `atHdr` marks a trap taken at the clause header. The fragment
keeps its place and stops; a handler fragment with its mask runs at the next level. Where answers about a line of the handler
table are awaited, the fragment waits with its trap. -/
def State.takeTrap (s : State) (gid fid code : Nat) (tval : Word64) (thr : Option Nat) (atHdr deferred : Bool)
    (posted : Option (Nat × Nat)) : State :=
  let g := s.group gid
  let f := g.frag fid
  let w := s.wg g.wid
  let cause := causeWord code thr deferred posted.isSome
  let ret := retWord f.hdr f.widx atHdr
  if g.tlevel = 2 then (s.countTrap w.fn code).killDomain w.ctx w.fdom 1 g.tlevel cause ret tval
  else match s.handlerEntry w.who g.tvec code with
    | .error (.busy x) =>
      (s.askFor x 8 false).modGroup gid (fun g => g.modFrag fid (fun f => { f with wait := .trap code tval thr atHdr deferred posted }))
    | .error (.kill r) => ((s.countTrap w.fn code).noteHandler w.who g.tvec code).killDomain w.ctx w.fdom r g.tlevel cause ret tval
    | .ok e =>
      let n := g.tlevel + 1
      ((s.countTrap w.fn code).noteHandler w.who g.tvec code).modGroup gid (fun g =>
        let b := g.bank n
        let g := g.setBank n { b with cause := cause, ret := ret, val := tval, spill := g.sreg 47, frag := fid, posted := posted }
        let g := g.setS 47 b.save
        let g := g.modFrag fid (fun f => { f with clause := none, wait := .none, aged := false })
        { g with tlevel := n, nextFid := g.nextFid + 1
                 frags := g.frags ++ [{ fid := g.nextFid, mask := f.mask, hdr := e, level := n, age := g.nextFid, last := s.clock }] })

/-- What a Mule instruction that may not run, or that would trap, does (R115). TVAL is the address of the instruction's word
inside a clause, and of the header at a header: the spec says only the program counter (log 58). -/
def State.muleStop (s : State) : State :=
  let pc := s.instrAddr
  (s.modCm (fun m => { m with ended := true, fault := none })).raise s.cur.gid cMule pc

/-! ### Fetch of a clause (R146) -/

/-- Why a fetch fails: the address of the first word, and its fate. -/
inductive FetchFail where
  | fault (va : Nat) (f : XFault)
  | dropped (va : Nat) (c : Option (Nat × Word64))
  | poison (va : Nat)
  /-- answers about a word's line are awaited (R360, R361) -/
  | busy (x : Xlat)
  deriving DecidableEq, Repr

/-- One code word (R5, R146). A store to code is seen by every fetch that comes after it: the model's choice, for the spec leaves
open at which clause boundary it is seen (log 3). -/
def State.fetchWord (s : State) (a : Who) (va : Nat) : Except FetchFail Nat :=
  let va := va % 2 ^ 57
  match s.translate a.fn a.ctx va .fetch a.place with
  | .error f => .error (.fault va f)
  | .ok x =>
    match s.fateAt a x va false with
    | .ok x => if s.lineBusy x 4 false then .error (.busy x) else if s.poisoned x.pa 4 then .error (.poison va) else .ok (s.rd x.pa 4)
    | .fault f => .error (.fault va f)
    | .dropped c => .error (.dropped va c)
    | _ => .error (.poison va)

def State.fetchWords (s : State) (a : Who) (va : Nat) : Nat → Except FetchFail (List Nat)
  | 0 => .ok []
  | n + 1 => match s.fetchWord a va with
    | .error e => .error e
    | .ok w => match s.fetchWords a (va + 4) n with
      | .error e => .error e
      | .ok l => .ok (w :: l)

/-- The header word and the COUNT words behind it. -/
def State.fetchClause (s : State) (a : Who) (hdr : Word64) : Except FetchFail (Nat × List Nat) :=
  match s.fetchWord a hdr.toNat with
  | .error e => .error e
  | .ok h => match s.fetchWords a (hdr.toNat + 4) (fld h 28 4) with
    | .error e => .error e
    | .ok l => .ok (h, l)

/-- The lines of `n` code words have been read. -/
def State.noteFetch (s : State) (a : Who) (va n : Nat) : State :=
  (List.range n).foldl (fun (s : State) i => match s.translate a.fn a.ctx ((va + 4 * i) % 2 ^ 57) .fetch a.place with
    | .ok x => s.noteRead a.atHome x 4
    | .error _ => s) s

/-! ### Returning from a trap (R198, R319, R322) -/

/-- The state at which a handler level is left: s47, the level, the trapped fragment's wait. -/
def Group.leaveLevel (g : Group) : Group :=
  let n := g.tlevel
  { (g.setS 47 (g.bank n).spill).setBank n { g.bank n with posted := none } with tlevel := n - 1 }

/-- Where `TRET.next` resumes: word 0 of the header, the next instruction, or the next clause (R198). The clause is read for
that. -/
def State.afterInstr (s : State) (a : Who) (hdr : Word64) (widx : Nat) (atHdr : Bool) : Except FetchFail (Word64 × Nat) :=
  if atHdr then .ok (hdr, 0)
  else (s.fetchClause a hdr).map fun (h, words) =>
    let size := instrWords (words.getD widx 0)
    let nIns := fld h 28 4 - fld h 8 2
    let transfer := match decodeWords (words.getD widx 0) (words.getD (widx + 1) 0) with
      | .ok i => i.isTransfer
      | .error _ => false
    if transfer || decide (nIns ≤ widx + size) then (va57 (hdr.toNat + 4 * (fld h 28 4 + 1)), 0) else (hdr, widx + size)

/-- The clause that a `TRET.next` reads cannot be fetched: a fault holds the TRET until the driver answers, as any fetch; other
failures trap there (R146, R198, log 57). -/
def State.retFail (s : State) : FetchFail → Stop
  | .fault va f => let (t, k) := s.postFault s.cw.who va f; .hold t (.fault k.1 k.2 (n64 va) none)
  | .dropped va c => .trap s ((c.map Prod.fst).getD cTranslation) (n64 va) none none
  | .poison va => .trap (s.notePoison s.cw.who va) cPoison (n64 va) none none
  | .busy x => .hold (s.askFor x 4 false) .snoop

/-- TRET of the issuing fragment at its level. -/
def State.trapReturn (s : State) (next : Bool) : Exec :=
  let g := s.cg
  let f := s.cf
  let n := g.tlevel
  if n = 0 then trapAt s cPriv s.instrAddr
  else if g.frags.any (fun h => h.level == n && h.fid ≠ f.fid) || f.pendingTop ≠ .none then
    trapAt s cJoin (match f.pendingTop with
      | .join j => j.addr
      | .level l => l.recon
      | .none => 0)
  else
    let b := g.bank n
    let r := b.ret.toNat
    let addr := fld r 0 57
    let widx := fld r 60 4
    let atHdr := bitN r 59
    if addr % 4 ≠ 0 ∨ (atHdr ∧ widx ≠ 0) then trapAt s cMisaligned b.ret
    else if !next && fld b.cause.toNat 0 8 = cTranslation && bitN b.cause.toNat 9 && b.posted.isSome then
      -- tag 0: the driver declined the access
      if b.posted.map Prod.snd = some 0 then .ok (s.killDomain s.cw.ctx s.cw.fdom 7 n 0 0 0) else holdOn s .driver
    else
      let hdr := if atHdr then n64 addr else va57 (addr + 2 ^ 57 - 4 * (widx + 1))
      match if next then s.afterInstr s.cw.who hdr widx atHdr else .ok (hdr, widx) with
      | .error e => .error (s.retFail e)
      | .ok (h, k) =>
        .ok ((s.modCg (fun g =>
          let g := g.leaveLevel
          { g with frags := (g.frags.filter (fun q => q.fid ≠ f.fid)).map (fun q =>
              if q.fid = b.frag then
                { q with hdr := h, widx := k, clause := none, wait := .none, arrived := if h = q.hdr ∧ k ≤ q.widx then q.arrived else none }
              else q) })).growCheck s.cur.gid)

/-! ### Ending threads (R185, R319) -/

/-- Threads end: they leave every fragment and every parked path of the group, handlers' trapped fragments too. -/
def Group.endThreads (g : Group) (m : BitVec 32) : Group :=
  let g := { g with frags := g.frags.filterMap (fun (f : Frag) =>
    let f : Frag := { f with mask := f.mask &&& ~~~m, serial := f.serial.map (fun (l : SLevel) => { l with oMask := l.oMask &&& ~~~m }) }
    f.afterExit 17) }
  g.fuseAll 8

/-- Levels whose handler fragments have all ended are left, and the stopped fragments go on (R319, log 21). -/
def Group.leaveEmpty (g : Group) : Nat → Group
  | 0 => g
  | k + 1 => if 0 < g.tlevel ∧ !(g.frags.any (fun f => f.level == g.tlevel)) then g.leaveLevel.leaveEmpty k else g

/-! ### Issuing -/

/-- Is there a fragment, or a Mule, that issues this instruction? -/
def State.hasIssuer (s : State) : Bool :=
  match s.group? s.cur.gid with
  | none => false
  | some g =>
    if s.cur.mule then (match g.mule with
      | some m => !m.ended && m.clause.isSome
      | none => false)
    else (match g.frag? s.cur.fid with
      | some f => !g.stopped f && f.clause.isSome
      | none => false)

/-- Scalar register operand that a Mule may name (R115). -/
def muleReg : Sel → Bool
  | .s i => i.val < 32
  | .lit | .zero => true
  | .v i => i.val == 0  -- the unused field of a one-source form
  | _ => false
def muleIdx : SIdx → Bool
  | some i => i.val < 32
  | none => true

/-- May an ahead slice use the instruction (R115)? -/
def muleOk : Instr → Bool
  | .sadd f | .ssub f | .smul f | .smulhs f | .smulhu f | .sdivs f | .sdivu f | .srems f | .sremu f
  | .smins f | .sminu f | .smaxs f | .smaxu f | .sand f | .sor f | .sxor f | .sandn f | .sshl f | .sshr f
  | .ssra f | .srol f | .spopc f | .sclz f | .sctz f | .sbrev f | .sbfx f | .sbfxs f | .sbfi f | .smov f
  | .sseq f | .ssne f | .sslts f | .ssltu f | .ssles f | .ssleu f =>
    muleReg f.sa && muleReg f.sb && (match f.sd with
      | .s i => i.val < 32
      | _ => true)
  | .bra _ | .exit _ => true
  | .brs f | .brz f => f.bcond.toNat < 0xC0 + 32
  | .call f => f.bcond.toNat < 32
  | .ret f => muleIdx f.sa
  | .ldu f => muleReg f.addr && (match f.vd with
      | .s i => i.val < 32
      | .q _ => true
      | _ => false)
  | _ => false

/-- Streams and queues that the instruction reads or writes as operands (R48, R116). -/
def operandSels (i : Instr) : List Sel := match i with
  | .stbind f | .stsave f => [f.addr]
  | j => j.sels

/-- Instructions that a true execution of an approximable region must not issue, whatever their operands (R131, R209,
R267). -/
def impureKind : Instr → Bool
  | .st _ | .stg _ | .sts _ | .stt _ | .stl _ | .stsave _ | .mapset _ | .mapflush _ | .mapclr _
  | .aadd _ | .amin _ | .amax _ | .aand _ | .aor _ | .axor _ | .axchg _ | .acas _
  | .radd _ | .rmin _ | .rmax _ | .rand _ | .ror _ | .rxor _ | .boinit _
  | .cpy _ | .cpych _ | .cpyrel _ | .spqfill _ | .twcpy _ | .subscr _ | .slotrel _ | .twflip _ | .twset _ | .twclr _
  | .clrpois _ | .clinv _ | .qcreate _ | .qpush _ | .qpop _ | .bar _ | .bargang _ | .boarv _ | .spawn _
  | .call _ | .exit _ | .apxb _ | .apxinv _ | .cvts _ | .crwr _
  | .mma _ | .mmas _ | .dmma _ | .accclr _ | .accrd _ | .accwr _ | .accmv _
  | .hldSlot _ | .hldField _ | .hstSlot _ | .hstField _ | .hfld _ | .hstr _ | .hpin _ | .hunpin _ | .htnull _ | .hteq _
  | .hmovRef _ | .hmovToRef _ | .hmovFromRef _ => true
  | .cvt f => f.rnd == .rs
  | _ => false
/-- The same, with a stream or queue among the operands (R267). -/
def isImpure (i : Instr) : Bool :=
  impureKind i || (operandSels i).any (fun x => match x with
    | .w _ | .q _ => true
    | _ => false)

/-- The advance of one stream register (R48): dimension `d` of `n` and the flags so far. -/
def advanceDims (ndim : Nat) : Nat → Nat → List Dim → BitVec 4 → List Dim × BitVec 4
  | 0, _, l, f => (l, f)
  | fuel + 1, d, l, f =>
    match l with
    | [] => ([], f)
    | x :: r =>
      let i := x.idx + 1
      if i ≠ x.cnt then ({ x with idx := i } :: r, f)
      else
        let f := f ||| BitVec.twoPow 4 d
        if d = ndim then ({ x with idx := 0 } :: r, f)
        else
          let (r', f') := advanceDims ndim fuel (d + 1) r f
          ({ x with idx := 0 } :: r', f')
def Stream.advance (w : Stream) : Stream :=
  let (l, f) := advanceDims w.ndim.toNat 4 0 w.dims 0
  { w with dims := l, flags := f, ahead := w.ahead.drop 1 }

/-- Every stream named advances once and every queue named is popped once (R48, R116, R244). -/
def Group.commitOperands (g : Group) (l : List Sel) : Group :=
  let ws := (l.filterMap (fun x => match x with
    | .w i => some i.val
    | _ => none)).eraseDups
  let qs := (l.filterMap (fun x => match x with
    | .q i => some i.val
    | _ => none)).eraseDups
  let g := if ws.isEmpty then g
    else { g with streams := ws.foldl (fun l i => l.set i (Stream.advance (l.getD i {}))) g.streams }
  if qs.isEmpty then g else { g with queues := qs.foldl (fun l i => l.set i ((l.getD i []).drop 1)) g.queues }

/-- The instruction completes: operands are committed and the issuer moves on. -/
def State.retire (s : State) (i : Instr) : State :=
  let s := if s.cur.mule then s else s.modCg (fun g => g.commitOperands (operandSels i))
  s.advance (instrSize i)

/-- A hold: the fragment waits; a Mule that meets a translation fault keeps its record (R115). -/
def State.holdIssuer (s : State) (w : Wait) : State :=
  if s.cur.mule then
    s.modCm (fun m => { m with fault := match w with
      | .fault fn tag _ _ => some (fn, tag)
      | _ => none })
  else s.modCf (fun f => { f with wait := w })

/-- How a stop ends the issue. -/
def Stop.apply (i : Instr) : Stop → State
  | .trap t code tval thr posted =>
    if t.cur.mule then t.muleStop else t.takeTrap t.cur.gid t.cur.fid code tval thr false false posted
  | .hold t w => t.holdIssuer w
  | .skip t c => (t.raiseOpt t.cur.gid c).retire i

/-- The checks that come before every meaning: a Mule's instructions (R115), word legality (R148), purity of an open
region (R131). -/
def State.issueCheck (i : Instr) (s : State) : Exec :=
  if s.cur.mule && !muleOk i then trapAt s cMule 0
  else if !(i.wf && i.litsOk s.cur.lits) then trapAt s cIllegal s.instrAddr
  else if i.isPriv && !s.cw.priv then trapAt s cPriv s.instrAddr
  else if isImpure i && s.cg.apx.isSome && !s.cur.mule then trapAt s cApx s.instrAddr
  else .ok s

/-- Issue of an instruction whose effect is `body` and which then moves on to the next word. -/
def issue (i : Instr) (s : State) (body : State → Exec) : Host.Outcome State Fault Refusal :=
  if s.hasIssuer then
    .next (match s.issueCheck i with
      | .error e => e.apply i
      | .ok s => match body s with
        | .ok t => t.retire i
        | .error e => e.apply i)
  else .fault .noIssuer

/-- Issue of an instruction that sets its issuer's next position itself. -/
def issueTransfer (i : Instr) (s : State) (body : State → Exec) : Host.Outcome State Fault Refusal :=
  if s.hasIssuer then
    .next (match s.issueCheck i with
      | .error e => e.apply i
      | .ok s => match body s with
        | .ok t => t
        | .error e => e.apply i)
  else .fault .noIssuer

/-! ### Faults of an access by the issuer (R208, R321) -/

/-- A translation fault of an access that must hold: at trap level 0 the record is posted and the issuer held; at level 1
or 2 the group takes TRANSLATION_FAULT with the fault posted (R321). -/
def State.faultStop (s : State) (va : Nat) (f : XFault) (thr : Option Nat) : Stop :=
  let (t, k) := s.postFault s.cw.who va f
  if s.cg.tlevel = 0 ∨ s.cur.mule then .hold t (.fault k.1 k.2 (n64 va) thr) else .trap t cTranslation (n64 va) thr (some k)

/-- The stop of an access whose fate is not a performed access. A read that is poisoned takes DATA_POISON. -/
def State.fateStop (s : State) (va : Nat) : Fate → Stop
  | .fault f => s.faultStop va f none
  | .conf => .trap s cConf (n64 va) none none
  | .peerConf => .skip s (some (cConf, n64 va))
  | .poison | .reject => .trap (s.notePoison s.cw.who va) cPoison (n64 va) none none
  | .silent => .skip s none
  | .dropped c => .skip s c
  | .ok _ => .skip s none

def State.blockedStop (s : State) : Blocked → Stop
  | .fault va f => s.faultStop va f none
  | .dropped c => .skip s c
  | .lines x n isW => .hold (s.askFor x n isW) .snoop
  | .full => .hold s .full

end Sys2Proof.Machine
end

