-- ==== Sys2Proof/Machine/Access.lean ====
section
/-! DEFINITION. Memory accesses of the issuing group's threads: address forms and checks (R205), loads (R209, R211), stores and
the side log (R82, R83, R214), counters (R51). -/

namespace Sys2Proof.Machine

/-- How an effective address is resolved (R205). -/
inductive Mode where
  | generic
  | global
  | window
  deriving DecidableEq, Repr

/-- The place an address names; none takes ADDRESS_RANGE. A window address is an offset of any size. -/
def placeOf (m : Mode) (ea : Word64) : Option Where := match m with
  | .generic => resolveGeneric ea
  | .global => if isGlobal ea then some (.glob ea) else none
  | .window => some (.win ea.toNat)

/-- One thread's access. -/
structure Ea where
  t : Nat
  ea : Word64
  deriving DecidableEq, Repr

/-- The first thread of a list, with the value it shows. -/
def firstBad (l : List Ea) (p : Ea → Option Word64) : Option (Nat × Word64) :=
  firstSome (fun e => (p e).map (fun v => (e.t, v))) l

/-- The checks of R205, kind by kind over all threads: ADDRESS_RANGE, SCRATCH_RANGE (with a read-only map, R44),
MISALIGNED, HEAP_PIN, for which the page words are read. `l` is in ascending thread order; `pinned` drops the last check (heap
accesses). -/
def State.addressCheck (s : State) (m : Mode) (l : List Ea) (align : Nat) (isW pinned : Bool) : Exec :=
  let w := s.cw
  match firstBad l (fun e => if (placeOf m e.ea).isNone then some e.ea else none) with
  | some (t, v) => trapThr s cAddress v t
  | none =>
  match firstBad l (fun e => match placeOf m e.ea with
      | some (.win o) => if w.winSize ≤ o || (isW && w.readOnly o) then some (n64 o) else none
      | _ => none) with
  | some (t, v) => trapThr s cScratch v t
  | none =>
  match firstBad l (fun e => if e.ea.toNat % align ≠ 0 then some e.ea else none) with
  | some (t, v) => trapThr s cMisaligned v t
  | none =>
  match firstSome (fun e => match placeOf m e.ea with
      | some (.glob a) => if pinned then none else s.pinBusy w.who a.toNat isW
      | _ => none) l with
  | some t => holdOn t .snoop
  | none =>
  match firstBad l (fun e => match placeOf m e.ea with
      | some (.glob a) => if !pinned && s.pinFails w.who a.toNat isW then some e.ea else none
      | _ => none) with
  | some (t, v) => trapThr s cHeapPin v t
  | none => .ok s

/-- Fates of the global accesses, by thread. -/
def State.fates (s : State) (m : Mode) (l : List Ea) (isW : Bool) : List (Ea × Fate) :=
  l.filterMap (fun e => match placeOf m e.ea with
    | some (.glob a) => some (e, s.fate s.cw.who a.toNat isW)
    | _ => none)

/-- Does the offset lie in an EMPTY block of a map? -/
def Workgroup.emptyAt (w : Workgroup) (o : Nat) : Bool := match w.mapAt o with
  | some (_, m, b) => m.blocks.getD b .clean == .empty
  | none => false

/-- Fill the map blocks that the window accesses touch; a fill counts on the scratchpad path (R44). -/
def State.touchAll (s : State) (m : Mode) (l : List Ea) : Exec :=
  foldE (fun s e => match placeOf m e.ea with
    | some (.win o) => match s.touchBlock s.me s.cg.wid o with
      | .ok t => .ok t
      | .error b => .error (s.blockedStop b)
    | _ => .ok s) s l

/-- The map fill that a window access needs: the address of its block (R44). -/
def Workgroup.fillVa (w : Workgroup) (o : Nat) : Option Nat := match w.mapAt o with
  | some (_, m, b) => if m.blocks.getD b .clean == .empty then some (m.gbase.toNat + 2048 * b) else none
  | none => none

/-- An operation that holds a dropped access is dropped whole, before anything can hold it or trap it (R370, R375). -/
def State.dropTest (s : State) (m : Mode) (isW : Bool) (l : List Ea) : Exec :=
  let f (e : Ea) : Option (Nat × Bool) := match placeOf m e.ea with
    | some (.glob a) => some (a.toNat, isW)
    | some (.win o) => (s.cw.fillVa o).map (fun a => (a, false))
    | _ => none
  match firstSome (fun e => (f e).bind (fun x => match s.fate s.cw.who x.1 x.2 with
      | .dropped c => some c
      | _ => none)) l with
  | some c => .error (.skip s c)
  | none => .ok s

/-- The first back-invalidation that an access needs (R361). -/
def State.snoopHold (s : State) (n : Nat) (isW : Bool) (l : List (Ea × Fate)) : Exec :=
  let busy := l.filterMap (fun e => match e.2 with
    | .ok x => if s.snoopBusy x.pa n isW then some x.pa else none
    | _ => none)
  if busy.isEmpty then .ok s else holdOn (busy.foldl (fun s pa => s.sendSnoops pa n isW) s) .snoop

/-- A write that acts at once, and does not wait in flight as a store does, holds until the home of each remote line has
granted M (R360). -/
def State.ownHold (s : State) (n : Nat) (l : List (Ea × Fate)) : Exec :=
  let busy := l.filterMap (fun e => match e.2 with
    | .ok x => if s.needsM x n then some x else none
    | _ => none)
  if busy.isEmpty then .ok s else holdOn (busy.foldl (fun s x => s.askLines x n) s) .snoop

/-- What accesses await of expanders: the expander, the address, CLOCK (R376). -/
def State.extOf (s : State) (l : List (Ea × Fate)) : List (Nat × Word64 × Word64) :=
  l.filterMap (fun e => match e.2 with
    | .ok x => if s.onExpander x.pa then some (expanderOf x.pa, e.1.ea, s.clock) else none
    | _ => none)
/-- What loads at a list of addresses await. -/
def State.loadExt (s : State) (m : Mode) (l : List Ea) : List (Nat × Word64 × Word64) := s.extOf (s.fates m l false)

/-- A path's counter has room for one operation more (R51). -/
def State.counterRoom (s : State) (path : Nat) : Exec := if s.cg.inflight path < 63 then .ok s else holdOn s .full

/-- A release waits for the side log: for every entry of the group, those of its other fragments among them (R84, log 34). -/
def State.releaseWait (s : State) (rel : Bool) : Exec := if rel && !s.cg.sideLog.isEmpty then holdOn s .sideLog else .ok s

def isRel (o : Ord) : Bool := o == .rel || o == .ar

/-- Holds that the fates of a read give, in the order of R205 and R370: a dropped access drops the operation whole, a
translation fault holds. The lowest thread counts. -/
def State.readFates (s : State) (l : List (Ea × Fate)) : Exec :=
  match firstSome (fun e => match e.2 with
      | .dropped c => some c
      | _ => none) l with
  | some c => .error (.skip s c)
  | none =>
  match firstSome (fun e => match e.2 with
      | .fault f => some (e.1, f)
      | _ => none) l with
  | some (e, f) => .error (s.faultStop e.ea.toNat f (some e.t))
  | none => .ok s

/-- DATA_POISON of the lowest thread whose bytes carry the mark (R209). -/
def State.poisonCheck (s : State) (m : Mode) (n : Nat) (l : List Ea) : Exec :=
  match l.find? (fun e => match placeOf m e.ea with
      | some (.win o) => s.cw.winPoisoned o n
      | some (.glob a) => match s.fate s.cw.who a.toNat false with
        | .poison | .reject => true
        | .ok x => s.poisoned x.pa n
        | _ => false
      | _ => false) with
  | some e =>
    let t := match placeOf m e.ea with
      | some (.glob a) => s.notePoison s.cw.who a.toNat
      | _ => s
    .error (.trap t cPoison e.ea (some e.t) none)
  | none => .ok s

/-- Bytes that one thread reads, after the checks. -/
def State.readAt (s : State) (m : Mode) (n : Nat) (ea : Word64) : List Byte :=
  match placeOf m ea with
  | some (.win o) => s.cw.winN o n
  | some (.glob a) => match s.fate s.cw.who a.toNat false with
    | .ok x => s.rdN x.pa n
    | _ => List.replicate n 0
  | _ => List.replicate n 0

/-- Directory and remote state of the lines read. -/
def State.noteReads (s : State) (n : Nat) (l : List (Ea × Fate)) : State :=
  l.foldl (fun s e => match e.2 with
    | .ok x => s.noteRead s.cw.who x n
    | _ => s) s

/-- The loads of the active threads: all checks, then one value per thread (R205, R209, R211). At trap levels 1 and 2 a fault traps,
before the side log can hold anything (R321). -/
def State.loadThreads (s : State) (m : Mode) (n align : Nat) (pinned : Bool) (l : List Ea) : Except Stop (State × List (Nat × List Byte)) :=
  (s.addressCheck m l align false pinned).bind fun s =>
  (s.dropTest m false l).bind fun s =>
  (if s.cg.tlevel = 0 then .ok s else s.readFates (s.fates m l false)).bind fun s =>
  if l.any (fun e => match placeOf m e.ea with
      | some (.glob a) => s.cg.loggedByte a.toNat n
      | _ => false) then holdOn s .sideLog
  else
  (s.touchAll m l).bind fun s =>
  let fs := s.fates m l false
  (s.readFates fs).bind fun s =>
  (s.snoopHold n false fs).bind fun s =>
  (s.poisonCheck m n l).bind fun s =>
  .ok (s.noteReads n fs, l.map (fun e => (e.t, s.readAt m n e.ea)))

/-! ### Stores -/

/-- A store of one thread: its bytes go to `ea`. -/
structure St where
  t : Nat
  ea : Word64
  data : List Byte
  deriving DecidableEq, Repr

def St.toEa (x : St) : Ea := ⟨x.t, x.ea⟩

/-- Does stage 1 show the page to be managed, whatever the fault (R82)? -/
def State.knownManaged (s : State) (a : Who) (va : Nat) : Bool :=
  let blk := s.ctxBlock a.fn a.ctx
  let b0 := s.rd blk 8
  let rd (gpa : Nat) : Except XFault Nat := match s.stage2 (s.machOf a.fn) gpa .read with
    | .error f => .error f
    | .ok t => .ok (s.rd t.pa 8)
  bitN b0 0 && (match walk rd (va % 2 ^ 57) 9 true .read 0 4 (fld b0 12 40 * 2 ^ 12) with
    | .ok (e, _, _) => bitN e 6
    | .error _ => false)

/-- Add bytes to the entry of their line, or open a new one; bytes of a later thread replace those of an earlier one. -/
def addEntry (line : Nat) (bytes : List (Nat × Byte)) (mk : LogEntry) : List LogEntry → List LogEntry
  | [] => [{ mk with line := BitVec.ofNat 50 line, bytes := bytes }]
  | e :: l =>
    if e.line.toNat = line then
      { e with bytes := e.bytes.filter (fun b => !(bytes.any (fun c => c.1 == b.1))) ++ bytes } :: l
    else e :: addEntry line bytes mk l

/-- Bytes of a store, by place in its line. -/
def lineBytes (va : Nat) (d : List Byte) : List (Nat × Byte) := (List.range d.length).map (fun i => (va % 128 + i, d.getD i 0))

/-- A plain store entry of R82. -/
def storeEntry (scope : Nat) (clear : Bool) : LogEntry :=
  { seq := 0, line := 0, bytes := [], op := 0, ty := 0, scope := scope, clear := clear }

/-- The fates of the global writes of an instruction, by thread in ascending order, after the dirty-log records that they
need: a ring that one of them fills holds those on other pages that come after it (R345, R347). -/
def State.claimWrites (s : State) (m : Mode) (l : List Ea) : State × List (Ea × Fate) :=
  l.foldl (fun (r : State × List (Ea × Fate)) e => match placeOf m e.ea with
    | some (.glob a) =>
      let f := r.1.fate s.cw.who a.toNat true
      (match f with
        | .ok x => r.1.logDirty s.cw.who x
        | _ => r.1, r.2 ++ [(e, f)])
    | _ => r) (s, [])
def fateOf (l : List (Ea × Fate)) (t : Nat) : Option Fate := (l.find? (fun e => e.1.t == t)).map Prod.snd

/-- Does a write to a managed page find its line in the log? It never enters the log, but waits for the entry (R82, R83,
R210). -/
def State.mustWait (s : State) (l : List (Ea × Fate)) : Bool :=
  l.any (fun e => s.cg.logged (e.1.ea.toNat / 128) && (match e.2 with
    | .ok x => x.mg
    | _ => false))

/-- Does the store go to the log: its walk faults, or the log holds an entry of the group for its line (R82, R83)? -/
def State.mustLog (s : State) (va : Nat) (f : Fate) : Bool :=
  s.cg.logged (va / 128) || (match f with
    | .fault _ => true
    | _ => false)

/-- Put store entries into the log of the issuing group; each faulting line's record is posted (R82, R343). -/
def State.logEntries (s : State) (l : List LogEntry) : State :=
  l.foldl (fun s e =>
    let va := e.line.toNat * 128
    let (s, tag) := match s.fate s.cw.who va true with
      | .fault f => let (t, k) := s.postFault s.cw.who va f; (t, some k)
      | _ => (s, none)
    s.modCg (fun g => g.logAll [{ e with tag := tag }])) s

/-- What the fates of a write stop on, lowest thread first: a dropped access (R370), a fault that may not be logged,
CONF_STORE, a rejected request. -/
def State.writeFates (s : State) (l : List (Ea × Fate)) (mayLog : Bool) : Exec :=
  match firstSome (fun e => match e.2 with
      | .dropped c => some c
      | _ => none) l with
  | some c => .error (.skip s c)
  | none =>
  match firstSome (fun e => match e.2 with
      | .fault f => if !mayLog || s.cg.tlevel ≠ 0 || s.knownManaged s.cw.who e.1.ea.toNat then some (e.1, f) else none
      | _ => none) l with
  | some (e, f) => .error (s.faultStop e.ea.toNat f (some e.t))
  | none =>
  match firstSome (fun e => match e.2 with
      | .conf => some e.1
      | _ => none) l with
  | some e => trapThr s cConf e.ea e.t
  | none =>
  match firstSome (fun e => match e.2 with
      | .reject => some e.1
      | _ => none) l with
  | some e => trapThr (s.notePoison s.cw.who e.ea.toNat) cPoison e.ea e.t
  | none => .ok s

/-- All that can stop the writes of an instruction, and then their dirty-log records: one that a full ring holds leaves the
records before it (R345, R347). `atOnce` waits for M of remote lines too. -/
def State.writeClaims (s : State) (m : Mode) (n : Nat) (atOnce mayLog : Bool) (l : List Ea) : Except Stop (State × List (Ea × Fate)) :=
  let fs := s.fates m l true
  (s.writeFates fs mayLog).bind fun s =>
  (s.snoopHold n true fs).bind fun s =>
  (if atOnce then s.ownHold n fs else .ok s).bind fun s =>
  let (d, fs) := s.claimWrites m l
  (d.writeFates fs mayLog).map fun d => (d, fs)

/-- What the bytes of a store hold before it, by generic address (R76). -/
def State.oldBytes (s : State) (m : Mode) (x : St) (f : Option Fate) : List (Nat × Byte) :=
  match placeOf m x.ea, f with
  | some (.win o), _ => (List.range x.data.length).map (fun i => (0xFE * 2 ^ 56 + o + i, s.cw.winByte (o + i)))
  | some (.glob a), some (.ok y) => (List.range x.data.length).map (fun i => (a.toNat + i, s.rd8 (y.pa + i)))
  | _, _ => []

/-- The store of one thread with the fate of its access, once nothing stops it. -/
def State.storeOne (s : State) (m : Mode) (clear : Bool) (x : St) (f : Option Fate) : State :=
  match placeOf m x.ea, f with
  | some (.win o), _ => s.modCw (fun w => w.storeWin o x.data)
  | some (.glob _), some (.ok y) => if clear then s.performLine s.cw.who y x.data else s.performWrite s.cw.who y x.data
  | some (.glob _), some .peerConf => s.raise s.cur.gid cConf x.ea
  | _, _ => s

/-- The stores of the active threads, in the order in which the lane visits them (R64): all checks, then the side log,
then the writes; one operation is counted on `path` (R51). -/
def State.storeThreads (s : State) (m : Mode) (align scope path : Nat) (clear pinned mayLog : Bool) (l : List St) : Exec :=
  let asc := (List.range 32).filterMap (fun t => (l.find? (fun x => x.t == t)).map St.toEa)
  let n := (l.head?.map (fun x => x.data.length)).getD 1
  (s.addressCheck m asc align true pinned).bind fun s =>
  (s.dropTest m true asc).bind fun s =>
  (s.touchAll m asc).bind fun s =>
  (s.counterRoom path).bind fun s =>
  (s.writeClaims m n false mayLog asc).bind fun (s, fs) =>
  let logged := l.filter (fun x => fs.any (fun e => e.1.t == x.t && s.mustLog x.ea.toNat e.2))
  let entries := logged.foldl (fun es x => addEntry (x.ea.toNat / 128) (lineBytes x.ea.toNat x.data) (storeEntry scope clear) es) []
  if s.mustWait fs || (!entries.isEmpty && !mayLog) || decide (s.sideFree s.cw.place < entries.length) then holdOn s .sideLog
  else
    let now := l.filter (fun x => !logged.any (fun y => y.t == x.t))
    let t := (now.foldl (fun s x => s.storeOne m clear x (fateOf fs x.t)) s).logEntries entries
    let lines := (fs.filterMap (fun e => match e.2 with
      | .ok x => some (t.waitingLines x.pa n)
      | _ => none)).flatten
    let old := (now.map (fun x => s.oldBytes m x (fateOf fs x.t))).flatten
    .ok (t.modCg (fun g => g.fly { path := path, kind := .store, lines := lines, old := old, ext := s.extOf fs }))

end Sys2Proof.Machine
end

