-- ==== Sys2Proof/Machine/Float.lean ====
section
/-! DEFINITION. Floating-point values, formats and rounding (R90 to R95). Values are exact: (-1)^s × m × 2^e. Bit patterns
are natural numbers. -/

namespace Sys2Proof.Machine

/-- A floating-point value. -/
inductive FVal where
  | nan
  | inf (s : Bool)
  | fin (s : Bool) (m : Nat) (e : Int)
  deriving DecidableEq, Repr

/-- A format (R90). `hasInf` is false for E4M3 and E2M1, `hasNan` for E2M1. -/
structure FFmt where
  ew : Nat
  mw : Nat
  bias : Int
  hasInf : Bool
  hasNan : Bool
  canonical : Nat
  deriving DecidableEq, Repr

def fmt64 : FFmt := ⟨11, 52, 1023, true, true, 0x7FF8000000000000⟩
def fmt32 : FFmt := ⟨8, 23, 127, true, true, 0x7FC00000⟩
def fmt16 : FFmt := ⟨5, 10, 15, true, true, 0x7E00⟩
def fmtBf : FFmt := ⟨8, 7, 127, true, true, 0x7FC0⟩
def fmtE5 : FFmt := ⟨5, 2, 15, true, true, 0x7E⟩
def fmtE4 : FFmt := ⟨4, 3, 7, false, true, 0x7F⟩
def fmtE2 : FFmt := ⟨2, 1, 1, false, false, 0⟩

/-- The format of a floating-point TYPE. -/
def ffmt : Ty → FFmt
  | .f64 => fmt64
  | .f16 => fmt16
  | .bf16 => fmtBf
  | .e5m2 => fmtE5
  | .e4m3 => fmtE4
  | .e2m1 => fmtE2
  | _ => fmt32

/-- The largest finite magnitude: its code. -/
def FFmt.maxCode (f : FFmt) : Nat :=
  if f.hasInf then (2 ^ f.ew - 1) * 2 ^ f.mw - 1
  else if f.hasNan then 2 ^ (f.ew + f.mw) - 2
  else 2 ^ (f.ew + f.mw) - 1

/-- The value of a code (R90). -/
def FFmt.decode (f : FFmt) (x : Nat) : FVal :=
  let s := bitN x (f.ew + f.mw)
  let e := fld x f.mw f.ew
  let m := fld x 0 f.mw
  if f.hasInf && e == 2 ^ f.ew - 1 then (if m = 0 then .inf s else .nan)
  else if !f.hasInf && f.hasNan && e == 2 ^ f.ew - 1 && m == 2 ^ f.mw - 1 then .nan
  else if e = 0 then .fin s m (1 - f.bias - f.mw)
  else .fin s (2 ^ f.mw + m) ((e : Int) - f.bias - f.mw)

/-- Number of bits of a magnitude. -/
def bitLen (m : Nat) : Nat := if m = 0 then 0 else Nat.log2 m + 1

/-- m × 2^k for an integer k, floored. -/
def shiftInt (m : Nat) (k : Int) : Nat := if k < 0 then m / 2 ^ (-k).toNat else m * 2 ^ k.toNat

/-- Round the magnitude m × 2^e to a multiple of 2^q in a mode; `neg` is the sign and `r` the drawn bits s[15:0] of R93.
The count of units is returned. -/
def roundUnits (mode : Rnd) (neg : Bool) (r : Nat) (m : Nat) (e q : Int) : Nat :=
  if q ≤ e then m * 2 ^ (e - q).toNat
  else
    let k := (q - e).toNat
    let t := m / 2 ^ k
    let lo := m % 2 ^ k
    let up := match mode with
      | .rne => decide (2 ^ k < 2 * lo) || (2 * lo == 2 ^ k && t % 2 == 1)
      | .rz => false
      | .rd => neg && lo != 0
      | .ru => !neg && lo != 0
      | .rs => decide (2 ^ 16 ≤ lo * 2 ^ 16 / 2 ^ k + r)
    if up then t + 1 else t

/-- Exponent of the unit in the last place at `p` bits of precision, not below `qmin`. -/
def ulpExp (p : Nat) (qmin : Option Int) (m : Nat) (e : Int) : Int :=
  let q := e + bitLen m - p
  match qmin with
  | some z => max q z
  | none => q

/-- Code of a magnitude u × 2^q that the format represents exactly, without its sign. -/
def FFmt.codeOf (f : FFmt) (u : Nat) (q : Int) : Nat :=
  let emin : Int := 1 - f.bias - f.mw
  -- in units of the smallest subnormal
  if u = 0 then 0
  else
    let top := q + bitLen u - 1
    if top < 1 - f.bias then shiftInt u (q - emin)
    else
      let frac := shiftInt u (q - (top - f.mw))
      (top + f.bias).toNat * 2 ^ f.mw + (frac - 2 ^ f.mw)

def FFmt.signBit (f : FFmt) (s : Bool) : Nat := if s then 2 ^ (f.ew + f.mw) else 0
def FFmt.infCode (f : FFmt) : Nat := (2 ^ f.ew - 1) * 2 ^ f.mw

/-- Is u × 2^q above the largest finite value? -/
def FFmt.above (f : FFmt) (u : Nat) (q : Int) : Bool :=
  match f.decode f.maxCode with
  | .fin _ m e => let z := min q e; decide (m * 2 ^ (e - z).toNat < u * 2 ^ (q - z).toNat)
  | _ => false

/-- Does a mode turn an overflow of this sign into an infinity (R94, R95)? -/
def toInf (mode : Rnd) (s : Bool) : Bool := match mode with
  | .rne => true
  | .rs => true
  | .rz => false
  | .rd => s
  | .ru => !s

/-- Rounding to binary32 or binary64 with subnormals (R95). -/
def FFmt.roundWide (f : FFmt) (mode : Rnd) (r : Nat) : FVal → Nat
  | .nan => f.canonical
  | .inf s => f.signBit s + f.infCode
  | .fin s m e =>
    let q := ulpExp (f.mw + 1) (some (1 - f.bias - f.mw)) m e
    let u := roundUnits mode s r m e q
    if f.above u q then f.signBit s + (if toInf mode s then f.infCode else f.maxCode) else f.signBit s + f.codeOf u q

/-- Rounding to a format of R94: unbounded exponent, then overflow and flush. -/
def FFmt.roundNarrow (f : FFmt) (mode : Rnd) (r : Nat) : FVal → Nat
  | .nan => f.canonical
  | .inf s => f.signBit s + (if f.hasInf && toInf mode s then f.infCode else f.maxCode)
  | .fin s m e =>
    let q := ulpExp (f.mw + 1) none m e
    let u := roundUnits mode s r m e q
    if f.above u q then f.signBit s + (if f.hasInf && toInf mode s then f.infCode else f.maxCode)
    else if u ≠ 0 ∧ q + bitLen u - 1 < 1 - f.bias then
      if !f.hasNan && u * 2 ^ (q + 64).toNat == 2 ^ 63 then f.signBit s + 1 else f.signBit s
    else f.signBit s + f.codeOf u q

/-- Conversion of an exact value to a floating-point TYPE (R94, R95). -/
def convTo (ty : Ty) (mode : Rnd) (r : Nat) (v : FVal) : Nat := match ty with
  | .f64 | .f32 => (ffmt ty).roundWide mode r v
  | _ => (ffmt ty).roundNarrow mode r v

/-- Round to binary32 precision with an unbounded exponent (R94). -/
def round24 : FVal → FVal
  | .fin s m e => let q := ulpExp 24 none m e; .fin s (roundUnits .rne s 0 m e q) q
  | v => v

/-- The result of vector arithmetic in a TYPE: one rounding to nearest even; 16-bit types are rounded to binary32
precision first (R92, R94, R95). -/
def arithTo (ty : Ty) (v : FVal) : Nat := match ty with
  | .f64 | .f32 => (ffmt ty).roundWide .rne 0 v
  | _ => (ffmt ty).roundNarrow .rne 0 (round24 v)

def decTy (ty : Ty) (x : Nat) : FVal := (ffmt ty).decode x

/-! ### Exact arithmetic -/

def FVal.neg : FVal → FVal
  | .nan => .nan
  | .inf s => .inf (!s)
  | .fin s m e => .fin (!s) m e
def FVal.abs : FVal → FVal
  | .nan => .nan
  | .inf _ => .inf false
  | .fin _ m e => .fin false m e
def FVal.isNan : FVal → Bool
  | .nan => true
  | _ => false
def FVal.isZero : FVal → Bool
  | .fin _ 0 _ => true
  | _ => false
def FVal.sign : FVal → Bool
  | .nan => false
  | .inf s => s
  | .fin s _ _ => s

/-- The signed integer count of units 2^z of a finite value with z ≤ e. -/
def unitsAt (s : Bool) (m : Nat) (e z : Int) : Int :=
  let u : Int := (m * 2 ^ (e - z).toNat : Nat)
  if s then -u else u

def FVal.add : FVal → FVal → FVal
  | .nan, _ => .nan
  | _, .nan => .nan
  | .inf s, .inf t => if s = t then .inf s else .nan
  | .inf s, _ => .inf s
  | _, .inf t => .inf t
  | .fin s m e, .fin t n d =>
    let z := min e d
    let u := unitsAt s m e z + unitsAt t n d z
    if u = 0 then .fin (s && t) 0 z else .fin (decide (u < 0)) u.natAbs z

def FVal.mul : FVal → FVal → FVal
  | .nan, _ => .nan
  | _, .nan => .nan
  | .inf s, .inf t => .inf (s != t)
  | .inf s, .fin t n _ => if n = 0 then .nan else .inf (s != t)
  | .fin s m _, .inf t => if m = 0 then .nan else .inf (s != t)
  | .fin s m e, .fin t n d => .fin (s != t) (m * n) (e + d)

/-- A quotient with enough bits, and a last bit that tells whether more follow. -/
def FVal.div : FVal → FVal → FVal
  | .nan, _ => .nan
  | _, .nan => .nan
  | .inf _, .inf _ => .nan
  | .inf s, .fin t _ _ => .inf (s != t)
  | .fin s _ _, .inf t => .fin (s != t) 0 0
  | .fin s m e, .fin t n d =>
    if n = 0 then (if m = 0 then .nan else .inf (s != t))
    else
      let k := 70 + bitLen n
      let q := m * 2 ^ k / n
      .fin (s != t) (2 * q + b2n (m * 2 ^ k % n ≠ 0)) (e - d - k - 1)

/-- Integer square root, bit by bit. -/
def isqrt (n : Nat) : Nat → Nat → Nat
  | 0, r => r
  | k + 1, r => isqrt n k (if (r + 2 ^ k) * (r + 2 ^ k) ≤ n then r + 2 ^ k else r)

def FVal.sqrt : FVal → FVal
  | .nan => .nan
  | .inf s => if s then .nan else .inf false
  | .fin s m e =>
    if m = 0 then .fin s 0 0
    else if s then .nan
    else
      let odd := e % 2 = 1
      let m' := (if odd then 2 * m else m) * 2 ^ 140
      let e' := (if odd then e - 1 else e) - 140
      let r := isqrt m' ((bitLen m' + 1) / 2 + 1) 0
      .fin false (2 * r + b2n (r * r ≠ m')) (e' / 2 - 1)

/-- Order of values that are not NaN; zeros are equal (R91). -/
def FVal.lt : FVal → FVal → Bool
  | .nan, _ => false
  | _, .nan => false
  | .inf s, .inf t => s && !t
  | .inf s, _ => s
  | _, .inf t => !t
  | .fin s m e, .fin t n d => let z := min e d; decide (unitsAt s m e z < unitsAt t n d z)
def FVal.eq (a b : FVal) : Bool := !a.isNan && !b.isNan && !a.lt b && !b.lt a

/-- Minimum and maximum: which of two operands (R91); `none` when both are NaN. -/
def pickFirst (isMax : Bool) (a b : FVal) : Option Bool :=
  if a.isNan && b.isNan then none
  else if a.isNan then some false
  else if b.isNan then some true
  else if a.lt b then some !isMax
  else if b.lt a then some isMax
  else if a.isZero then some (if isMax then !a.sign else a.sign)
  else some true

/-- Round to an integral value in a mode. -/
def FVal.rint (mode : Rnd) (r : Nat) : FVal → FVal
  | .fin s m e => .fin s (roundUnits mode s r m e 0) 0
  | v => v

/-- To an integer, in a mode, saturating to a range; NaN gives 0 (R95). -/
def FVal.toIntSat (mode : Rnd) (r : Nat) (lo hi : Int) : FVal → Int
  | .nan => 0
  | .inf s => if s then lo else hi
  | .fin s m e =>
    let u : Int := roundUnits mode s r m e 0
    max lo (min hi (if s then -u else u))

/-- An integer as an exact value. -/
def ofIntF (i : Int) : FVal := .fin (decide (i < 0)) i.natAbs 0

/-- One step of the generator of R93: the next state. -/
def srNext (s : BitVec 32) : BitVec 32 :=
  let b := s.getLsbD 0
  let s := s >>> 1
  let s := if b then s ^^^ 0x80200003 else s
  if s = 0 then 1 else s
/-- The bits s[15:0] that a draw uses. -/
def srBits (s : BitVec 32) : Nat := s.toNat % 2 ^ 16

/-- The binary64 code of a binary32 literal (R164). -/
def f32to64 (x : Nat) : Nat := fmt64.roundWide .rne 0 (fmt32.decode x)

end Sys2Proof.Machine
end

