-- ==== Sys2Proof/Machine/Operands.lean ====
section
/-! DEFINITION. Operand forms (R161 to R164): registers, scalars, streams (R47 to R50), queues (R116), literals, zero, the
thread index; destinations; the frame of a vector instruction (R243, R244) and of a scalar one (R173). -/

namespace Sys2Proof.Machine

/-- An operand made ready for reading. -/
inductive Opnd where
  | reg (i : Nat)
  | const (x : Word64)
  | elems (l : List Word64)
  | tid
  deriving DecidableEq, Repr

/-- A source field: its place among the instruction's selectors, the selector, the type it is read as. -/
structure Src where
  pos : Nat
  sel : Sel
  ty : Ty
  deriving DecidableEq, Repr

/-- Number of the literal occurrence at place `pos` (R141). -/
def litIndex (l : List Sel) (pos : Nat) : Nat := ((l.take pos).filter (· == .lit)).length
def State.litWord (s : State) (i : Instr) (pos : Nat) : Word32 := s.cur.lits.getD (litIndex i.sels pos) 0

/-- A literal read under a type (R164). -/
def litValue (ty : Ty) (x : Word32) : Word64 := match ty with
  | .i64 => x.signExtend 64
  | .f64 => n64 (f32to64 x.toNat)
  | _ => x.setWidth 64

/-! ### Register ranges (R33) -/

/-- REGISTER_RANGE where one of `n` vector registers from a selector lies at or above 16V. -/
def State.rangeCheck (s : State) (x : Sel) (n : Nat) : Exec := match x with
  | .v i => if 16 * s.cg.vside < i.val + n then trapAt s cRegister (n64 x.enc) else .ok s
  | _ => .ok s

def regCount (ty : Ty) : Nat := if ty.is64 then 2 else 1

/-! ### Streams -/

/-- The element address of a thread (R48). -/
def Stream.addr (w : Stream) (t : Nat) : Nat :=
  let dims := w.dims.take (w.ndim.toNat + 1)
  let sum : Int := dims.foldl (fun a d => a + d.idx.toNat * d.stride.toInt) (w.base.toNat : Int)
  ((sum + t * w.tstride.toInt) % (2 ^ 57 : Nat)).toNat
def Stream.size (w : Stream) : Nat := 2 ^ w.esize.toNat
def Stream.mode (w : Stream) : Mode := if w.space then .window else .global

def State.stream (s : State) (i : Nat) : Stream := s.cg.streams.getD i {}
/-- STREAM_STATE unless the stream is bound and of the direction (R49). -/
def State.streamCheck (s : State) (i : Nat) (isWrite : Bool) : Exec :=
  let w := s.stream i
  if !w.bound || w.dir != isWrite then trapAt s cStream (n64 (0xF0 + i)) else .ok s

/-- An element of `n` bytes as a 64-bit value, extended by the type that reads it. -/
def extendElem (ty : Ty) (l : List Byte) : Word64 :=
  let x := leNat l
  if ty.isSigned then w64 (sx (8 * l.length) x) else n64 x

/-- The elements that the threads of `ts` read (R48, R50). Elements fetched ahead are used as they are; an access dropped
under R370 reads as zero. -/
def State.streamRead (s : State) (i : Nat) (ty : Ty) (ts : List Nat) : Except Stop (State × List Word64) :=
  let w := s.stream i
  (s.streamCheck i false).bind fun s =>
  match w.ahead with
  | x :: _ => .ok (s, (List.range 32).map (fun t => extendElem ty (leBytes w.size (x.getD t 0).toNat)))
  | [] =>
    let all := ts.map (fun t => (⟨t, n64 (w.addr t)⟩ : Ea))
    (s.addressCheck w.mode all w.size false false).bind fun s =>
    let gone := (s.fates w.mode all false).filterMap (fun e => match e.2 with
      | .dropped c => some (e.1, c)
      | _ => none)
    let l := all.filter (fun e => !gone.any (fun d => d.1.t == e.t))
    (s.loadThreads w.mode w.size w.size false l).bind fun (s, vs) =>
    let s := gone.foldl (fun s d => s.raiseOpt s.cur.gid d.2) s
    .ok (s, (List.range 32).map (fun t => match vs.find? (fun v => v.1 == t) with
      | some v => extendElem ty v.2
      | none => 0))

/-! ### Queues (R116) -/

def State.queue (s : State) (i : Nat) : List Word64 := s.cg.queues.getD i []
/-- A queue operand that is empty holds the fragment, or traps where no Mule will push. -/
def State.queueCheck (s : State) (x : Sel) : Exec := match x with
  | .q i =>
    if (s.queue i.val).isEmpty then
      (if s.cm.ended then trapAt s cMuleEmpty (n64 x.enc) else holdOn s .supply)
    else .ok s
  | _ => .ok s

/-- Make one source ready. -/
def State.prep (s : State) (i : Instr) (ts : List Nat) (x : Src) : Except Stop (State × Opnd) := match x.sel with
  | .v r => .ok (s, .reg r.val)
  | .s r => .ok (s, .const (s.sreg r.val))
  | .w r => (s.streamRead r.val x.ty ts).map fun (s, l) => (s, .elems l)
  | .q r => .ok (s, .const ((s.queue r.val).headD 0))
  | .lit => .ok (s, .const (litValue x.ty (s.litWord i x.pos)))
  | .zero => .ok (s, .const 0)
  | .tid => .ok (s, .tid)
  | .bad => trapAt s cIllegal s.instrAddr

/-- Make all sources ready: register ranges, then queues in field order, then streams (R244). -/
def State.prepAll (s : State) (i : Instr) (ts : List Nat) (l : List Src) : Except Stop (State × List Opnd) :=
  (foldE (fun s x => s.rangeCheck x.sel (regCount x.ty)) s l).bind fun s =>
  (foldE (fun s x => s.queueCheck x.sel) s l).bind fun s =>
  foldE (fun (a : State × List Opnd) x => (a.1.prep i ts x).map fun (s, o) => (s, a.2 ++ [o])) (s, []) l

/-- The bits a thread reads from an operand of a type, as a number below 2^width. -/
def Opnd.read (o : Opnd) (g : Group) (ty : Ty) (t : Nat) : Nat :=
  let x : Nat := match o with
    | .reg i => if ty.is64 then (g.vpair i t).toNat else (g.vreg i t).toNat
    | .const x => x.toNat
    | .elems l => (l.getD t 0).toNat
    | .tid => t
  x % 2 ^ ty.width

/-! ### Results and destinations -/

/-- A result of `ty` as it stands in a register: integers extended, floating-point codes zero-extended (R243). -/
def packTy (ty : Ty) (x : Nat) : Word64 := if ty.isSigned then w64 (sx ty.width x) else n64 (x % 2 ^ ty.width)

/-- Checks of a per-thread destination: its registers, or a bound write stream. -/
def State.dstCheck (s : State) (x : Sel) (n : Nat) : Exec := match x with
  | .w i => s.streamCheck i.val true
  | _ => s.rangeCheck x n

/-- Write a vector register or a pair in the threads of a list. -/
def Group.putV (g : Group) (r : Nat) (is64 : Bool) (l : List (Nat × Word64)) : Group :=
  l.foldl (fun g e => if is64 then g.setVpair r e.1 e.2 else g.setV r e.1 (e.2.setWidth 32)) g

/-- Write the results of the active threads (R162, R243, R244). A write stream stores its elements on path 4 at
`.dev`. -/
def State.writeDst (s : State) (x : Sel) (is64 : Bool) (l : List (Nat × Word64)) : Exec := match x with
  | .v r => .ok (s.modCg (fun g => g.putV r.val is64 l))
  | .w i =>
    let w := s.stream i.val
    s.storeThreads w.mode w.size 5 4 false false true (l.map (fun e => ⟨e.1, n64 (w.addr e.1), leBytes w.size e.2.toNat⟩))
  | _ => .ok s

/-- The frame of a vector instruction (R243): `srcs` are read by every active thread as numbers, `f` gives a thread's
result as a register holds it. Threads are taken in the lane's order. -/
def vecBody (i : Instr) (g : Guard) (vd : Sel) (dstTy : Ty) (srcs : List Src) (f : State → Nat → List Nat → Word64) (s : State) : Exec :=
  (s.dstCheck vd (regCount dstTy)).bind fun s =>
  let m := s.gmask g
  (s.prepAll i (threads m) srcs).bind fun (s, os) =>
  let vals := (s.visit m).map (fun t => (t, f s t (List.zipWith (fun (o : Opnd) (x : Src) => o.read s.cg x.ty t) os srcs)))
  s.writeDst vd dstTy.is64 vals

/-- Sources SA, SB, SC of format V, read as one type. -/
def srcA (f : FmtV) (ty : Ty) : Src := ⟨1, f.sa, ty⟩
def srcB (f : FmtV) (ty : Ty) : Src := ⟨2, f.sb, ty⟩
def srcC (f : FmtV) (ty : Ty) : Src := ⟨3, f.sc, ty⟩

/-! ### Scalar instructions (R173) -/

/-- The 64-bit value of a scalar source; `ty` is `.i64` in the signed class and `.n64` otherwise. -/
def Opnd.value : Opnd → Word64
  | .reg _ => 0
  | .const x => x
  | .elems l => l.getD 0 0
  | .tid => 0

/-- Write SD (R152): a scalar register, nothing, or a push in a Mule, which a full queue holds. -/
def State.writeSD (s : State) (d : UDst) (x : Word64) : Exec := match d with
  | .s r => .ok (s.setS r.val x)
  | .discard => .ok s
  | .q r =>
    if s.cur.mule then
      (if (s.queue r.val).length < 16 then .ok (s.modCg (fun g => { g with queues := g.queues.set r.val (g.queues.getD r.val [] ++ [x]) }))
       else holdOn s .supply)
    else trapAt s cIllegal s.instrAddr

/-- A queue destination is a push that only a Mule makes (R173). -/
def State.sdCheck (s : State) : UDst → Exec
  | .q _ => if s.cur.mule then .ok s else trapAt s cIllegal s.instrAddr
  | _ => .ok s

/-- The frame of a format U instruction: the sources are read, SD is written (R173). `one` marks a one-source form. -/
def scalarBody (i : Instr) (f : FmtU) (signed one : Bool) (op : State → Word64 → Word64 → Except Stop Word64) (s : State) : Exec :=
  let ty := if signed then Ty.i64 else Ty.n64
  let srcs : List Src := if one then [⟨0, f.sa, ty⟩] else [⟨0, f.sa, ty⟩, ⟨1, f.sb, ty⟩]
  (s.sdCheck f.sd).bind fun s =>
  (s.prepAll i [0] srcs).bind fun (s, os) =>
  (op s (os.getD 0 (.const 0)).value (os.getD 1 (.const 0)).value).bind fun x =>
  s.writeSD f.sd x

end Sys2Proof.Machine
end

