-- ==== Sys2Proof/Machine/Flags.lean ====
section
/-! DEFINITION. Predicates as flags (R249): comparison conditions, classes, truth tables, writing a predicate. -/

namespace Sys2Proof.Machine

/-- The outcome of comparing two numbers. -/
inductive Cmp where
  | lt
  | eq
  | gt
  | un
  deriving DecidableEq, Repr

/-- The condition code of AUX[6:3] (R168): EQ NE LT LE GT GE UN ORD. Unordered operands pass NE and UN only. -/
def condHolds (cond : Nat) (c : Cmp) : Bool := match cond with
  | 0 => c == .eq
  | 1 => c != .eq
  | 2 => c == .lt
  | 3 => c == .lt || c == .eq
  | 4 => c == .gt
  | 5 => c == .gt || c == .eq
  | 6 => c == .un
  | _ => c != .un

/-- Integer comparison at a type's width and signedness. -/
def cmpInt (ty : Ty) (a b : Nat) : Cmp :=
  let x : Int := if ty.isSigned then sx ty.width a else a
  let y : Int := if ty.isSigned then sx ty.width b else b
  if x < y then .lt else if x = y then .eq else .gt

/-- Floating-point comparison (R91). -/
def cmpFloat (ty : Ty) (a b : Nat) : Cmp :=
  let x := decTy ty a
  let y := decTy ty b
  if x.isNan || y.isNan then .un else if x.lt y then .lt else if y.lt x then .gt else .eq

/-- The class bit of R168: 3 zero, 4 subnormal, 5 normal, 6 infinite, 7 NaN. -/
def classBit (ty : Ty) (a : Nat) : Nat := match decTy ty a with
  | .nan => 7
  | .inf _ => 6
  | .fin _ m e =>
    let f := ffmt ty
    if m = 0 then 3 else if e + bitLen m - 1 < 1 - f.bias then 4 else 5

/-- Write predicate `p` in the listed threads. -/
def State.writePred (s : State) (p : Nat) (m : BitVec 32) (l : List (Nat × Bool)) : State :=
  s.modCg (fun g => g.setPred p m (maskOf ((l.filter (·.2)).map (·.1))))

/-- The frame of an instruction that writes a predicate from per-thread sources. -/
def predBody (i : Instr) (g : Guard) (pd : Nat) (srcs : List Src) (f : State → Nat → List Nat → Bool) (s : State) : Exec :=
  let m := s.gmask g
  (s.prepAll i (threads m) srcs).bind fun (s, os) =>
  let l := (threads m).map (fun t => (t, f s t (List.zipWith (fun (o : Opnd) (x : Src) => o.read s.cg x.ty t) os srcs)))
  .ok (s.writePred pd m l)

end Sys2Proof.Machine
end

