-- ==== Sys2Proof/Machine/Maps.lean ====
section
/-! DEFINITION. Write-back of scratchpad map blocks (R44, R217), which MAPFLUSH, MAPCLR and the last EXIT of a workgroup
share. -/

namespace Sys2Proof.Machine

/-- Write one DIRTY block back: 16 line stores of the issuing group at device scope, counted on path 1; faulting lines go
to the side log (R44, R82). -/
def State.flushBlock (s : State) (k : Nat) (m : WMap) (b : Nat) : Exec :=
  let off := 2048 * (m.wblk + b)
  let va (l : Nat) : Nat := m.gbase.toNat + 2048 * b + 128 * l
  let who := s.cw.who
  let fs := (List.range 16).map (fun l => ((⟨l, n64 (va l)⟩ : Ea), s.fate who (va l) true))
  match (List.range 16).find? (fun l => s.pinFails who (va l) true) with
  | some l => trapAt s cHeapPin (n64 (va l))
  | none =>
  match firstSome (fun e => match e.2 with
      | .fault f => if s.cg.tlevel ≠ 0 || s.knownManaged who e.1.ea.toNat then some (e.1.ea, f) else none
      | _ => none) fs with
  | some (a, f) => .error (s.faultStop a.toNat f none)
  | none =>
  match fs.find? (fun e => e.2 == .conf) with
  | some e => trapAt s cConf e.1.ea
  | none =>
  if 47 < s.cg.inflight 1 then holdOn s .full
  else
    (s.snoopHold 128 true fs).bind fun s =>
    let logged := fs.filter (fun e => s.mustLog e.1.ea.toNat e.2)
    if s.mustWait fs || decide (s.sideFree s.cw.place < logged.length) then holdOn s .sideLog
    else
      let data (l : Nat) : List Byte := s.cw.winN (off + 128 * l) 128
      let t := fs.foldl (fun t e =>
        if logged.any (fun x => x.1.t == e.1.t) then t
        else match e.2 with
          | .ok x => t.performWrite who x (data e.1.t)
          | .peerConf => t.raise t.cur.gid cConf e.1.ea
          | .dropped c => t.raiseOpt t.cur.gid c
          | .reject => (t.notePoison who e.1.ea.toNat).raise t.cur.gid cPoison e.1.ea
          | _ => t) s
      let t := t.logEntries (logged.foldl (fun es e =>
        addEntry (e.1.ea.toNat / 128) (lineBytes e.1.ea.toNat (data e.1.t)) (storeEntry 5 false) es) [])
      let waits := fs.map (fun e => match e.2 with
        | .ok x => (t.waitingLines x.pa 128, if logged.any (fun x => x.1.t == e.1.t) then [] else s.oldBytes .global ⟨e.1.t, e.1.ea, data e.1.t⟩ (some e.2))
        | _ => ([], []))
      let t := t.modCg (fun g => waits.foldl (fun (g : Group) l => g.fly { path := 1, kind := .store, lines := l.1, old := l.2 }) g)
      .ok (t.modCw (fun w => w.setBlock k m b .clean))

/-- Write back every DIRTY block of a map, ascending; the state as far as it came is held (R208, R217). -/
def State.flushMap (s : State) (k : Nat) : Exec :=
  foldE (fun (s : State) b => match SMap.get none s.cw.maps k with
    | some m => if m.blocks.getD b .clean = .dirty then s.flushBlock k m b else .ok s
    | none => .ok s) s (List.range 256)

/-- Write back every map of the workgroup (R44). -/
def State.flushMaps (s : State) : Exec := foldE (fun s k => s.flushMap k) s [0, 1, 2, 3]

end Sys2Proof.Machine
end

