-- ==== Sys2Proof/Machine/Control.lean ====
section
/-! DEFINITION. Reaching a clause (R139 to R149), branches and calls (R178 to R182), the end of threads (R185), barriers
and waits (R189 to R192), and the register pool (R193, R194). -/

namespace Sys2Proof.Machine

/-! ### CLAUSE_FETCH -/

/-- Arrivals at pending reconvergence addresses, one after another while the fragment stands at one (R22, R23, R181). -/
def Frag.arriveAll (f : Frag) : Nat → Frag
  | 0 => f
  | n + 1 => if f.wait = .none ∧ f.widx = 0 ∧ f.atRecon then f.arriveStep.arriveAll n else f

/-- The deferred cause with the lowest code is taken (R320). -/
def State.takeDeferred (s : State) (code : Nat) (tval : Word64) : State :=
  (s.modCg (fun g => { g with pending := SMap.erase g.pending code })).takeTrap s.cur.gid s.cur.fid code tval none true true none

/-- Are the counter waits of a header met (R142)? -/
def Group.waitsMet (g : Group) (h : Header) : Bool :=
  (h.w1p == 7 || decide (g.inflight h.w1p ≤ h.w1t)) && (h.w2p == 7 || decide (g.inflight h.w2p ≤ h.w2t))

/-- Every store whose performance the group still awaits (R123). -/
def Group.storesDone (g : Group) : Bool := g.flights.all (fun f => f.kind != .store || f.lines.isEmpty)

/-- The group adopts its context's colour; the last one to do so ends the change (R123, R307). -/
def State.adopt (s : State) : State :=
  (s.modCg (fun g => { g with good := s.ctxGood s.cw.ctx, prev := s.ctxPrev s.cw.ctx })).colourEnd s.cw.ctx

/-- A trap taken at the clause header by the issuing fragment (R147). -/
def State.headerTrap (s : State) (code : Nat) (tval : Word64) : State :=
  s.takeTrap s.cur.gid s.cur.fid code tval none true false none

/-- A clause that passes the decode is entered: at its counter waits, or at the word where it was left (R142, R149). A word index that a
handler has put past the clause goes on at the next clause, and one inside an instruction takes ILLEGAL_ENCODING at the header: the
model's choice, for R149 speaks of neither (log 63). -/
def State.enterClause (s : State) (c : Clause) : State :=
  let f := s.cf
  if c.nIns ≤ f.widx then s.modCf (fun f => { f with hdr := nextHdr f.hdr c, widx := 0, wait := .none, arrived := none })
  else if !startsAt c.words f.widx 16 0 then s.headerTrap cIllegal f.hdr
  else if f.widx = 0 ∧ !s.cg.waitsMet c.hdr then s.modCf (fun f => { f with wait := .counter })
  else s.modCf (fun f => { f with clause := some c, wait := .none })

/-- Fetch and decode by a fragment (R146, R147). -/
def State.fetchFrag (s : State) : State :=
  let f := s.cf
  match s.fetchClause s.cw.who f.hdr with
  | .error (.fault va x) =>
    let (t, k) := s.postFault { s.cw.who with ctx := s.cw.ctx } va x
    t.modCf (fun f => { f with wait := .fault k.1 k.2 (n64 va) none })
  | .error (.dropped va c) => s.raiseOpt s.cur.gid (c.map (fun e => (e.1, n64 va)))
  | .error (.poison va) => (s.notePoison s.cw.who va).headerTrap cPoison (n64 va)
  | .error (.busy x) => (s.askFor x 4 false).modCf (fun f => { f with wait := .snoop })
  | .ok (h, words) =>
    let s := s.noteFetch s.cw.who f.hdr.toNat (words.length + 1)
    match decodeClause h words s.cg.role s.cw.priv s.cg.tlevel with
    | .ok c => s.enterClause c
    | .error .header => s.headerTrap cIllegal f.hdr
    | .error .role => s.headerTrap cRole f.hdr
    | .error (.word k) => s.headerTrap cIllegal (wordAddr f.hdr k)
    | .error (.priv k) => s.headerTrap cPriv (wordAddr f.hdr k)

/-- A fragment reaches a clause header: reconvergence, then a pending cause, then a colour change, then the fetch. -/
def State.reachClause (s : State) : State :=
  let f := s.cf
  if f.widx = 0 ∧ f.atRecon then (s.modCg (fun g => (g.modFrag f.fid (fun f => f.arriveAll 34)).fuseAll 8)).growCheck s.cur.gid
  else
    match f.widx, s.cg.pending with
    | 0, (code, some tval) :: _ => s.takeDeferred code tval
    | _, _ =>
      if f.widx = 0 ∧ s.cg.good ≠ s.ctxGood s.cw.ctx then
        (if s.cg.storesDone then s.adopt else s.modCf (fun f => { f with wait := .counter }))
      else s.fetchFrag

/-- A Mule that cannot go on stops, with its program counter (R115). -/
def State.muleHalt (s : State) : State :=
  (s.modCm (fun m => { m with ended := true, fault := none })).raise s.cur.gid cMule s.cm.hdr

/-- A Mule reaches a clause header (R115). The header's counter waits hold it as they hold its group, whose counters they name
(R51, R142). -/
def State.reachMule (s : State) : State :=
  let m := s.cm
  match s.fetchClause s.cw.who m.hdr with
  | .error (.fault va x) =>
    let (t, k) := s.postFault s.cw.who va x
    t.modCm (fun m => { m with fault := some k })
  | .error (.poison va) => (s.rejectTaken s.cw.who va).muleHalt
  | .error (.dropped _ _) => s.muleHalt
  | .error (.busy x) => s.askFor x 4 false
  | .ok (h, words) =>
    let s := s.noteFetch s.cw.who m.hdr.toNat (words.length + 1)
    match decodeClause h words .none s.cw.priv 1 true with
    | .ok c =>
      if c.nIns ≤ m.widx then s.modCm (fun m => m.goto (nextHdr m.hdr c))
      else if m.widx = 0 ∧ !s.cg.waitsMet c.hdr then s.modCm (fun m => { m with counter := true })
      else s.modCm (fun m => { m with clause := some c, counter := false })
    | .error _ => s.muleHalt

/-- Is there a fragment or Mule that stands at a clause header? -/
def State.hasFetcher (s : State) : Bool :=
  match s.group? s.cur.gid with
  | none => false
  | some g =>
    if s.cur.mule then (match g.mule with
      | some m => !m.ended && m.clause.isNone
      | none => false)
    else (match g.frag? s.cur.fid with
      | some f => !g.stopped f && f.clause.isNone && !(f.wait == .fuse)
      | none => false)

/-- `CLAUSE_FETCH` (R139 to R149). -/
def execClauseFetch (s : State) : Host.Outcome State Fault Refusal :=
  if s.hasFetcher then .next (if s.cur.mule then s.reachMule else s.reachClause) else .fault .noIssuer

/-! ### Branches -/

/-- The target H + 4 × TOFF (R159, R178). -/
def State.target (s : State) (f : FmtCB) : Word64 := va57 ((s.curHdr.toNat : Int) + 4 * f.toff.toInt % (2 ^ 57 : Nat)).toNat
/-- The reconvergence address H + 4 × ROFF (R159). -/
def State.reconAddr (s : State) (f : FmtCB) : Word64 := va57 ((s.curHdr.toNat : Int) + 4 * f.roff.toInt % (2 ^ 57 : Nat)).toNat

/-- A branch that the whole fragment takes; one that goes backward is a swap point (R22). -/
def State.branchTo (s : State) (f : FmtCB) : State :=
  let s' := s.goto (s.target f)
  if !s.cur.mule && decide (f.toff.toInt ≤ 0) then s'.modCf Frag.swapPoint else s'

/-- The split of a divergent BRA: the fall-through threads keep the fragment, the taken ones form a new one (R21, R179). -/
def State.split (s : State) (f : FmtCB) (t : BitVec 32) : State :=
  let j : Join := ⟨s.nextId, s.reconAddr f, s.cf.depth⟩
  let next := s.nextClause
  let target := s.target f
  { s with nextId := s.nextId + 1 }.modCg (fun g =>
    let o := g.frag s.cur.fid
    let fresh : Frag := { fid := g.nextFid, mask := t, hdr := target, depth := o.depth, joins := j :: o.joins, level := o.level, age := g.nextFid, last := o.last }
    let g := g.modFrag s.cur.fid (fun f => { f.goto next with mask := f.mask &&& ~~~t, joins := j :: f.joins })
    { g with frags := g.frags ++ [fresh], nextFid := g.nextFid + 1 })

/-- Serial divergence: the fall-through threads run first (R22). -/
def State.serialSplit (s : State) (f : FmtCB) (t : BitVec 32) : State :=
  let next := s.nextClause
  let l : SLevel := { id := s.nextId, recon := s.reconAddr f, depth := s.cf.depth, oMask := t, oHdr := s.target f, oWidx := 0
                      oDepth := s.cf.depth, oState := .running, oChain := [], jbase := s.cf.joins.length }
  { s with nextId := s.nextId + 1 }.modCf (fun f =>
    { f.goto next with mask := f.mask &&& ~~~t, serial := f.serial ++ [l], chain := f.chain ++ [l.id] })

/-- `BRA` (R179). -/
def braBody (f : FmtCB) (s : State) : Exec :=
  if s.cur.mule then .ok (if s.muleGuard f.g then s.branchTo f else s.goto s.nextClause)
  else
    let m := s.cf.mask
    let t := s.gmask f.g
    if t = m then .ok (s.branchTo f)
    else if t = 0 then .ok (s.goto s.nextClause)
    else if s.splitAllowed s.cg then .ok (s.split f t)
    else if 16 ≤ s.cf.chain.length then trapAt s cSplit 0
    else .ok (s.serialSplit f t)
def execBra (f : FmtCB) (s : State) : Host.Outcome State Fault Refusal := issueTransfer (.bra f) s (braBody f)

/-- A branch on state of the whole fragment (R180). -/
def branchIf (f : FmtCB) (c : Bool) (s : State) : State := if c then s.branchTo f else s.goto s.nextClause

/-- The scalar register that BRS and BRZ test. -/
def State.branchReg (s : State) (f : FmtCB) : Word64 := s.sreg (f.bcond.toNat - 0xC0)

/-- `BRS`: branch if the scalar register is not zero (R180). -/
def execBrs (f : FmtCB) (s : State) : Host.Outcome State Fault Refusal :=
  issueTransfer (.brs f) s (fun s => .ok (branchIf f (s.branchReg f != 0) s))
/-- `BRZ`: branch if the scalar register is zero (R180). -/
def execBrz (f : FmtCB) (s : State) : Host.Outcome State Fault Refusal :=
  issueTransfer (.brz f) s (fun s => .ok (branchIf f (s.branchReg f == 0) s))

/-- The end-of-dimension flag that BCOND names; an unbound stream traps (R180). -/
def State.eodFlag (s : State) (f : FmtCB) : Except Stop Bool :=
  let n := fld f.bcond.toNat 5 3
  let d := fld f.bcond.toNat 3 2
  let w := s.stream n
  if !w.bound then trapAt s cStream (n64 (0xF0 + n)) else .ok (decide (d ≤ w.ndim.toNat) && w.flags.getLsbD d)

/-- `BREOD` (R180). -/
def execBreod (f : FmtCB) (s : State) : Host.Outcome State Fault Refusal :=
  issueTransfer (.breod f) s (fun s => (s.eodFlag f).map (fun b => branchIf f b s))
/-- `BRNEOD` (R180). -/
def execBrneod (f : FmtCB) (s : State) : Host.Outcome State Fault Refusal :=
  issueTransfer (.brneod f) s (fun s => (s.eodFlag f).map (fun b => branchIf f (!b) s))

/-- Call depth of the issuer (R181). -/
def State.depth (s : State) : BitVec 16 := if s.cur.mule then s.cm.depth else s.cf.depth
def State.setDepth (s : State) (d : BitVec 16) : State :=
  if s.cur.mule then s.modCm (fun m => { m with depth := d }) else s.modCf (fun f => { f with depth := d })

/-- `CALL` (R181, R182). -/
def callBody (f : FmtCB) (s : State) : Exec :=
  if s.depth = BitVec.allOnes 16 then trapAt s cSplit 0xFFFF
  else .ok (((s.setS (f.bcond.toNat % 64) s.nextClause).setDepth (s.depth + 1)).goto (s.target f))
def execCall (f : FmtCB) (s : State) : Host.Outcome State Fault Refusal := issueTransfer (.call f) s (callBody f)

/-- The reconvergence opened at the fragment's current depth, if it is the innermost pending one (R181). -/
def State.escapes (s : State) : Option Word64 :=
  if s.cur.mule then none
  else match s.cf.pendingTop with
    | .join j => if j.depth = s.cf.depth then some j.addr else none
    | .level l => if l.depth = s.cf.depth then some l.recon else none
    | .none => none

/-- `RET` (R181, R182); the check of JOIN_ESCAPE comes first. -/
def retBody (f : FmtC) (s : State) : Exec :=
  let a := s.sregOr 0 f.sa
  match s.escapes with
  | some j => trapAt s cJoin j
  | none =>
    if !isGlobal a then trapAt s cAddress a
    else if a.toNat % 4 ≠ 0 then trapAt s cMisaligned a
    else .ok ((s.setDepth (if s.depth = 0 then 0 else s.depth - 1)).goto a)
def execRet (f : FmtC) (s : State) : Host.Outcome State Fault Refusal := issueTransfer (.ret f) s (retBody f)

/-! ### EXIT (R185) -/

/-- A group without threads keeps nothing but its granules and tiles. -/
def Group.close (g : Group) : Group :=
  if g.frags.isEmpty then { g with mule := none, queues := [[], [], [], []], spq := [], apx := none, pending := [], tlevel := 0 } else g

/-- Has every other group of the workgroup ended? -/
def State.lastGroup (s : State) : Bool := (s.groupsOf s.cg.wid).all (fun g => g.gid == s.cur.gid || g.frags.isEmpty)

/-- The threads of `sel` end; the others continue at the next clause. -/
def State.endNow (s : State) (sel : BitVec 32) : State :=
  let w := s.cw
  let t := (s.goto s.nextClause).modCg (fun g => ((g.endThreads sel).leaveEmpty 2).close)
  let t := if t.cg.frags.isEmpty then (if t.lastGroup then t.wgExit w.wid else t.colourEnd w.ctx) else t
  (t.settleAll w).growCheck s.cur.gid

/-- `EXIT` (R185); in a Mule it ends the Mule alone, where its guard selects it (R115, R151). -/
def exitBody (f : FmtC) (s : State) : Exec :=
  if s.cur.mule then .ok (if s.muleGuard f.g then s.modCm (fun m => { m with ended := true }) else s.goto s.nextClause)
  else
    let sel := s.gmask f.g
    let last := s.cg.liveMask &&& ~~~sel = 0
    if sel = 0 then .ok (s.goto s.nextClause)
    else if last then
      (s.releaseWait true).bind fun s =>
      (if s.lastGroup then s.flushMaps else .ok s).bind fun s =>
      (s.releaseWait true).bind fun s =>
      .ok (s.endNow sel)
    else .ok (s.endNow sel)
/-- `EXIT`. -/
def execExit (f : FmtC) (s : State) : Host.Outcome State Fault Refusal := issueTransfer (.exit f) s (exitBody f)

/-! ### Barriers -/

/-- The fragment waits at a barrier, or gives way to another path of its serial levels (R22). -/
def State.waitBar (s : State) (w : Wait) : State :=
  s.modCf (fun f => let f := { f with wait := w, arrived := some w }; (f.swap w).getD f)

/-- Arrival at a barrier (R189, R190): `arrive` adds threads to the instance, `settle` completes it when it is met. -/
def barBody (i : Instr) (w : Wait) (f : FmtC) (arrive : Nat → State → State) (settle : State → State) (s : State) : Exec :=
  let arv := bitN f.imm.toNat 4
  let sel := s.gmask f.g
  if !arv && s.cf.arrived == some w then .ok (s.waitBar w)
  else if !arv && s.cf.arrived == some .none then .ok ((s.modCf (fun f => { f with arrived := none })).retire i)
  else if sel = 0 then .ok (s.retire i)
  else
    (s.releaseWait true).bind fun s =>
    if arv then .ok (settle ((arrive (popcount sel) s).retire i))
    else
      let t := settle ((arrive (popcount s.cf.mask) s).modCf (fun f => { f with wait := w, arrived := some w }))
      .ok (if t.cf.wait = w then t.waitBar w else t)

/-- `BAR` (R26, R189). -/
def execBar (f : FmtC) (s : State) : Host.Outcome State Fault Refusal :=
  let n := f.imm.toNat % 16
  issueTransfer (.bar f) s (barBody (.bar f) (.bar n) f
    (fun k s => s.modCw (fun w => w.setBar n ((w.bar n).arrive k w.bwe s.clock))) (fun s => s.settleBar s.cg.wid n))

/-- `BARGANG` (R190). -/
def execBargang (f : FmtC) (s : State) : Host.Outcome State Fault Refusal :=
  let n := f.imm.toNat % 4
  issueTransfer (.bargang f) s (barBody (.bargang f) (.gang n) f
    (fun k s => let g := s.gang s.cw; s.setGang (g.setBar n ((g.bar n).arrive k s.cw.bwe s.clock)))
    (fun s => s.settleGang s.cw.rcb s.cw.gang n))

/-- A barrier's watchdog has expired: groups that wait at it take BARRIER_STALL there, the others at their next clause
boundary (R27, R190). -/
def State.stall (s : State) (w : Wait) (tval : Word64) (gids : List Nat) : State :=
  gids.foldl (fun s gid =>
    match (s.group gid).frags.find? (fun f => f.wait == w && !(s.group gid).stopped f) with
    | some f => s.takeTrap gid f.fid cStall tval none true true none
    | none => s.raise gid cStall tval) s

/-- The watchdog exponent's time has passed since the first arrival (R27). -/
def Barrier.expired (b : Barrier) (clock : Word64) : Bool := b.isOpen && !b.stalled && decide (2 ^ b.exp ≤ (clock - b.start).toNat)

/-- `BARRIER_WATCHDOG_EXPIRY` (R27). -/
def execBarrierWatchdogExpiry (wid bar : Nat) (s : State) : Host.Outcome State Fault Refusal :=
  let w := s.wg wid
  let b := w.bar bar
  .next (if (s.wg? wid).isSome && b.expired s.clock then
    (s.modWg wid (fun w => w.setBar bar { b with stalled := true })).stall (.bar bar) (n64 (bar % 16 + b.arrived % 4096 * 2 ^ 8))
      (((s.groupsOf wid).filter (fun g => !g.frags.isEmpty)).map (·.gid))
  else s)

/-- `GANG_BARRIER_WATCHDOG_EXPIRY` (R190). The count of a gang that is saved stands still (R28). -/
def execGangBarrierWatchdogExpiry (rcb gang bar : Nat) (s : State) : Host.Outcome State Fault Refusal :=
  let ms := s.gangMembers rcb gang
  .next (match s.gangs.find? (fun g => g.rcb == rcb && g.num == gang) with
    | some g =>
      let b := g.bar bar
      if !ms.isEmpty && b.expired s.clock then
        (s.setGang (g.setBar bar { b with stalled := true })).stall (.gang bar) (n64 (bar % 4 + 16 + b.arrived % 2 ^ 24 * 2 ^ 8))
          ((s.groups.filter (fun h => ms.contains h.wid && !h.frags.isEmpty)).map (·.gid))
      else s
    | none => s)

/-! ### WAIT, YIELD, NOP -/

/-- The threshold of WAIT (R191). -/
def State.waitThreshold (s : State) (f : FmtC) : Nat := min (s.sregOr 0 f.sa).toNat 63

/-- `WAIT` (R191); every WAIT is a swap point (R22). -/
def waitBody (f : FmtC) (s : State) : Exec :=
  if s.cg.inflight f.imm.toNat ≤ s.waitThreshold f then .ok ((s.retire (.wait f)).modCf Frag.swapPoint)
  else match s.cf.swap .none with
    | some g => .ok (s.modCf (fun _ => g))
    | none => holdOn s .counter
def execWait (f : FmtC) (s : State) : Host.Outcome State Fault Refusal := issueTransfer (.wait f) s (waitBody f)

/-- `YIELD` changes timing only (R192). -/
def execYield (f : FmtC) (s : State) : Host.Outcome State Fault Refusal := issue (.yield f) s (fun s => .ok s)
/-- `NOP` (R192). -/
def execNop (f : FmtC) (s : State) : Host.Outcome State Fault Refusal := issue (.nop f) s (fun s => .ok s)

/-! ### GROW and SHRINK -/

/-- `GROW` (R34 to R36, R193). -/
def growBody (f : FmtC) (s : State) : Exec :=
  let n := (s.sregOr 0 f.sa).toNat
  let m := bitN f.imm.toNat 3
  if n = 0 ∨ 32 < n then trapAt s cIllegal s.instrAddr
  else
    let t := s.modCf (fun f => { f with wait := .grow n m })
    if sideLimit m < s.cg.side m + n then .ok (t.modCg (fun g => g.settleGrow t.cf n m 1))
    else if !s.granFree s.cw.rcb n then .ok (t.modCg (fun g => g.settleGrow t.cf n m 2))
    else .ok (t.growSettle t.cg)
def execGrow (f : FmtC) (s : State) : Host.Outcome State Fault Refusal := issueTransfer (.grow f) s (growBody f)

/-- Take granules from a side; registers that stood in them hold nothing more (R35). -/
def Group.shrink (g : Group) (mside : Bool) (n : Nat) : Group :=
  if mside then { g with mside := g.mside - n, mregs := g.mregs.filter (fun e => e.1 < 2048 * (g.mside - n)) }
  else { g with vside := g.vside - n, vregs := g.vregs.filter (fun e => e.1 < 32 * (16 * (g.vside - n))) }

/-- Issued operations of a group that may still read or write its vector or matrix registers: loads, accumulator copies,
matrix operations (R105, R194). -/
def Group.regsBusy (g : Group) : Bool := !g.matrix.isEmpty || g.flights.any (fun f => f.kind != .store)

/-- `SHRINK` (R35, R194). It waits for every operation that may name a released register. -/
def shrinkBody (f : FmtC) (s : State) : Exec :=
  let n := (s.sregOr 0 f.sa).toNat
  let m := bitN f.imm.toNat 3
  if s.cg.side m < n then trapAt s cIllegal s.instrAddr
  else if n = 0 then .ok s
  else if s.cg.regsBusy then holdOn s .counter
  else
    let t := s.modCg (fun g => g.shrink m n)
    .ok (t.growSettle t.cg)
def execShrink (f : FmtC) (s : State) : Host.Outcome State Fault Refusal := issue (.shrink f) s (shrinkBody f)

end Sys2Proof.Machine
end

