-- ==== Sys2Proof/Machine/System.lean ====
section
/-! DEFINITION. Control registers (R195, R196, R316, R317, R325), traps raised and returned by software (R197, R198), and
cache-line control (R199 to R202). -/

namespace Sys2Proof.Machine

/-! ### Control registers -/

def roleCode : Role → Nat
  | .none => 0
  | .copy => 1
  | .matrix => 2
  | .vector => 3

/-- GINFO (R12). -/
def State.ginfo (s : State) : Nat :=
  let w := s.cw
  0x20 * 2 ^ 32 + w.place.die % 4 * 2 ^ 30 + w.place.cluster % 64 * 2 ^ 24 + w.place.core % 4 * 2 ^ 22 + s.cg.part % 4 * 2 ^ 20 +
  s.cg.gidx % 32 * 2 ^ 15 + w.depth % 8 * 2 ^ 12 + w.prio % 16 * 2 ^ 8 + roleCode s.cg.role * 2 ^ 6

/-- CTXINFO (R325). -/
def State.ctxInfo (s : State) : Nat :=
  let w := s.cw
  w.ctx % 2 ^ 16 * 2 ^ 16 + (if w.fn = physFn then 0xFF else w.fn) * 2 ^ 8 + b2n w.prot * 2 + b2n w.priv

/-- The seal version of the context (R330). -/
def State.sealVer (s : State) : Word64 := match s.ctx? s.cw.ctx with
  | some c => c.sealver
  | none => 0

/-- A banked register of a trap level: cause, return, value, save area (R316). -/
def TrapBank.read (b : TrapBank) : Nat → Word64
  | 0 => b.cause
  | 1 => b.ret
  | 2 => b.val
  | _ => b.save
/-- A write to a banked register; reserved bits are ignored. -/
def TrapBank.write (b : TrapBank) (k : Nat) (x : Word64) : TrapBank := match k with
  | 0 => { b with cause := x &&& 0x3F03FF }
  | 1 => { b with ret := x &&& 0xF9FFFFFFFFFFFFFF }
  | 2 => { b with val := x }
  | _ => { b with save := x }

/-- Value of control register `n`; none where no register has the number (R195, R325). -/
def State.readCr (s : State) (n : Nat) : Option Word64 :=
  let g := s.cg
  if n = 0x00 then some (n64 s.ginfo)
  else if n = 0x01 then some (n64 (g.mside * 2 ^ 8 + g.vside))
  else if n = 0x02 then some (n64 (b2n s.cw.divtrap))
  else if n = 0x03 then some (g.srstate.setWidth 64)
  else if n = 0x04 then some g.cvstate
  else if n = 0x05 then some (n64 (g.prev.toNat * 4 + g.good.toNat))
  else if n = 0x06 then some (n64 g.tlevel)
  else if n = 0x07 then some s.clock
  else if 0x10 ≤ n ∧ n ≤ 0x13 then some (g.bank1.read (n - 0x10))
  else if 0x18 ≤ n ∧ n ≤ 0x1B then some (g.bank2.read (n - 0x18))
  else if n = 0x1F then some g.tvec
  else if n = 0x40 then some (n64 s.ctxInfo)
  else if n = 0x41 then some 0
  else if n = 0x42 then some s.sealVer
  else none

/-- The number a CRRD or CRWR names (R195). -/
def State.crNumber (s : State) (f : FmtC) : Nat := match f.sb with
  | some r => fld (s.sreg r.val).toNat 0 12
  | none => f.imm.toNat

/-- Registers that only a privileged context reaches (R325). -/
def privCr (n : Nat) : Bool := 0x40 ≤ n && n ≤ 0x42

/-- `CRRD` (R195). -/
def crrdBody (f : FmtC) (s : State) : Exec :=
  let n := s.crNumber f
  match s.readCr n with
  | none => trapAt s cIllegal (n64 n)
  | some x => if privCr n && !s.cw.priv then trapAt s cPriv s.instrAddr else .ok (s.setSOpt f.sa x)
def execCrrd (f : FmtC) (s : State) : Host.Outcome State Fault Refusal := issue (.crrd f) s (crrdBody f)

/-- A write to DOMKILL kills a domain of the issuing context (R323, R325). -/
def State.domkill (s : State) (gid : Nat) (x : Word64) : State :=
  s.killDomain (s.wg (s.group gid).wid).ctx (fld x.toNat 0 8) 5 (s.group gid).tlevel 0 0 0

/-- The effect of a write to control register `n` (R93, R99, R195, R316, R317, R325). -/
def State.writeCr (s : State) (n : Nat) (x : Word64) : State :=
  if n = 0x03 then s.modCg (fun g => { g with srstate := if x.setWidth 32 = 0 then 1 else x.setWidth 32 })
  else if n = 0x04 then s.modCg (fun g => { g with cvstate := x &&& 0xFFFFFFFF000000F3 })
  else if 0x10 ≤ n ∧ n ≤ 0x13 then s.modCg (fun g => { g with bank1 := g.bank1.write (n - 0x10) x })
  else if 0x18 ≤ n ∧ n ≤ 0x1B then s.modCg (fun g => { g with bank2 := g.bank2.write (n - 0x18) x })
  else if n = 0x1F then s.modCg (fun g => { g with tvec := x &&& 0x01FFFFFFFFFFFF01 })
  else if n = 0x41 then s.domkill s.cur.gid x
  else s

/-- `CRWR` (R172, R195). -/
def crwrBody (f : FmtC) (s : State) : Exec :=
  let n := s.crNumber f
  if (s.readCr n).isNone || !WellFormed.writableCr n then trapAt s cIllegal (n64 n)
  else if privCr n && !s.cw.priv then trapAt s cPriv (n64 n)
  else .ok (s.writeCr n (s.sregOr 0 f.sa))
def execCrwr (f : FmtC) (s : State) : Host.Outcome State Fault Refusal := issue (.crwr f) s (crwrBody f)

/-- `DOMKILL`: the write of a group to the register takes effect (R325). -/
def execDomkill (gid : Nat) (value : Word64) (s : State) : Host.Outcome State Fault Refusal :=
  .next (if (s.group? gid).isSome && (s.wg (s.group gid).wid).priv then s.domkill gid value else s)

/-! ### TRAP and TRET -/

/-- TVAL of a TRAP (R197). -/
def State.trapValue (s : State) (f : FmtC) : Word64 := match f.sa with
  | some r => n64 (f.imm.toNat + fld (s.sreg r.val).toNat 0 58 * 2 ^ 6)
  | none => n64 f.imm.toNat

/-- `TRAP` (R197). -/
def execTrap (f : FmtC) (s : State) : Host.Outcome State Fault Refusal :=
  issue (.trap f) s (fun s => trapAt s cTrapInstr (s.trapValue f))

/-- `TRET` (R198, R319, R322). -/
def execTret (f : FmtC) (s : State) : Host.Outcome State Fault Refusal :=
  issueTransfer (.tret f) s (fun s => s.trapReturn (bitN f.imm.toNat 0))

/-! ### Cache lines -/

/-- Locked lines that lie in the L2 set of a line (R199). -/
def State.lockedWays (s : State) (line : Nat) : Nat :=
  ((s.wgs.map (·.locks)).flatten.eraseDups.filter (fun l =>
    l != line && s.sameSet line l)).length

/-- The address operand of the line instructions (R199 to R202). -/
def State.lineAddr (s : State) (f : FmtC) : Exec :=
  let a := s.sregOr 0 f.sa
  if isGlobal a then .ok s else trapAt s cAddress a

/-- Translate the line's address as a read; a fault holds, an access that is dropped drops the instruction (R370), and a request
that the home slice rejects takes DATA_POISON (R62). -/
def State.lineXlat (s : State) (f : FmtC) : Except Stop Xlat :=
  let a := s.sregOr 0 f.sa
  match s.fate s.cw.who a.toNat false with
  | .dropped c => .error (.skip s c)
  | .reject => trapAt (s.notePoison s.cw.who a.toNat) cPoison a
  | _ => match s.translate s.cw.fn s.cw.ctx (a.toNat % 2 ^ 57) .read s.cw.place with
    | .ok x => .ok x
    | .error e => .error (s.faultStop a.toNat e none)

/-- Status of LKLINE (R199). -/
def State.lockStatus (s : State) (x : Xlat) : Nat :=
  let line := x.pa / 128
  if s.cw.locks.contains line then 1
  else if x.sh || paTarget x.pa != 0 then 4
  else if 8 ≤ s.lockedWays line then 2
  else if 16 ≤ s.cw.locks.length then 3
  else 0

/-- `LKLINE` (R199). -/
def lklineBody (f : FmtC) (s : State) : Exec :=
  (s.lineAddr f).bind fun s =>
  (s.lineXlat f).bind fun x =>
  let st := s.lockStatus x
  let s := if st = 0 then (s.fillL2 (x.pa / 128)).modCw (fun w => { w with locks := w.locks ++ [x.pa / 128] }) else s
  .ok (s.setSOpt f.sb (n64 st))
def execLkline (f : FmtC) (s : State) : Host.Outcome State Fault Refusal := issue (.lkline f) s (lklineBody f)

/-- `ULKLINE` (R199). -/
def ulklineBody (f : FmtC) (s : State) : Exec :=
  (s.lineAddr f).bind fun s =>
  (s.lineXlat f).bind fun x =>
  let held := s.cw.locks.contains (x.pa / 128)
  let s := if held then s.modCw (fun w => { w with locks := w.locks.filter (· ≠ x.pa / 128) }) else s
  .ok (s.setSOpt f.sb (if held then 0 else 5))
def execUlkline (f : FmtC) (s : State) : Host.Outcome State Fault Refusal := issue (.ulkline f) s (ulklineBody f)

/-- A trap of an operation that acts for no thread of its own names none (R316). -/
def wholeTrap {α : Type} : Except Stop α → Except Stop α
  | .error (.trap t c v _ p) => .error (.trap t c v none p)
  | .error (.hold t (.fault fn tag va _)) => .error (.hold t (.fault fn tag va none))
  | r => r

/-- `CLRPOIS`: a whole-line store of zeros at `.sys` that clears the poison mark (R201). It enters no side log. -/
def clrpoisBody (f : FmtC) (s : State) : Exec :=
  wholeTrap (s.storeThreads .global 128 6 1 true false false [⟨0, s.sregOr 0 f.sa, List.replicate 128 0⟩])
def execClrpois (f : FmtC) (s : State) : Host.Outcome State Fault Refusal := issue (.clrpois f) s (clrpoisBody f)

/-- Count a line operation on the global store path (R200 to R202). -/
def State.countLine (s : State) : State := s.modCg (fun g => g.fly { path := 1, kind := .store })

/-- Write a line back: memory's own bytes become the current ones. The copies stay, none of them modified any more, and the
owner becomes a sharer (R200). -/
def State.cleanCache (s : State) (line : Nat) : State :=
  let e := s.dirEntry line
  let t := { s with modified := SMap.set [] s.modified line [], l1 := s.l1.map (fun (x : L1Line) => if x.line = line then { x with st := .shared } else x) }
  match e.owner with
  | some c => if e.acks.isEmpty then t.setDir ((e.leave c).share c) else t
  | none => t

/-- Remove a line from every cache; memory keeps its own bytes (R202). -/
def State.dropCache (s : State) (line : Nat) : State :=
  let t := s.uncache line
  { t with mem := writeBytes s.mem (128 * line) (SMap.get [] s.modified line), asked := s.asked.filter (fun e => e.1 ≠ line) }

/-- A line leaves its home slice, and with it every cache; a modified one is written back. One that is locked, or about
which an answer is awaited, stays (R58, R199, log 56). -/
def State.replaceLine (s : State) (line : Nat) : State := if s.mayLeave line then s.uncache line else s

/-- `CLWB` (R200): a line that no cache holds modified is left alone, and nothing is counted. -/
def clwbBody (f : FmtC) (s : State) : Exec :=
  (s.lineAddr f).bind fun s =>
  (s.lineXlat f).bind fun x =>
  if (SMap.get [] s.modified (x.pa / 128)).isEmpty then .ok s
  else (s.counterRoom 1).bind fun s => .ok (s.cleanCache (x.pa / 128)).countLine
def execClwb (f : FmtC) (s : State) : Host.Outcome State Fault Refusal := issue (.clwb f) s (clwbBody f)

/-- `CLINV` (R202): the page's world does not matter, since nothing is read. -/
def clinvBody (f : FmtC) (s : State) : Exec :=
  (s.lineAddr f).bind fun s =>
  (s.lineXlat f).bind fun x =>
  (s.counterRoom 1).bind fun s => .ok (s.dropCache (x.pa / 128)).countLine
def execClinv (f : FmtC) (s : State) : Host.Outcome State Fault Refusal := issue (.clinv f) s (clinvBody f)

end Sys2Proof.Machine
end

