-- ==== Sys2Proof/Machine/Twins.lean ====
section
/-! DEFINITION. Twin descriptors (R77 to R80): a scratchpad slot's in the workgroup's control state, a global slot's in the
context's table. -/

namespace Sys2Proof.Machine

/-- The slot that an LDT or STT names (R207). -/
def twinRefOf (f : FmtM) : TwinRef := ⟨bitN f.off.toNat 20, fld f.off.toNat 10 10⟩

/-- The trap of an offset at or above SIZE (R77). -/
def TwinRef.rangeCode (r : TwinRef) : Nat := if r.g then cAddress else cScratch

/-- Resolve the threads' offsets into a backing: R205's alignment check, the free slot, then the range (R77, R207). HEAP_PIN of the
backing's pages comes behind these, with the other checks of the access: the model's choice (log 65). `l` is in ascending thread order. -/
def State.twinResolve (s : State) (r : TwinRef) (n : Nat) (isW : Bool) (l : List Ea) : Except Stop (State × Mode × (Word64 → Word64)) :=
  match firstBad l (fun e => if e.ea.toNat % n ≠ 0 then some e.ea else none) with
  | some (t, v) => trapThr s cMisaligned v t
  | none =>
  if let some t := s.twinBusy s.cw.who r false then holdOn t .snoop else
  match s.getTwin s.cw.who s.cg.wid r with
  | .error e => .error (s.fateStop (s.twinVa s.cw.ctx r.slot) e)
  | .ok t =>
    if t.free then trapAt s cTwin (n64 r.slot)
    else match firstBad l (fun e => if t.size.toNat ≤ e.ea.toNat then some e.ea else none) with
      | some (th, v) => trapThr s r.rangeCode v th
      | none =>
        if isW && t.flipping then holdOn s .twin
        else .ok (s.noteTwin s.cw.who r, if r.g then .global else .window, fun o => n64 (t.base (if isW then !t.live else t.live) + o.toNat))

end Sys2Proof.Machine
end

