-- ==== Sys2Proof/Machine/LoadStore.lean ====
section
/-! DEFINITION. Majors 0x18 and 0x19: loads, stores, prefetch, streams and scratchpad maps (R203 to R217). -/

namespace Sys2Proof.Machine

/-! ### Addresses and data -/

/-- The base operand. A vector register that holds a window or twin offset is one register, zero-extended (R204). -/
def baseSrc (f : FmtM) (wide : Bool) : Src :=
  ⟨1, f.addr, if wide then .n64 else match f.addr with
    | .v _ => .n32
    | _ => .n64⟩

/-- base + sign_extend(OFF21) (R205). -/
def offsetOf (f : FmtM) : Word64 := f.off.signExtend 64

/-- Bytes of one thread's access, and the registers it moves (R206). -/
def accessBytes (f : FmtM) : Nat := f.ty.bytes * 2 ^ f.nlog.val
def accessRegs (f : FmtM) : Nat := if f.nlog.val = 0 then regCount f.ty else 2 ^ f.nlog.val

/-- Effective addresses of threads, in the order of the list. -/
def eaList (g : Group) (o : Opnd) (x : Src) (off : Word64) (ts : List Nat) : List Ea :=
  ts.map (fun t => ⟨t, n64 (o.read g x.ty t) + off⟩)

/-- Write loaded bytes to a thread's registers (R206, R211). -/
def Group.putLoad (g : Group) (f : FmtM) (r t : Nat) (l : List Byte) : Group :=
  if f.nlog.val = 0 then g.putV r f.ty.is64 [(t, extendElem f.ty l)]
  else (List.range (2 ^ f.nlog.val)).foldl (fun g j => g.setV (r + j) t (BitVec.ofNat 32 (leNat ((l.drop (4 * j)).take 4)))) g

/-- Write what the threads loaded; a discarded load writes nothing (R204). -/
def State.putLoads (s : State) (f : FmtM) (l : List (Nat × List Byte)) : State := match f.vd with
  | .v r => s.modCg (fun g => l.foldl (fun g e => g.putLoad f r.val e.1 e.2) g)
  | _ => s

/-- What the loads share: registers, operand, room, access, result, counter (R208, R211). `mk` turns the formed addresses
into a mode and final addresses. -/
def loadBody (i : Instr) (f : FmtM) (wide : Bool) (off : Word64) (path : Nat)
    (mk : State → List Ea → Except Stop (State × Mode × (Word64 → Word64))) (s : State) : Exec :=
  let m := s.gmask f.g
  let src := baseSrc f wide
  (s.rangeCheck f.vd (accessRegs f)).bind fun s =>
  (s.prepAll i (threads m) [src]).bind fun (s, os) =>
  let formed := eaList s.cg (os.getD 0 (.const 0)) src off (threads m)
  (mk s formed).bind fun (s, mode, at_) =>
  let eas := formed.map (fun e => (⟨e.t, at_ e.ea⟩ : Ea))
  (s.loadThreads mode (accessBytes f) (accessBytes f) false eas).bind fun (s, vs) =>
  (s.counterRoom path).bind fun s =>
  .ok ((s.putLoads f vs).modCg (fun g => g.fly { path := path, kind := .load, ext := s.loadExt mode eas }))

/-- An address that is final as formed. -/
def plainMode (m : Mode) : State → List Ea → Except Stop (State × Mode × (Word64 → Word64)) := fun s _ => .ok (s, m, id)

/-- `LD`: generic load (R211). -/
def execLd (f : FmtM) (s : State) : Host.Outcome State Fault Refusal :=
  issue (.ld f) s (loadBody (.ld f) f true (offsetOf f) 0 (plainMode .generic))
/-- `LDG`: global load (R211). -/
def execLdg (f : FmtM) (s : State) : Host.Outcome State Fault Refusal :=
  issue (.ldg f) s (loadBody (.ldg f) f true (offsetOf f) 0 (plainMode .global))
/-- `LDS`: window load (R211). -/
def execLds (f : FmtM) (s : State) : Host.Outcome State Fault Refusal :=
  issue (.lds f) s (loadBody (.lds f) f false (offsetOf f) 2 (plainMode .window))
/-- `LDT`: twin-form load of the live backing (R80, R207). -/
def execLdt (f : FmtM) (s : State) : Host.Outcome State Fault Refusal :=
  issue (.ldt f) s (loadBody (.ldt f) f false 0 0 (fun s l => s.twinResolve (twinRefOf f) (accessBytes f) false l))

/-- `PREF`: lines come into L1; what cannot be fetched is dropped and lowered at once (R208, R213). A prefetch that the
roster drops tells the group so (R370); one of a line that an outside agent holds in M waits for the line, as a load does
(R361). -/
def prefBody (f : FmtM) (s : State) : Exec :=
  let m := s.gmask f.g
  let src := baseSrc f true
  (s.prepAll (.pref f) (threads m) [src]).bind fun (s, os) =>
  (s.counterRoom 0).bind fun s =>
  let eas := (eaList s.cg (os.getD 0 (.const 0)) src (offsetOf f) (threads m)).filter (fun e => isGlobal e.ea)
  (s.dropTest .global false eas).bind fun s =>
  let fs := (s.fates .global eas false).filter (fun e => match e.2 with
    | .ok x => !x.sh
    | _ => false)
  (s.snoopHold 1 false fs).bind fun s =>
  if fs.isEmpty then .ok s
  else .ok ((s.noteReads 1 fs).modCg (fun g => g.fly { path := 0, kind := .load, ext := s.extOf fs }))
def execPref (f : FmtM) (s : State) : Host.Outcome State Fault Refusal := issue (.pref f) s (prefBody f)

/-- The address of a uniform base (R204). -/
def State.uniformEa (s : State) (i : Instr) (f : FmtM) : Except Stop (State × Word64) :=
  let src := baseSrc f true
  (s.prepAll i [0] [src]).map fun (s, os) => (s, n64 ((os.getD 0 (.const 0)).read s.cg .n64 0) + offsetOf f)

/-- `LDU`: one load for the group or the Mule (R212). -/
def lduBody (f : FmtM) (s : State) : Exec :=
  (match f.vd with
    | .q _ => if s.cur.mule then Except.ok s else trapAt s cIllegal s.instrAddr
    | _ => Except.ok s).bind fun s =>
  (s.uniformEa (.ldu f) f).bind fun (s, a) =>
  (if s.cur.mule then Except.ok s else s.counterRoom 0).bind fun s =>
  let ext := s.loadExt .global [⟨0, a⟩]
  (wholeTrap (s.loadThreads .global f.ty.bytes f.ty.bytes false [⟨0, a⟩])).bind fun (s, vs) =>
  let x := extendElem f.ty ((vs.map Prod.snd).headD [])
  (match f.vd with
    | .s r => Except.ok (s.setS r.val x)
    | .q r => s.writeSD (.q r) x
    | _ => Except.ok s).bind fun s =>
  .ok (if s.cur.mule then s else s.modCg (fun g => g.fly { path := 0, kind := .load, ext := ext }))
def execLdu (f : FmtM) (s : State) : Host.Outcome State Fault Refusal := issue (.ldu f) s (lduBody f)

/-! ### Stores -/

/-- Bytes that a thread stores (R206). -/
def storeData (f : FmtM) (o : Opnd) (g : Group) (t : Nat) : List Byte :=
  if f.nlog.val = 0 then leBytes f.ty.bytes (o.read g f.ty t)
  else match f.vd with
    | .v r => ((List.range (2 ^ f.nlog.val)).map (fun j => leBytes 4 (g.vreg (r.val + j) t).toNat)).flatten
    | _ => []

/-- What the stores share (R208, R214): registers, operands, release, access, counter. -/
def storeBody (i : Instr) (f : FmtM) (wide : Bool) (off : Word64) (path : Nat) (clear : Bool)
    (mk : State → List Ea → Except Stop (State × Mode × (Word64 → Word64))) (s : State) : Exec :=
  let m := s.gmask f.g
  let dsrc : Src := ⟨0, f.vd, f.ty⟩
  let src := baseSrc f wide
  (s.rangeCheck f.vd (accessRegs f)).bind fun s =>
  (s.prepAll i (threads m) [dsrc, src]).bind fun (s, os) =>
  (s.releaseWait (isRel f.ord)).bind fun s =>
  let d := os.getD 0 (.const 0)
  let b := os.getD 1 (.const 0)
  (mk s (eaList s.cg b src off (threads m))).bind fun (s, mode, at_) =>
  let l := (s.visit m).map (fun t => (⟨t, at_ (n64 (b.read s.cg src.ty t) + off), storeData f d s.cg t⟩ : St))
  s.storeThreads mode (accessBytes f) f.scope.enc path clear false true l

/-- `ST`: generic store (R214). -/
def execSt (f : FmtM) (s : State) : Host.Outcome State Fault Refusal :=
  issue (.st f) s (storeBody (.st f) f true (offsetOf f) 1 false (plainMode .generic))
/-- `STG`: global store (R214). -/
def execStg (f : FmtM) (s : State) : Host.Outcome State Fault Refusal :=
  issue (.stg f) s (storeBody (.stg f) f true (offsetOf f) 1 false (plainMode .global))
/-- `STS`: window store (R214). -/
def execSts (f : FmtM) (s : State) : Host.Outcome State Fault Refusal :=
  issue (.sts f) s (storeBody (.sts f) f false (offsetOf f) 2 false (plainMode .window))
/-- `STT`: twin-form store into the inactive backing (R78, R207). -/
def execStt (f : FmtM) (s : State) : Host.Outcome State Fault Refusal :=
  issue (.stt f) s (storeBody (.stt f) f false 0 1 false (fun s l => s.twinResolve (twinRefOf f) (accessBytes f) true l))
/-- `STL`: whole-line store that clears the poison mark (R215). -/
def execStl (f : FmtM) (s : State) : Host.Outcome State Fault Refusal :=
  issue (.stl f) s (storeBody (.stl f) f true (offsetOf f) 1 true (plainMode .global))

/-! ### Streams (R47, R216) -/

/-- Dimension `d` of a descriptor. -/
def descDim (x d : Nat) : Dim :=
  { cnt := BitVec.ofNat 16 (fld x (128 + 64 * d) 16), stride := BitVec.ofNat 32 (fld x (128 + 64 * d + 32) 32)
    idx := BitVec.ofNat 16 (fld x (384 + 16 * d) 16) }
/-- A stream from its descriptor. -/
def decodeStream (x : Nat) : Stream :=
  { bound := true, base := BitVec.ofNat 57 (fld x 0 57), space := bitN x 57, esize := BitVec.ofNat 2 (fld x 58 2), dir := bitN x 60
    ndim := BitVec.ofNat 2 (fld x 62 2), tstride := BitVec.ofNat 32 (fld x 64 32), dims := (List.range 4).map (descDim x)
    flags := BitVec.ofNat 4 (fld x 448 4) }
/-- The descriptor of a stream's live state. -/
def encodeStream (w : Stream) : Nat :=
  w.base.toNat + b2n w.space * 2 ^ 57 + w.esize.toNat * 2 ^ 58 + b2n w.dir * 2 ^ 60 + w.ndim.toNat * 2 ^ 62 + w.tstride.toNat * 2 ^ 64 +
  ((List.range 4).map (fun d =>
    let x := w.dims.getD d {}
    x.cnt.toNat * 2 ^ (128 + 64 * d) + x.stride.toNat * 2 ^ (128 + 64 * d + 32) + x.idx.toNat * 2 ^ (384 + 16 * d))).sum +
  w.flags.toNat * 2 ^ 448

/-- Is a descriptor refused by STBIND (R47)? -/
def badStream (x : Nat) : Bool :=
  fld x 452 60 != 0 || fld x 96 32 != 0 || bitN x 61 || (List.range 4).any (fun d => fld x (128 + 64 * d + 16) 16 != 0) ||
  (List.range (fld x 62 2 + 1)).any (fun d => (descDim x d).cnt == 0 || decide ((descDim x d).cnt.toNat ≤ (descDim x d).idx.toNat)) ||
  (bitN x 57 && fld x 20 37 != 0)

/-- The stream that VD names. -/
def streamIdx : Sel → Nat
  | .w i => i.val
  | _ => 0

/-- `STBIND` (R216). -/
def stbindBody (f : FmtM) (s : State) : Exec :=
  let n := streamIdx f.vd
  (s.uniformEa (.stbind f) f).bind fun (s, a) =>
  (wholeTrap (s.loadThreads .generic 64 64 false [⟨0, a⟩])).bind fun (s, vs) =>
  let x := leNat ((vs.map Prod.snd).headD [])
  if badStream x then trapAt s cStream (n64 (0xF0 + n))
  else .ok (s.modCg (fun g => { g with streams := g.streams.set n (decodeStream x) }))
def execStbind (f : FmtM) (s : State) : Host.Outcome State Fault Refusal := issue (.stbind f) s (stbindBody f)

/-- `STSAVE` (R216). STREAM_STATE of an unbound stream comes before the checks of the address, an order that R216 leaves open: the model's
choice (log 65). -/
def stsaveBody (f : FmtM) (s : State) : Exec :=
  let n := streamIdx f.vd
  if !(s.stream n).bound then trapAt s cStream (n64 (0xF0 + n))
  else
    (s.uniformEa (.stsave f) f).bind fun (s, a) =>
    (s.releaseWait (isRel f.ord)).bind fun s =>
    wholeTrap (s.storeThreads .generic 64 f.scope.enc 1 false false true [⟨0, a, leBytes 64 (encodeStream (s.stream n))⟩])
def execStsave (f : FmtM) (s : State) : Host.Outcome State Fault Refusal := issue (.stsave f) s (stsaveBody f)

/-! ### Maps (R43, R217) -/

/-- Status of MAPSET for a descriptor. -/
def State.mapStatus (s : State) (k d : Nat) : Nat :=
  let w := s.cw
  let wblk := fld d 0 9
  let nblk := fld d 36 8
  if w.winSize < 2048 * (wblk + nblk) then 1
  else if w.maps.any (fun (i, m) => match m with
      | some m => i != k && decide (wblk < m.wblk + m.nblk) && decide (m.wblk < wblk + nblk)
      | none => false) then 2
  else if fld d 121 7 != 0 || fld d 44 20 != 0 || fld d 17 19 != 0 || fld d 9 7 != 0 || fld d 64 11 != 0 || nblk == 0 then 3
  else if (SMap.get none w.maps k).isSome then 4
  else 0

/-- `MAPSET` (R217). -/
def mapsetBody (f : FmtM) (s : State) : Exec :=
  let k := f.off.toNat % 4
  let d := match f.addr with
    | .s i => (s.sreg i.val).toNat + (s.sreg (i.val + 1)).toNat * 2 ^ 64
    | _ => 0
  let st := s.mapStatus k d
  let m : WMap := { gbase := BitVec.ofNat 57 (fld d 64 57), nblk := fld d 36 8, wr := bitN d 16, wblk := fld d 0 9
                    blocks := List.replicate (fld d 36 8) .empty }
  let s := if st = 0 then s.modCw (fun w => { w with maps := SMap.set none w.maps k (some m) }) else s
  .ok (match f.vd with
    | .s r => s.setS r.val (n64 st)
    | _ => s)
def execMapset (f : FmtM) (s : State) : Host.Outcome State Fault Refusal := issue (.mapset f) s (mapsetBody f)

/-- `MAPFLUSH` (R44, R217). -/
def execMapflush (f : FmtM) (s : State) : Host.Outcome State Fault Refusal :=
  issue (.mapflush f) s (fun s => s.flushMap (f.off.toNat % 4))

/-- `MAPCLR` (R44, R217). -/
def execMapclr (f : FmtM) (s : State) : Host.Outcome State Fault Refusal :=
  issue (.mapclr f) s (fun s => (s.flushMap (f.off.toNat % 4)).map fun s =>
    s.modCw (fun w => { w with maps := SMap.set none w.maps (f.off.toNat % 4) none }))

end Sys2Proof.Machine
end

