-- ==== Sys2Proof/Machine/Atomics.lean ====
section
/-! DEFINITION. Majors 0x1A to 0x1C: atomics, reductions, fences and barrier-object initialisation (R218 to R221). -/

namespace Sys2Proof.Machine

/-- The operations of R219. -/
inductive AtomOp where
  | add | min | max | and | or | xor | xchg | cas
  deriving DecidableEq, Repr

/-- Code of a reduction in a side-log entry: its minor plus 1 (R82). -/
def AtomOp.code : AtomOp → Nat
  | .add => 1
  | .min => 2
  | .max => 3
  | .and => 4
  | .or => 5
  | .xor => 6
  | .xchg => 7
  | .cas => 8
def AtomOp.ofCode : Nat → AtomOp
  | 1 => .add
  | 2 => .min
  | 3 => .max
  | 4 => .and
  | 5 => .or
  | 6 => .xor
  | 7 => .xchg
  | _ => .cas

/-- The lesser or greater of two values of a type (R88, R91). -/
def minMaxTy (ty : Ty) (isMax : Bool) (a b : Nat) : Nat :=
  if ty.isInt then
    match cmpInt ty a b with
    | .gt => if isMax then a else b
    | _ => if isMax then b else a
  else
    match pickFirst isMax (decTy ty a) (decTy ty b) with
    | some true => a
    | some false => b
    | none => (ffmt ty).canonical

/-- The value written, if one is (R219). -/
def AtomOp.new (op : AtomOp) (ty : Ty) (old d c : Nat) : Option Nat := match op with
  | .add => some (if ty.isInt then (old + d) % 2 ^ ty.width else arithTo ty ((decTy ty old).add (decTy ty d)))
  | .min => some (minMaxTy ty false old d)
  | .max => some (minMaxTy ty true old d)
  | .and => some (Nat.land old d)
  | .or => some (Nat.lor old d)
  | .xor => some (Nat.xor old d)
  | .xchg => some d
  | .cas => if old = c then some d else none

/-- One thread's operands. -/
structure AtomArg where
  t : Nat
  ea : Word64
  d : Nat
  c : Nat
  deriving DecidableEq, Repr

/-- The indivisible operation of one thread, with the fate of its access; the old value, where one is read. -/
def State.atomOne (s : State) (op : AtomOp) (ty : Ty) (x : AtomArg) (f : Option Fate) : State × Option Nat :=
  let n := ty.bytes
  match resolveGeneric x.ea, f with
  | some (.win o), _ =>
    let old := leNat (s.cw.winN o n)
    (match op.new ty old x.d x.c with
      | some v => s.modCw (fun w => w.storeWin o (leBytes n v))
      | none => s, some old)
  | some (.glob _), some (.ok y) =>
    let old := s.rd y.pa n
    (match op.new ty old x.d x.c with
      | some v => s.performWrite s.cw.who y (leBytes n v)
      | none => s, some old)
  | some (.glob _), some .peerConf => (s.raise s.cur.gid cConf x.ea, none)
  | _, _ => (s, none)

/-- DATA_POISON of an atomic or reduction: a marked location, or, for an atomic, a read that the world check or a lost
expander poisons (R219, R369, R376). -/
def State.atomPoison (s : State) (isRed : Bool) (n : Nat) (l : List Ea) : Exec :=
  match l.find? (fun e => match resolveGeneric e.ea with
      | some (.win o) => s.cw.winPoisoned o n
      | some (.glob a) => match s.fate s.cw.who a.toNat true with
        | .silent => !isRed
        | .ok x => s.poisoned x.pa n
        | _ => false
      | _ => false) with
  | some e =>
    let t := match resolveGeneric e.ea with
      | some (.glob a) => s.notePoison s.cw.who a.toNat
      | _ => s
    .error (.trap t cPoison e.ea (some e.t) none)
  | none => .ok s

/-- Put the operand of one thread into entries: one more entry for an element that an entry already holds (R82). -/
def addRed (line : Nat) (bytes : List (Nat × Byte)) (mk : LogEntry) : List LogEntry → List LogEntry
  | [] => [{ mk with line := BitVec.ofNat 50 line, bytes := bytes }]
  | e :: l =>
    if e.line.toNat = line && !(e.bytes.any (fun b => bytes.any (fun c => c.1 == b.1))) then { e with bytes := e.bytes ++ bytes } :: l
    else e :: addRed line bytes mk l

/-- What atomics (`isRed` false) and reductions share. -/
def atomBody (i : Instr) (f : FmtAT) (op : AtomOp) (isRed : Bool) (s : State) : Exec :=
  let m := s.gmask f.g
  let ty := f.ty
  let n := ty.bytes
  let path := if isRed then 1 else 0
  (s.rangeCheck f.vd (regCount ty)).bind fun s =>
  (s.prepAll i (threads m) ([⟨1, f.addr, .n64⟩, ⟨2, f.data, ty⟩] ++ if op = .cas then [⟨3, f.cmp, ty⟩] else [])).bind fun (s, os) =>
  (s.releaseWait (isRel f.ord)).bind fun s =>
  let arg (t : Nat) : AtomArg :=
    ⟨t, n64 ((os.getD 0 (.const 0)).read s.cg .n64 t), (os.getD 1 (.const 0)).read s.cg ty t, (os.getD 2 (.const 0)).read s.cg ty t⟩
  let args := (s.visit m).map arg
  let asc := (threads m).map (fun t => (⟨t, (arg t).ea⟩ : Ea))
  (s.addressCheck .generic asc n true false).bind fun s =>
  (s.dropTest .generic true asc).bind fun s =>
  (s.touchAll .generic asc).bind fun s =>
  (s.counterRoom path).bind fun s =>
  (s.writeFates (s.fates .generic asc true) isRed).bind fun s =>
  (s.atomPoison isRed n asc).bind fun s =>
  if !isRed && asc.any (fun e => match resolveGeneric e.ea with
      | some (.glob a) => s.cg.loggedByte a.toNat n
      | _ => false) then holdOn s .sideLog
  else
    (s.writeClaims .generic n (!isRed) isRed asc).bind fun (s, fs) =>
    let logged := if isRed then args.filter (fun x => fs.any (fun e => e.1.t == x.t && s.mustLog x.ea.toNat e.2)) else []
    let mk : LogEntry := { storeEntry f.scope.enc false with op := op.code, ty := ty.enc }
    let entries := logged.foldl (fun es x => addRed (x.ea.toNat / 128) (lineBytes x.ea.toNat (leBytes n x.d)) mk es) []
    if (isRed && s.mustWait fs) || decide (s.sideFree s.cw.place < entries.length) then holdOn s .sideLog
    else
      let now := args.filter (fun x => !logged.any (fun y => y.t == x.t))
      let r := now.foldl (fun (a : State × List (Nat × Word64)) x =>
        let (t, old) := a.1.atomOne op ty x (fateOf fs x.t)
        (t, a.2 ++ (match old with
          | some v => [(x.t, packTy ty v)]
          | none => []))) (s, [])
      let t := r.1.logEntries entries
      let lines := (fs.filterMap (fun e => match e.2 with
        | .ok x => some (t.waitingLines x.pa n)
        | _ => none)).flatten
      let old := if isRed then (now.map (fun x => s.oldBytes .generic ⟨x.t, x.ea, leBytes n x.d⟩ (fateOf fs x.t))).flatten else []
      let t := t.modCg (fun g =>
        g.fly { path := path, kind := if isRed then .store else .load, lines := if isRed then lines else [], old := old, ext := s.extOf fs })
      match f.vd with
      | .v vd => .ok (t.modCg (fun g => g.putV vd.val ty.is64 r.2))
      | _ => .ok t

/-- `AADD` (R219). -/
def execAadd (f : FmtAT) (s : State) : Host.Outcome State Fault Refusal := issue (.aadd f) s (atomBody (.aadd f) f .add false)
/-- `AMIN` (R219). -/
def execAmin (f : FmtAT) (s : State) : Host.Outcome State Fault Refusal := issue (.amin f) s (atomBody (.amin f) f .min false)
/-- `AMAX` (R219). -/
def execAmax (f : FmtAT) (s : State) : Host.Outcome State Fault Refusal := issue (.amax f) s (atomBody (.amax f) f .max false)
/-- `AAND` (R219). -/
def execAand (f : FmtAT) (s : State) : Host.Outcome State Fault Refusal := issue (.aand f) s (atomBody (.aand f) f .and false)
/-- `AOR` (R219). -/
def execAor (f : FmtAT) (s : State) : Host.Outcome State Fault Refusal := issue (.aor f) s (atomBody (.aor f) f .or false)
/-- `AXOR` (R219). -/
def execAxor (f : FmtAT) (s : State) : Host.Outcome State Fault Refusal := issue (.axor f) s (atomBody (.axor f) f .xor false)
/-- `AXCHG` (R219). -/
def execAxchg (f : FmtAT) (s : State) : Host.Outcome State Fault Refusal := issue (.axchg f) s (atomBody (.axchg f) f .xchg false)
/-- `ACAS` (R219). -/
def execAcas (f : FmtAT) (s : State) : Host.Outcome State Fault Refusal := issue (.acas f) s (atomBody (.acas f) f .cas false)
/-- `RADD` (R219). -/
def execRadd (f : FmtAT) (s : State) : Host.Outcome State Fault Refusal := issue (.radd f) s (atomBody (.radd f) f .add true)
/-- `RMIN` (R219). -/
def execRmin (f : FmtAT) (s : State) : Host.Outcome State Fault Refusal := issue (.rmin f) s (atomBody (.rmin f) f .min true)
/-- `RMAX` (R219). -/
def execRmax (f : FmtAT) (s : State) : Host.Outcome State Fault Refusal := issue (.rmax f) s (atomBody (.rmax f) f .max true)
/-- `RAND` (R219). -/
def execRand (f : FmtAT) (s : State) : Host.Outcome State Fault Refusal := issue (.rand f) s (atomBody (.rand f) f .and true)
/-- `ROR` (R219). -/
def execRor (f : FmtAT) (s : State) : Host.Outcome State Fault Refusal := issue (.ror f) s (atomBody (.ror f) f .or true)
/-- `RXOR` (R219). -/
def execRxor (f : FmtAT) (s : State) : Host.Outcome State Fault Refusal := issue (.rxor f) s (atomBody (.rxor f) f .xor true)

/-- Does a fence at the scope make earlier stores of the kind visible to the reads of engines: to the window from `.clu`
on, to memory from `.dev` on (R76)? -/
def fenceReaches (sc : Nat) (e : Nat × Byte) : Bool := decide ((if e.1 < 2 ^ 57 then 5 else 3) ≤ sc)

/-- `FENCE`: a release part waits for the side log, and makes the group's earlier stores visible to the reads of its later
asynchronous commands; the rest of the ordering is what other agents observe (R73, R76, R84, R220). -/
def fenceBody (f : FmtAT) (s : State) : Exec :=
  (s.releaseWait (isRel f.ord)).map fun s =>
    if isRel f.ord then s.modCg (fun g =>
      { g with flights := g.flights.map (fun (x : Flight) => { x with old := x.old.filter (fun e => !fenceReaches f.scope.enc e) }) })
    else s
def execFence (f : FmtAT) (s : State) : Host.Outcome State Fault Refusal := issue (.fence f) s (fenceBody f)

/-! ### Barrier objects at an instruction -/

/-- Update the object at a generic address by one indivisible read-modify-write of the group; it never enters the side
log (R54, R83, R221, R222). -/
def State.objUpdate (s : State) (a : Word64) (f : Nat → Nat) : Exec :=
  let l := [(⟨0, a⟩ : Ea)]
  let path := match resolveGeneric a with
    | some (.win _) => 2
    | _ => 1
  wholeTrap <|
    (s.addressCheck .generic l 16 true false).bind fun s =>
    (s.dropTest .generic true l).bind fun s =>
    (s.touchAll .generic l).bind fun s =>
    (s.counterRoom path).bind fun s =>
    let fs := s.fates .generic l true
    (s.writeFates fs false).bind fun s =>
    (s.snoopHold 16 true fs).bind fun s =>
    (s.ownHold 16 fs).bind fun s =>
    if fs.any (fun e => s.cg.logged (e.1.ea.toNat / 128)) then holdOn s .sideLog
    else
      let t := match resolveGeneric a with
        | some (.win o) => s.modCw (fun w => w.storeWin o (leBytes 16 (f (leNat (w.winN o 16)))))
        | some (.glob va) => match s.fate s.cw.who va.toNat true with
          | .ok x => s.performWrite s.cw.who x (leBytes 16 (f (s.rd x.pa 16)))
          | .peerConf => s.raise s.cur.gid cConf a
          | _ => s
        | _ => s
      let old := s.oldBytes .generic ⟨0, a, List.replicate 16 0⟩ (fateOf fs 0)
      .ok (t.modCg (fun g => g.fly { path := path, kind := .store, old := old, ext := s.extOf fs }))

/-- `BOINIT` (R221). -/
def boinitBody (f : FmtAT) (s : State) : Exec :=
  (s.prepAll (.boinit f) [0] [⟨1, f.addr, .n64⟩, ⟨2, f.data, .n64⟩]).bind fun (s, os) =>
  (s.releaseWait (isRel f.ord)).bind fun s =>
  s.objUpdate (os.getD 0 (.const 0)).value (fun o => objInit o (os.getD 1 (.const 0)).value.toNat)
def execBoinit (f : FmtAT) (s : State) : Host.Outcome State Fault Refusal := issue (.boinit f) s (boinitBody f)

end Sys2Proof.Machine
end

