-- ==== Sys2Proof/Machine/Engine.lean ====
section
/-! DEFINITION. What the engines share: reads and writes of an asynchronous operation as an agent of its own (R76, R228, R229,
R231), registration on a barrier object and landings (R54), and the stop of a command (R229). -/

namespace Sys2Proof.Machine

/-- Why an engine's operation does not go on. -/
inductive EStop where
  /-- a translation fault, in this state: held until the driver answers (R229) -/
  | hold (t : State) (va : Nat) (f : XFault)
  /-- the command stops; a cause that its group takes (R229, R370, R375) -/
  | stop (c : Option (Nat × Word64))
  /-- nothing happens yet -/
  | wait (t : State)

abbrev Eng (α : Type) := Except EStop α

/-- A place `i` bytes on: global addresses wrap modulo 2^57, window offsets are computed in 64 bits (R231). -/
def Where.plus (p : Where) (i : Int) : Where := match p with
  | .glob a => .glob (n64 (((a.toNat : Int) + i) % (2 ^ 57 : Int)).toNat)
  | .win o => .win (((o : Int) + i) % (2 ^ 64 : Int)).toNat
  | .twin g k o => .twin g k (((o : Int) + i) % (2 ^ 64 : Int)).toNat

/-- The address as a number. -/
def Where.num : Where → Nat
  | .glob a => a.toNat
  | .win o => o
  | .twin _ _ o => o

/-- A generic address that names the place (R39). -/
def Where.generic : Where → Word64
  | .glob a => a
  | .win o => n64 (0xFE * 2 ^ 56 + o)
  | .twin _ _ o => n64 o

/-- Cut `n` bytes at 128-byte lines. -/
def spans : Nat → Where → Nat → List (Where × Nat)
  | 0, _, _ => []
  | fuel + 1, p, n =>
    if n = 0 then []
    else
      let k := min n (128 - p.num % 128)
      (p, k) :: spans fuel (p.plus k) (n - k)
def spansOf (p : Where) (n : Nat) : List (Where × Nat) := spans (n / 128 + 2) p n

/-- The fate of an engine's access, where it does not stop it (R210, R229, R369, R370). -/
def State.engFate (s : State) (a : Who) (va : Word64) (isW pinned : Bool) : Eng Fate :=
  if let some t := if pinned then none else s.pinBusy a va.toNat isW then .error (.wait t)
  else if !pinned && s.pinFails a va.toNat isW then .error (.stop (some (cHeapPin, va)))
  else match s.fate a va.toNat isW with
    | .fault f => .error (.hold s va.toNat f)
    | .conf | .peerConf => .error (.stop (some (cConf, va)))
    | .dropped c => .error (.stop c)
    | e => .ok e

def blockedEng (s : State) : Blocked → EStop
  | .fault va f => .hold s va f
  | .dropped c => .stop c
  | .lines x n isW => .wait (s.askFor x n isW)
  | .full => .wait s

/-- The byte that a read of an agent returns at a generic address where memory or the window holds `b`: that, or, where the
agent's command was issued while stores of its group were on their way, an older value (R76). Which one is open: a free
value for each aligned 8 bytes. -/
def State.readOld (s : State) (a : Who) (p : Nat) (b : Byte) : Byte :=
  match (a.old.filter (fun e => e.1 == p)).map Prod.snd with
  | [] => b
  | l => (l ++ [b]).getD ((s.free 16 (p / 8 % 2 ^ 20)).toNat % (l.length + 1)) b

/-- Read one span: bytes with the poison mark of their unit (R228). -/
def State.engReadSpan (s : State) (a : Who) (wid : Nat) (p : Where × Nat) : Eng (State × List (Byte × Bool)) :=
  match p.1 with
  | .glob va =>
    (s.engFate a va false false).bind fun e => match e with
      | .ok x =>
        if s.lineBusy x p.2 false then .error (.wait (s.askFor x p.2 false))
        else .ok (s.noteRead a x p.2,
          ((s.rdN x.pa p.2).zipIdx).map (fun b => (s.readOld a (va.toNat + b.2) b.1, s.poisoned x.pa p.2)))
      | _ => .ok (s, (List.range p.2).map (fun i => (s.free 8 ((va.toNat + i) % 2 ^ 20), true)))
  | .win o =>
    match s.touchBlock a wid o with
    | .error b => .error (blockedEng s b)
    | .ok t => .ok (t, (List.range p.2).map (fun i =>
        (t.readOld a (0xFE * 2 ^ 56 + o + i) ((t.wg wid).winByte (o + i)), (t.wg wid).winPoisoned (o + i) 1)))
  | .twin _ _ _ => .ok (s, [])

/-- Read `n` bytes. -/
def State.engRead (s : State) (a : Who) (wid : Nat) (p : Where) (n : Nat) : Eng (State × List (Byte × Bool)) :=
  foldE (fun (r : State × List (Byte × Bool)) q => (r.1.engReadSpan a wid q).map (fun x => (x.1, r.2 ++ x.2))) (s, []) (spansOf p n)

/-- Is a span ready to be written? The dirty-log record that its write needs is appended here (R345). -/
def State.engReady (s : State) (a : Who) (wid : Nat) (p : Where × Nat) : Eng State :=
  match p.1 with
  | .glob va =>
    (s.engFate a va true false).bind fun e => match e with
      | .ok x => if s.lineBusy x p.2 true then .error (.wait (s.askFor x p.2 true)) else .ok (s.logDirty a x)
      | _ => .ok s
  | .win o =>
    if (s.wg wid).readOnly o then .error (.stop (some (cScratch, n64 o)))
    else match s.touchBlock a wid o with
      | .error b => .error (blockedEng s b)
      | .ok t => .ok t
  | .twin _ _ _ => .ok s

/-- Write a span; a marked byte marks its unit (R228). A refused write of an unprotected context is settled as if
performed (R369). -/
def State.engWriteSpan (s : State) (a : Who) (wid : Nat) (p : Where × Nat) (l : List (Byte × Bool)) : State :=
  match p.1 with
  | .glob va => match s.fate a va.toNat true with
    | .ok x =>
      let t := s.performWrite a x (l.map Prod.fst)
      if l.any Prod.snd then t.poisonLine (x.pa / 128) else t
    | _ => s
  | .win o => s.modWg wid (fun w =>
      ((l.zipIdx).filter (fun e => e.1.2)).foldl (fun w e => w.markWin (o + e.2) 1 true) (w.storeWin o (l.map Prod.fst)))
  | .twin _ _ _ => s

/-- Every check of a write of `n` bytes. -/
def State.engCheck (s : State) (a : Who) (wid : Nat) (p : Where) (n : Nat) : Eng State :=
  foldE (fun (s : State) q => s.engReady a wid q) s (spansOf p n)

/-- Write bytes that `engCheck` has passed. -/
def State.engWrite (s : State) (a : Who) (wid : Nat) (p : Where) (l : List (Byte × Bool)) : State :=
  ((spansOf p l.length).foldl (fun (r : State × List (Byte × Bool)) q => (r.1.engWriteSpan a wid q (r.2.take q.2), r.2.drop q.2)) (s, l)).1

/-- Is a twin descriptor ready to be written by the engine (R78, R345)? -/
def State.twinReady (s : State) (a : Who) (r : TwinRef) : Eng State := match s.twinFate a r with
  | some (.fault f) => .error (.hold s (s.twinVa a.ctx r.slot) f)
  | some (.dropped c) => .error (.stop c)
  | some _ => .error (.stop none)
  | none => match s.twinBusy a r true with
    | some t => .error (.wait t)
    | none => .ok s

/-! ### Barrier objects of commands (R54) -/

/-- Can the engine reach the object? -/
def State.objReach (s : State) (a : Who) (wid : Nat) (o : Option Where) : Eng State := match o with
  | some p => s.engReady a wid (p, 16)
  | none => .ok s

/-- A landing of `n` bytes, or `arr` arrivals, on a command's object; `last` lowers PENDCMD in the same update. -/
def State.landObj (s : State) (a : Who) (wid : Nat) (o : Option Where) (n arr : Nat) (last : Bool) : State := match o with
  | some p => s.objPut a wid p (.step n arr last)
  | none => s

/-- Register a command on its object (R54): it waits while PENDCMD is 65,535. -/
def State.registerObj (s : State) (a : Who) (wid : Nat) (o : Option Where) : Eng State := match o with
  | none => .ok s
  | some p => (s.objReach a wid o).bind fun s => match s.objRead a wid p with
    | .ok x => if objPending x = 65535 then .error (.wait s) else .ok (s.objPut a wid p .register)
    | .error _ => .ok s

/-- Raise a deferred cause in a group, resident or saved. -/
def State.raiseAny (s : State) (gid code : Nat) (tval : Word64) : State :=
  { s.raise gid code tval with saved := s.saved.map (fun (i : Saved) =>
      { i with groups := i.groups.map (fun (g : Group) => if g.gid = gid then g.raise code tval else g) }) }

/-- The end of a command: it is taken out, and a window that waited for it is released. -/
def State.endCmd (s : State) (c : Cmd) : State := (s.dropCmd c.id).wgRelease c.wid

/-- A command stops (R229): ERR is set and PENDCMD lowered in one update, PEND of a registered twin write is lowered, and
the group takes the cause at its next clause boundary. -/
def State.stopCmd (s : State) (c : Cmd) (cause : Option (Nat × Word64)) : State :=
  let a := s.cmdWho c
  let s := match c.object with
    | some p => s.objPut a c.wid p (.setErr c.registered)
    | none => s
  let s := match c.twinSlot with
    | some r => s.lowerTwin a c.wid r
    | none => s
  let s := match cause with
    | some (code, tval) =>
      (if code = cPoison ∧ isGlobal tval then s.notePoison a tval.toNat else s).raiseAny c.gid code tval
    | none => s
  s.endCmd c

/-- How an engine's stop ends the event for a command. -/
def State.settleCmd (s : State) (id : Nat) (r : Eng State) : State := match r, s.cmd? id with
  | .ok t, _ => t
  | .error (.wait t), _ => t
  | .error (.hold t va f), some c =>
    let (t, k) := t.postFault (t.cmdWho c) va f
    t.modCmd id (fun c => { c with fault := some (k.1, k.2, n64 va) })
  | .error (.stop cause), some c => s.stopCmd c cause
  | .error _, none => s

end Sys2Proof.Machine
end

