-- ==== Sys2Proof/Machine/Tables.lean ====
section
/-! DEFINITION. What a write from outside leaves of the driver's tables, as the access types of R6 have it: RO and reserved bits stay,
W1C bits are cleared by ones. The tables are those of R299 to R302, R339, R358, R362 and R363. A store of a program is not looked at
in this way: the driver maps no such table for it (log 62). -/

namespace Sys2Proof.Machine

/-- Bits of byte `o` of a record that a write leaves alone: all but those of the RW fields, each by its first bit and its bits. -/
def fixedByte (rw : List (Nat × Nat)) (o : Nat) : Nat :=
  ((List.range 8).map (fun b => if rw.any (fun r => r.1 ≤ 8 * o + b && 8 * o + b < r.1 + r.2) then 0 else 2 ^ b)).sum

/-- Bits `[hi:lo]` of doubleword `d`. -/
def field (d hi lo : Nat) : Nat × Nat := (64 * d + lo, hi - lo + 1)
/-- A ring descriptor from doubleword `d` on (R337). -/
def ringFields (d : Nat) : List (Nat × Nat) := [field d 63 60, field d 56 0, field (d + 1) 63 0]

/-- RW fields of an RCB, by KIND (R299 to R301). -/
def rcbFields (kind : Nat) : List (Nat × Nat) :=
  [field 0 63 60, field 0 47 42, field 1 56 0, field 2 63 10, field 3 63 24, field 4 63 35] ++
  (if kind = 1 then [field 8 63 8, field 8 2 0, field 9 56 0, field 10 56 0, field 11 63 60, field 12 56 0, field 13 56 0, field 14 63 60,
      field 14 56 0, field 15 56 0]
   else if kind = 2 then [field 8 63 0, field 9 63 0, field 10 63 0, field 11 63 0, field 12 63 0, field 13 63 0, field 14 63 0, field 15 63 0]
   else [field 8 56 0, field 9 56 0, field 10 63 0, field 11 63 8, field 12 56 0, field 13 63 60, field 13 56 0])
/-- Of a launch queue's descriptor (R302). -/
def queueFields : List (Nat × Nat) := [field 0 56 0, field 1 47 44, field 3 7 0]
/-- Of a function block and of a machine block (R339). -/
def fnFields : List (Nat × Nat) := [field 0 56 0, field 1 63 32, field 1 5 0, field 2 63 32, field 3 56 0] ++ ringFields 4 ++ ringFields 6
def machFields : List (Nat × Nat) := [field 0 51 12, field 0 0 0] ++ ringFields 1
/-- Of a remote range table entry (R358), without VIRAL, bit 80, which is W1C. -/
def rangeFields : List (Nat × Nat) := [(128, 128), (96, 32), (88, 8), (81, 1), (16, 36), (0, 1)]
def rangeViral : Nat := 80
/-- Of an extent record by its STATE (R362). -/
def extentFields (state : Nat) : List (Nat × Nat) := [(48, 1), (47, 1)] ++ (if state = 1 then [(64, 64)] else [])
/-- Of a tenant record (R363). -/
def tenantFields : List (Nat × Nat) := [field 0 63 0, field 1 16 0, field 2 56 0, field 4 56 0, (512, 512)]

/-- The record of `n` bytes in a table of `k` of them at a base, and the byte in it. -/
def inRecords (base n k a : Nat) : Option (Nat × Nat) :=
  if base ≠ 0 ∧ base ≤ a ∧ a < base + n * k then some ((a - base) / n, (a - base) % n) else none
/-- The same for a table at a base register. -/
def State.inTable (s : State) (off n k a : Nat) : Option (Nat × Nat) := inRecords (s.barReg physFn off).toNat n k a

/-- Records of the table at XTAB (R362). -/
def maxExtents : Nat := 2048

/-- The RCBs that the device knows: of contexts, and of the paths of launches and waves that have not ended. -/
def State.knownNodes (s : State) : List Nat := s.ctxs.map (·.rcb) ++ (s.work.map (fun w => w.path.map Prod.fst)).flatten

/-- Launch queue descriptors of the contexts: the table and how many (R302). -/
def State.queueTables (s : State) : List (Nat × Nat) :=
  s.ctxs.map (fun c => (fld (s.rcbD c.rcb 14) 0 57, fld (s.rcbD c.rcb 14) 60 4 + 1))

/-- The RW fields of the record that holds an address and the byte in it, where one does. -/
def State.recordAt (s : State) (a : Nat) : Option (List (Nat × Nat) × Nat) :=
  let at_ (rw : List (Nat × Nat)) (e : Option (Nat × Nat)) : Option (List (Nat × Nat) × Nat) := e.map (fun x => (rw, x.2))
  (at_ rangeFields (s.inTable 0x130 32 (64 * 65) a)).or <|
  (at_ fnFields (s.inTable 0x100 128 65 a)).or <|
  (at_ machFields (s.inTable 0x108 32 64 a)).or <|
  (if s.fitting = .h then none else
    ((s.inTable 0x150 32 maxExtents a).map (fun x => (extentFields (fld (s.rd ((s.barReg physFn 0x150).toNat + 32 * x.1) 8) 50 3), x.2))).or
      (at_ tenantFields (s.inTable 0x148 256 256 a))).or <|
  (firstSome (fun r => (inRecords r 128 1 a).map (fun x => (rcbFields (s.rcbKind r), x.2))) s.knownNodes).or <|
  firstSome (fun t => at_ queueFields (inRecords t.1 32 t.2 a)) s.queueTables

/-- The byte of a telemetry block at a device address: function blocks from TELBASE on, the device block at index 65, and context
blocks from CTXTEL on (R403 to R405). -/
def State.telByte (s : State) (a : Nat) : Option Byte :=
  let byte (x : Word64) (o : Nat) : Byte := BitVec.ofNat 8 (x.toNat / 2 ^ (8 * (o % 8)))
  match s.inTable 0x2A0 256 66 a, s.inTable 0x2A8 64 65536 a with
  | some (k, o), _ => some (byte (SMap.get 0 s.counters (32 * k + o / 8)) o)
  | none, some (k, o) => some (byte (((s.ctx? k).map (fun c => SMap.get 0 c.counters (o / 8))).getD 0) o)
  | none, none => none
/-- What an access from outside reads: memory, or a telemetry block. No program reads one (R403). -/
def State.outsideRead (s : State) (pa n : Nat) : List Byte := ((s.rdN pa n).zipIdx pa).map (fun e => (s.telByte e.2).getD e.1)

/-- The bits that a write leaves alone at an address, and those that it clears by writing 1; in an extent that is being released
nothing is written (R362). -/
def State.byteRule (s : State) (a : Nat) : Nat × Nat :=
  if s.releasing a ∨ (s.telByte a).isSome then (0xFF, 0)
  else match s.recordAt a with
    | some (rw, o) =>
      let w1c := if rw = rangeFields ∧ o = rangeViral / 8 then 2 ^ (rangeViral % 8) else 0
      (fixedByte rw o - w1c, w1c)
    | none => (0, 0)

/-- The byte that a write leaves at an address. -/
def State.ruled (s : State) (a : Nat) (d : Byte) : Byte :=
  let r := s.byteRule a
  let old := BitVec.ofNat 8 (s.rd a 1)
  let fixed := BitVec.ofNat 8 r.1
  let w1c := BitVec.ofNat 8 r.2
  (old &&& fixed) ||| (old &&& w1c &&& ~~~d) ||| (d &&& ~~~fixed &&& ~~~w1c)

end Sys2Proof.Machine
end

