-- ==== Sys2Proof/Machine/Coherence.lean ====
section
/-! DEFINITION. Coherence with the outside, and errors: directory acknowledgements and recalls (R60, R378), remote lines and
snoops (R360, R381), the CB7-L's filter and CXL.mem (R361, R362), Cerlink peers (R368 to R371), poison, viral mode and lost
expanders (R374 to R377). -/

namespace Sys2Proof.Machine

/-! ### The directory -/

/-- An acknowledgement of a cluster reaches the home: its L1 copies are gone. The last one lets the request go on (R60); in
a recall the entry is rebuilt later (R378). -/
def State.ackLine (s : State) (line cluster : Nat) : State :=
  let e := s.dirEntry line
  if e.acks.contains cluster then
    let s := { s with l1 := s.l1.filter (fun x => !(x.line == line && x.cluster == cluster)) }
    let e := { e with acks := e.acks.filter (· ≠ cluster) }
    (s.setDir (if e.acks.isEmpty && e.recallAt.isNone then e.served else e)).settleLate
  else s

/-- `COARSE_INVALIDATION_ACK`: an acknowledgement of an invalidation, or of a recall, reaches the home (R60, R378). -/
def execCoarseInvalidationAck (line cluster : Nat) (s : State) : Host.Outcome State Fault Refusal := .next (s.ackLine line cluster)

/-- `REMOTE_OWNERSHIP_GRANT`: the home of a remote line grants M (R360). -/
def execRemoteOwnershipGrant (line : Nat) (s : State) : Host.Outcome State Fault Refusal :=
  .next (if s.askedFor line then
    let s := s.fillL2 line
    { s with asked := s.asked.filter (fun e => e.1 ≠ line), remote := SMap.set none s.remote line (some true) }.settleLate
  else s)

/-- Data that the device gives up with a remote line: the bytes where it holds M (R360); none once a fatal error holds the device,
which lets no program write out (R398). -/
def State.heldData (s : State) (half : Nat) : Option (List Byte) :=
  if SMap.get none s.remote (half / 2) = some true ∧ s.boot.fatal.isNone then some (s.rdN (64 * half) 64) else none
/-- The device gives a remote line up; one that a fatal error keeps from leaving is lost, and memory keeps its own bytes. -/
def State.giveUp (s : State) (l : Nat) : State := if s.boot.fatal.isNone then s.uncache l else s.dropCache l
/-- It answers for both halves (R359). -/
def State.answerHalves (t s : State) (l : Nat) : State :=
  (t.emit (.snoopReply (2 * l) (s.heldData (2 * l)))).emit (.snoopReply (2 * l + 1) (s.heldData (2 * l + 1)))

/-- `BACK_INVALIDATE_RECEIVE`: a CB7-H drops the whole line and answers for both halves (R381). -/
def execBackInvalidateReceive (line : Nat) (s : State) : Host.Outcome State Fault Refusal :=
  .next ((s.giveUp (line / 2)).answerHalves s (line / 2))

/-- `CXL_CACHE_SNOOP`: a host's home agent snoops or invalidates a line of host memory. The device holds, gives up and
answers for both halves together (R359, R360). -/
def execCxlCacheSnoop (line : Nat) (invalidate : Bool) (s : State) : Host.Outcome State Fault Refusal :=
  .next (
    let l := line / 2
    let t := if invalidate then s.giveUp l
      else if SMap.get none s.remote l = some true ∧ s.boot.fatal.isNone then
        let t := s.cleanCache l
        { t with remote := SMap.set none t.remote l (some false) }
      else s
    t.answerHalves s l)

/-! ### The CB7-L's snoop filter and CXL.mem -/

/-- Bytes written by an agent outside the device: no L1 of the device keeps another copy. -/
def State.outsideWrite (s : State) (pa : Nat) (l : List Byte) : State :=
  ((linesOf pa l.length).foldl (fun (s : State) k => s.writeL1 noPlace k) s).poke pa l

/-- The same as a write by that agent: the driver's tables keep what it may not change (R6). -/
def State.outsideStore (s : State) (pa : Nat) (l : List Byte) : State := s.outsideWrite pa ((l.zipIdx pa).map (fun e => s.ruled e.2 e.1))

/-- Words of an extent record (R362). -/
def State.extentState (s : State) (a : Nat) : Nat := fld (s.rd a 8) 50 3
def State.extentCoh (s : State) (a : Nat) : Bool := bitN (s.rd a 8) 47

/-- `BACK_INVALIDATE_RESPONSE`: an agent answers for a 64-byte line; data of an M holder becomes memory's value, with the
poison that comes with it (R361, R374). In a recall the entry is rebuilt later (R378). -/
def execBackInvalidateResponse (line agent : Nat) (data : Option (List Byte × Bool)) (s : State) : Host.Outcome State Fault Refusal :=
  .next (
    let e := s.snoopEntry line
    let s := match data with
      | some (l, poison) =>
        if e.owner = some agent && l.length == 64 then
          let t := s.outsideStore (64 * line) l
          if poison then t.poisonLine (line / 2) else t
        else s
      | none => s
    (s.setSnoop { e with awaited := e.awaited.filter (· ≠ agent), sharers := e.sharers.filter (· ≠ agent)
                         owner := if e.owner = some agent then none else e.owner }).settleLate)

/-- The snoop filter of a CB7-L makes room: every holder of the entry's 64-byte line is back-invalidated (R361). -/
def State.evictFilter (s : State) (half : Nat) : State :=
  if s.fitting = .h then s else s.askBoth half ((s.snoopEntry half).mustInvalidate true)

/-- Entries of one half of the filter (R361). -/
def filterHalf : Nat := 2 ^ 23
/-- The other half of a line (R359). -/
def otherHalf (h : Nat) : Nat := h / 2 * 2 + (1 - h % 2)
/-- Entries of a line's half of the filter that are cleared, but whose place is not free yet: the other half of their line has
not been answered for (R381). -/
def State.filterClearing (s : State) (h : Nat) : Nat :=
  (s.snoop.filter (fun e => !e.awaited.isEmpty && Config.bridge (otherHalf e.line) == Config.bridge h && !s.snoop.any (fun d => d.line == otherHalf e.line))).length
/-- Has the filter a place for a 64-byte line: it has an entry, or its half is not full? -/
def State.filterRoom (s : State) (h : Nat) : Bool :=
  decide (2 * s.snoop.length < filterHalf) || s.snoop.any (fun e => e.line == h) ||
  decide ((s.snoop.filter (fun e => Config.bridge e.line == Config.bridge h)).length + s.filterClearing h < filterHalf)
/-- The entry that gives way to a line: the oldest of the half. -/
def State.filterVictim (s : State) (h : Nat) : Nat :=
  ((s.snoop.find? (fun e => Config.bridge e.line == Config.bridge h)).map (·.line)).getD h

/-- Agents that a CB7-L tracks (R359). -/
def trackedAgents : List Nat := List.range 16
/-- Does the filter record what the request takes: one of a tracked agent that keeps a copy (R359, R380)? -/
def isTracked (r : CxlReq) : Bool := trackedAgents.contains r.agent && !r.uncached

/-- Holders other than the requester that must give up a half before an outside access. -/
def State.cxlHolders (s : State) (r : CxlReq) (h : Nat) : List Nat :=
  ((s.snoopEntry h).mustInvalidate (r.write || r.exclusive)).filter (· ≠ r.agent)
/-- Both halves of the request's line. -/
def reqHalves (r : CxlReq) : List Nat := [r.pa / 128 * 2, r.pa / 128 * 2 + 1]
/-- Does the request wait: for answers about either half of its line (R381), or for a place in the filter? -/
def State.cxlWaits (s : State) (r : CxlReq) : Bool :=
  (reqHalves r).any (fun h => (s.snoopEntry h).recallAt.isSome || !(s.snoopEntry h).awaited.isEmpty) ||
  !(s.cxlHolders r (r.pa / 64)).isEmpty || (!r.write && isTracked r && !s.filterRoom (r.pa / 64))

/-- What a request that waits sends. -/
def State.cxlAsk (s : State) (r : CxlReq) : State :=
  let t := s.askBoth (r.pa / 64) (s.cxlHolders r (r.pa / 64))
  if !r.write && isTracked r && !s.filterRoom (r.pa / 64) && s.filterClearing (r.pa / 64) == 0 then t.evictFilter (s.filterVictim (r.pa / 64)) else t

/-- Service of a CXL.mem request to a 64-byte line (R361, R362, R380). -/
def State.cxlServe (s : State) (r : CxlReq) : State :=
  let h := r.pa / 64
  let e := s.snoopEntry h
  let ext := s.extentAt r.pa
  let coh := match ext with
    | some a => s.extentCoh a
    | none => false
  let gone := match ext with
    | some a => s.extentState a == 3
    | none => false
  if gone then s.emit (.cxlReply r.agent (if r.write then some [] else none))
  else if coh && s.cxlWaits r then s.cxlAsk r
  else if r.write then
    let s := s.outsideStore (64 * h) (r.data.take 64)
    let s := (if r.poison then s.poisonLine (h / 2) else s).emit (.cxlReply r.agent (some []))
    if coh then s.setSnoop { e with sharers := e.sharers.filter (· ≠ r.agent), owner := if e.owner = some r.agent then none else e.owner } else s
  else
    let s := s.emit (.cxlReply r.agent (if s.poisoned (64 * h) 64 then none else some (s.outsideRead (64 * h) 64)))
    if !coh || !isTracked r then s
    else if r.exclusive then (s.writeL1 noPlace (h / 2)).setSnoop { e with sharers := [], owner := some r.agent }
    else s.setSnoop { e with sharers := if e.sharers.contains r.agent then e.sharers else e.sharers ++ [r.agent] }

/-- `CXL_MEM_REQUEST`: an outside agent reads or writes memory of a CB7-L (R361). One that must wait for
back-invalidations is served by a later event. -/
def execCxlMemRequest (r : CxlReq) (s : State) : Host.Outcome State Fault Refusal :=
  .next (if s.fitting = .l ∧ r.pa < s.capacity then s.cxlServe r else s)

/-! ### Cerlink peers -/

/-- What the access leaves in memory and answers: none for poison or a refusal (R369). -/
def State.peerServe (s : State) (r : PeerReq) : State × Option (List Byte) :=
  let (pw, ws) := s.pageWorld physFn r.off
  let foreign := pw ≠ r.world ∧ !ws
  let isW := r.write || r.op != 0
  if s.capacity < r.off + r.len then (s, none)
  else if isW && r.prot && foreign then (s, none)
  else if foreign && s.worldProtected pw then (s, if r.write then some [] else none)
  else if r.op ≠ 0 then
    let n := r.ty.bytes
    let old := s.rd r.off n
    if s.poisoned r.off n then (s, none)
    else match (AtomOp.ofCode r.op).new r.ty old (leNat r.data) r.cmp with
      | some v => (s.outsideStore r.off (leBytes n v), some (leBytes n old))
      | none => (s, some (leBytes n old))
  else if r.write then
    let t := s.outsideStore r.off r.data
    (if r.poison then (linesOf r.off r.len).foldl State.poisonLine t else t, some [])
  else (s, if s.poisoned r.off r.len then none else some (s.outsideRead r.off r.len))

/-- `CERLINK_PEER_REQUEST`: a peer's access is checked against the world map and performed (R368 to R371). -/
def execCerlinkPeerRequest (r : PeerReq) (s : State) : Host.Outcome State Fault Refusal :=
  .next (if s.cerlink then
    let (t, a) := s.peerServe r
    t.emit (.peerReply r.peer a)
  else s)

/-! ### Errors (R374, R378) -/

/-- Raise a counter of the device block (R405). -/
def State.countDevice (s : State) (i n : Nat) : State := s.count 65 i n

/-- Clusters that a recall of a line asks: those of its coherence domain, or all (R62, R378). -/
def State.recallClusters (s : State) (line : Nat) : List Nat :=
  match s.pageDomain (line / 512) with
  | some k => ((s.domains[k]?).map (·.clusters)).getD []
  | none => List.range (64 * (match s.fitting with
    | .h => 4
    | .l => 1))

/-- Is the error contained to contexts: not one of a CB7-L's control logic, after which the device is viral (R374, R375, R378)? -/
def errContained : ErrUnit → Bool
  | .line _ | .directory _ | .snoopEntry _ => true
  | .bridge | .snoop => false

/-- `UNCORRECTABLE_ERROR`: a line is poisoned (R374), an entry is recalled (R378), or the device goes viral (R375); UERR counts those
contained to contexts (R405). -/
def execUncorrectableError (u : ErrUnit) (s : State) : Host.Outcome State Fault Refusal :=
  .next (
    let s := if errContained u then s.countDevice 7 1 else s
    match u with
    | .line pa => (s.poisonLine (pa / 128)).logError 0 0 pa
    | .directory line =>
      let e := s.dirEntry line
      let held := match e.requester with
        | some c => [(some c, true)]
        | none => []
      (s.setDir { line := line, recallAt := some s.clock, acks := s.recallClusters line, waiting := held ++ e.waiting }).logError 1 0 (128 * line)
    | .snoopEntry h =>
      trackedAgents.foldl (fun s a => s.emit (.backInvalidate h a))
        ((s.setSnoop { s.snoopEntry h with sharers := trackedAgents, awaited := trackedAgents, recallAt := some s.clock }).logError 2 0 (64 * h))
    | .bridge => if s.fitting = .l then { (s.emit (.viral 0)).logError 3 0 0 with viralDevice := true } else s
    | .snoop => if s.fitting = .l then { (s.emit (.viral 0)).logError 4 0 0 with viralDevice := true } else s)

/-- A recall is over: the entry is rebuilt with DSTATE 0, and the requests that came meanwhile have their turn (R378). -/
def DirEntry.rebuilt (e : DirEntry) : DirEntry := ({ line := e.line, waiting := e.waiting } : DirEntry).served

/-- `RECALL_COMPLETE`: once every cluster has acknowledged, the directory entry is rebuilt. The dirty data of an owner, which
came with its acknowledgement, else the home slice's copy or memory's, is the line's value: the model's memory holds it all the
while, and a dirty line stays modified in the slice. With `filter`, the snoop-filter entry of a 64-byte line is rebuilt once
every agent has answered (R378). -/
def execRecallComplete (line : Nat) (filter : Bool) (s : State) : Host.Outcome State Fault Refusal :=
  .next (
    let e := s.dirEntry line
    let q := s.snoopEntry line
    if filter then if q.recallAt.isSome && q.awaited.isEmpty then (s.setSnoop { line := line }).settleLate else s
    else if e.recallAt.isSome && e.acks.isEmpty then (s.setDir e.rebuilt).settleLate else s)

/-- Has a recall run for 2^20 cycles (R378)? -/
def recallLate (now : Word64) : Option Word64 → Bool
  | some t => decide (2 ^ 20 ≤ (now - t).toNat)
  | none => false

/-- `RECALL_TIMEOUT`: a recall lacks acknowledgements after 2^20 cycles: the line is poisoned and the entry rebuilt (R378). -/
def execRecallTimeout (line : Nat) (s : State) : Host.Outcome State Fault Refusal :=
  .next (
    let late := recallLate s.clock
    let s := if late (s.dirEntry line).recallAt then ((s.uncache line).setDir (s.dirEntry line).rebuilt).poisonLine line else s
    ([2 * line, 2 * line + 1].foldl (fun s h => if late (s.snoopEntry h).recallAt then (s.setSnoop { line := h }).poisonLine line else s) s).settleLate)

/-- `OUTSIDE_AGENT_DEATH`: lines whose only modified copy an outside agent held are poisoned (R374). -/
def execOutsideAgentDeath (agent : Nat) (s : State) : Host.Outcome State Fault Refusal :=
  .next (
    let lost := s.snoop.filter (fun e => e.owner == some agent)
    let s := lost.foldl (fun s e => s.poisonLine (e.line / 2)) s
    { s with snoop := s.snoop.map (fun (e : SnoopEntry) =>
        { e with owner := if e.owner = some agent then none else e.owner, sharers := e.sharers.filter (· ≠ agent)
                 awaited := e.awaited.filter (· ≠ agent) }) }.settleLate)

/-! ### Viral mode and lost expanders (R375, R376) -/

/-- Valid entries of every remote range table: function, address of the entry, first address, bytes. -/
def State.ranges (s : State) : List (Nat × Nat × Nat × Nat) :=
  ((List.range 65).map (fun fn => (List.range 64).filterMap (fun i =>
    let e := s.rrt fn i
    let d0 := s.rd e 8
    if bitN d0 0 then some (fn, e, fld d0 16 36 * 2 ^ 16, fld (s.rd (e + 8) 8) 32 32 * 2 ^ 16) else none))).flatten

/-- Contexts of a function. -/
def State.ctxsOf (s : State) (fn : Nat) : List Nat := (s.ctxs.filter (fun c => s.ctxFn c.num == fn)).map (·.num)

/-- Side-log entries of a context's groups, resident or saved, to addresses of which `p` holds are discarded. -/
def State.dropLogs (s : State) (ctx : Nat) (p : Nat → Bool) : State :=
  let keep (w : Workgroup) (g : Group) : Group :=
    if w.ctx = ctx then
      { g with sideLog := g.sideLog.filter (fun e => match s.translate w.fn ctx (e.line.toNat * 128) .write w.place with
        | .ok x => !p x.pa
        | .error _ => true) }
    else g
  { s with groups := s.groups.map (fun (g : Group) => keep (s.wg g.wid) g)
           saved := s.saved.map (fun (i : Saved) => { i with groups := i.groups.map (keep i.wg) }) }

/-- `VIRAL_EVENT_RECEIVE`: a CB7-H learns that `pages` 64 KiB pages from `base` on are viral: entries are marked, their
contexts' outbound writes are dropped, and they take VIRAL (R375). -/
def execViralEventReceive (base pages : Nat) (s : State) : Host.Outcome State Fault Refusal :=
  .next (if s.fitting = .h then
    let hit := s.ranges.filter (fun r => r.2.2.1 < base + pages * 65536 && base < r.2.2.1 + r.2.2.2)
    hit.foldl (fun s r =>
      let s := s.wr (r.2.1 + 8) 8 (putFld (s.rd (r.2.1 + 8) 8) 16 1 1)
      (s.ctxsOf r.1).foldl (fun s c =>
        ((s.modCtx c (fun c => { c with blocked := true })).dropLogs c (fun pa => paTarget pa != 0)).raiseCtx c cViral (n64 r.2.2.1)) s) s
  else s)

/-- `OUTRESUME`: a context's outbound writes resume once no entry of its function is viral (R375). -/
def execOutresume (value : Word64) (s : State) : Host.Outcome State Fault Refusal :=
  .next (
    let c := fld value.toNat 0 16
    if (List.range 64).any (fun i => bitN (s.rd (s.rrt (s.ctxFn c) i + 8) 8) 16) then s else s.modCtx c (fun c => { c with blocked := false }))

/-- A group's loads that a lost expander has not answered complete with poison (R376): their data is in registers since the
issue (log 3), so the group takes DATA_POISON at its next clause boundary (log 47). -/
def State.poisonLoads (s : State) (k : Nat) : State :=
  s.groups.foldl (fun s g =>
    let hit := (((g.flights.filter (fun f => f.kind == .load)).map (·.ext)).flatten).filter (fun e => e.1 == k)
    let s := match hit with
      | e :: _ => s.raise g.gid cPoison e.2.1
      | [] => s
    s.modGroup g.gid (fun g => { g with flights := g.flights.map (fun (f : Flight) => { f with ext := f.ext.filter (fun e => e.1 != k) }) })) s

/-- Does a range of `n` bytes of addresses hold one that lies on expander `k`: an address of one of its 64 KiB pages (log 8)? -/
def onExpander (k pa n : Nat) : Bool :=
  (List.range (n / 65536)).any (fun i => paTarget (pa + 65536 * i) == 1 && expanderOf (pa + 65536 * i) == k)

/-- Expander `k` is lost (R376): its lines leave the caches without write-back, logged writes to it are discarded, and every
context that maps it takes EXPANDER_LOST. -/
def State.loseExpander (s : State) (k : Nat) : State :=
  let on (pa : Nat) : Bool := paTarget pa == 1 && expanderOf pa == k
  let hit := s.ranges.filter (fun r => Sys2Proof.Machine.onExpander k r.2.2.1 r.2.2.2)
  let s := (s.modified.filter (fun e => on (128 * e.1))).foldl (fun s e => s.poke (128 * e.1) e.2) s
  let s := { s with
    lost := if s.lost.contains k then s.lost else s.lost ++ [k]
    modified := s.modified.filter (fun e => !on (128 * e.1))
    l1 := s.l1.filter (fun e => !on (128 * e.line))
    l2 := s.l2.filter (fun l => !on (128 * l))
    remote := s.remote.filter (fun e => !on (128 * e.1))
    dir := s.dir.filter (fun e => !on (128 * e.line))
    asked := s.asked.filter (fun e => !on (128 * e.1)) }
  (hit.foldl (fun s r => (s.ctxsOf r.1).foldl (fun s c => (s.dropLogs c on).raiseCtx c cLost (n64 r.2.2.1)) s) (s.poisonLoads k)).settleLate

/-- `EXPANDER_LINK_DOWN`: the link of an expander goes down, or that of a port, from 16 on, with every expander behind it
(R359, R376). -/
def execExpanderLinkDown (expander : Nat) (s : State) : Host.Outcome State Fault Refusal :=
  .next (if expander < 16 then s.loseExpander expander
  else if expander < 20 then (List.range 4).foldl (fun s u => s.loseExpander (4 * (expander - 16) + u)) s
  else s)

/-- Has an expander left a request, of a group or for the ownership of a line, unanswered for 2^26 cycles (R376)? -/
def State.expanderLate (s : State) (k : Nat) : Bool :=
  s.asked.any (fun e => paTarget (128 * e.1) == 1 && expanderOf (128 * e.1) == k && decide (2 ^ 26 ≤ (s.clock - e.2).toNat)) ||
  s.groups.any (fun g => g.flights.any (fun f => f.ext.any (fun e => e.1 == k && decide (2 ^ 26 ≤ (s.clock - e.2.2).toNat))))

/-- `EXPANDER_TIMEOUT`: a request to an expander has no completion within 2^26 cycles (R376). -/
def execExpanderTimeout (expander : Nat) (s : State) : Host.Outcome State Fault Refusal :=
  .next (if expander < 16 ∧ s.expanderLate expander then s.loseExpander expander else s)

end Sys2Proof.Machine
end

