-- ==== Sys2Proof/Machine/Scalar.lean ====
section
/-! DEFINITION. Scalar and uniform arithmetic: majors 0x01 to 0x03 (R173 to R177). -/

namespace Sys2Proof.Machine

/-- A result that no operand makes trap. -/
def pureU (op : Word64 → Word64 → Word64) : State → Word64 → Word64 → Except Stop Word64 := fun _ a b => .ok (op a b)

/-- Quotient and remainder of R89 at 64 bits; signed division truncates, and its overflow wraps. -/
def sQuot (signed : Bool) (a b : Word64) : Word64 := if b = 0 then BitVec.allOnes 64 else if signed then a.sdiv b else a / b
def sRem (signed : Bool) (a b : Word64) : Word64 := if b = 0 then a else if signed then a.srem b else a % b

/-- A division traps on a zero divisor where DIVTRAP is set (R89, R174). -/
def divU (op : Word64 → Word64 → Word64) : State → Word64 → Word64 → Except Stop Word64 := fun s a b =>
  if b = 0 ∧ s.cw.divtrap then trapAt s cDivide 0 else .ok (op a b)

/-- Bits [127:64] of a product (R174). -/
def mulHiS (a b : Word64) : Word64 := w64 (a.toInt * b.toInt / (2 ^ 64 : Nat))
def mulHiU (a b : Word64) : Word64 := n64 (a.toNat * b.toNat / 2 ^ 64)

/-- A shift count (R175). -/
def shiftOf (b : Word64) : Nat := b.toNat % 64

/-- Leading and trailing zero bits of a word of any width. -/
def leadZeros {w : Nat} (a : BitVec w) : Nat := ((firstIdx (fun i => a.getLsbD (w - 1 - i)) (List.range w) 0)).getD w
def trailZeros {w : Nat} (a : BitVec w) : Nat := ((firstIdx (fun i => a.getLsbD i) (List.range w) 0)).getD w
/-- Bit `i` moved to bit `w - 1 - i`. -/
def bitRev {w : Nat} (a : BitVec w) : BitVec w := BitVec.ofNat w (((List.range w).map (fun i => b2n (a.getLsbD (w - 1 - i)) * 2 ^ i)).sum)

/-- Position and bit count of the field that `b` names (R176). -/
def fieldPos (b : Word64) : Nat := fld b.toNat 0 6
def fieldBits (b : Word64) : Nat := min (min (fld b.toNat 8 7) 64) (64 - fieldPos b)
/-- Field extract (R176). -/
def sBfx (signed : Bool) (a b : Word64) : Word64 :=
  let n := fieldBits b
  let x := fld a.toNat (fieldPos b) n
  if n = 0 then 0 else if signed then w64 (sx n x) else n64 x
/-- Field insert into `d` (R176). -/
def sBfi (d a b : Word64) : Word64 :=
  let n := fieldBits b
  if n = 0 then d else n64 (putFld d.toNat (fieldPos b) n a.toNat)

def flagW (b : Bool) : Word64 := if b then 1 else 0

/-- `SADD`: a + b (R174). -/
def execSadd (f : FmtU) (s : State) : Host.Outcome State Fault Refusal :=
  issue (.sadd f) s (scalarBody (.sadd f) f true false (pureU (fun a b => a + b)))

/-- `SSUB`: a - b (R174). -/
def execSsub (f : FmtU) (s : State) : Host.Outcome State Fault Refusal :=
  issue (.ssub f) s (scalarBody (.ssub f) f true false (pureU (fun a b => a - b)))

/-- `SMUL`: the low 64 bits of a × b (R174). -/
def execSmul (f : FmtU) (s : State) : Host.Outcome State Fault Refusal :=
  issue (.smul f) s (scalarBody (.smul f) f true false (pureU (fun a b => a * b)))

/-- `SMULHS`: bits [127:64] of the signed product (R174). -/
def execSmulhs (f : FmtU) (s : State) : Host.Outcome State Fault Refusal :=
  issue (.smulhs f) s (scalarBody (.smulhs f) f true false (pureU mulHiS))

/-- `SMULHU`: bits [127:64] of the unsigned product (R174). -/
def execSmulhu (f : FmtU) (s : State) : Host.Outcome State Fault Refusal :=
  issue (.smulhu f) s (scalarBody (.smulhu f) f false false (pureU mulHiU))

/-- `SDIVS`: signed quotient (R89, R174). -/
def execSdivs (f : FmtU) (s : State) : Host.Outcome State Fault Refusal :=
  issue (.sdivs f) s (scalarBody (.sdivs f) f true false (divU (sQuot true)))

/-- `SDIVU`: unsigned quotient (R89, R174). -/
def execSdivu (f : FmtU) (s : State) : Host.Outcome State Fault Refusal :=
  issue (.sdivu f) s (scalarBody (.sdivu f) f false false (divU (sQuot false)))

/-- `SREMS`: signed remainder (R89, R174). -/
def execSrems (f : FmtU) (s : State) : Host.Outcome State Fault Refusal :=
  issue (.srems f) s (scalarBody (.srems f) f true false (divU (sRem true)))

/-- `SREMU`: unsigned remainder (R89, R174). -/
def execSremu (f : FmtU) (s : State) : Host.Outcome State Fault Refusal :=
  issue (.sremu f) s (scalarBody (.sremu f) f false false (divU (sRem false)))

/-- `SMINS`: the lesser signed value (R174). -/
def execSmins (f : FmtU) (s : State) : Host.Outcome State Fault Refusal :=
  issue (.smins f) s (scalarBody (.smins f) f true false (pureU (fun a b => if sltB b a then b else a)))

/-- `SMINU`: the lesser unsigned value (R174). -/
def execSminu (f : FmtU) (s : State) : Host.Outcome State Fault Refusal :=
  issue (.sminu f) s (scalarBody (.sminu f) f false false (pureU (fun a b => if ultB b a then b else a)))

/-- `SMAXS`: the greater signed value (R174). -/
def execSmaxs (f : FmtU) (s : State) : Host.Outcome State Fault Refusal :=
  issue (.smaxs f) s (scalarBody (.smaxs f) f true false (pureU (fun a b => if sltB a b then b else a)))

/-- `SMAXU`: the greater unsigned value (R174). -/
def execSmaxu (f : FmtU) (s : State) : Host.Outcome State Fault Refusal :=
  issue (.smaxu f) s (scalarBody (.smaxu f) f false false (pureU (fun a b => if ultB a b then b else a)))

/-- `SAND`: a AND b (R175). -/
def execSand (f : FmtU) (s : State) : Host.Outcome State Fault Refusal :=
  issue (.sand f) s (scalarBody (.sand f) f false false (pureU (fun a b => a &&& b)))

/-- `SOR`: a OR b (R175). -/
def execSor (f : FmtU) (s : State) : Host.Outcome State Fault Refusal :=
  issue (.sor f) s (scalarBody (.sor f) f false false (pureU (fun a b => a ||| b)))

/-- `SXOR`: a XOR b (R175). -/
def execSxor (f : FmtU) (s : State) : Host.Outcome State Fault Refusal :=
  issue (.sxor f) s (scalarBody (.sxor f) f false false (pureU (fun a b => a ^^^ b)))

/-- `SANDN`: a AND NOT b (R175). -/
def execSandn (f : FmtU) (s : State) : Host.Outcome State Fault Refusal :=
  issue (.sandn f) s (scalarBody (.sandn f) f false false (pureU (fun a b => a &&& ~~~b)))

/-- `SSHL`: a shifted left by b[5:0] (R175). -/
def execSshl (f : FmtU) (s : State) : Host.Outcome State Fault Refusal :=
  issue (.sshl f) s (scalarBody (.sshl f) f false false (pureU (fun a b => a <<< shiftOf b)))

/-- `SSHR`: a shifted right by b[5:0], zero-filled (R175). -/
def execSshr (f : FmtU) (s : State) : Host.Outcome State Fault Refusal :=
  issue (.sshr f) s (scalarBody (.sshr f) f false false (pureU (fun a b => a >>> shiftOf b)))

/-- `SSRA`: a shifted right by b[5:0], filled with a[63] (R175). -/
def execSsra (f : FmtU) (s : State) : Host.Outcome State Fault Refusal :=
  issue (.ssra f) s (scalarBody (.ssra f) f false false (pureU (fun a b => a.sshiftRight (shiftOf b))))

/-- `SROL`: a rotated left by b[5:0] (R175). -/
def execSrol (f : FmtU) (s : State) : Host.Outcome State Fault Refusal :=
  issue (.srol f) s (scalarBody (.srol f) f false false (pureU (fun a b => a.rotateLeft (shiftOf b))))

/-- `SPOPC`: number of one bits (R175). -/
def execSpopc (f : FmtU) (s : State) : Host.Outcome State Fault Refusal :=
  issue (.spopc f) s (scalarBody (.spopc f) f false true (pureU (fun a _ => n64 (popcount a))))

/-- `SCLZ`: leading zero bits; 64 for 0 (R175). -/
def execSclz (f : FmtU) (s : State) : Host.Outcome State Fault Refusal :=
  issue (.sclz f) s (scalarBody (.sclz f) f false true (pureU (fun a _ => n64 (leadZeros a))))

/-- `SCTZ`: trailing zero bits; 64 for 0 (R175). -/
def execSctz (f : FmtU) (s : State) : Host.Outcome State Fault Refusal :=
  issue (.sctz f) s (scalarBody (.sctz f) f false true (pureU (fun a _ => n64 (trailZeros a))))

/-- `SBREV`: bit i moved to bit 63 - i (R175). -/
def execSbrev (f : FmtU) (s : State) : Host.Outcome State Fault Refusal :=
  issue (.sbrev f) s (scalarBody (.sbrev f) f false true (pureU (fun a _ => bitRev a)))

/-- `SBFX`: field extract, zero-extended (R176). -/
def execSbfx (f : FmtU) (s : State) : Host.Outcome State Fault Refusal :=
  issue (.sbfx f) s (scalarBody (.sbfx f) f false false (pureU (sBfx false)))

/-- `SBFXS`: field extract, sign-extended (R176). -/
def execSbfxs (f : FmtU) (s : State) : Host.Outcome State Fault Refusal :=
  issue (.sbfxs f) s (scalarBody (.sbfxs f) f false false (pureU (sBfx true)))

/-- The third source of SBFI; where SD names no scalar register there is nothing to insert into: a free value (log 2). -/
def State.insertBase (s : State) (d : UDst) : Word64 := match d with
  | .s r => s.sreg r.val
  | _ => s.free 64 0

/-- `SBFI`: field insert into sd (R176). -/
def execSbfi (f : FmtU) (s : State) : Host.Outcome State Fault Refusal :=
  issue (.sbfi f) s (scalarBody (.sbfi f) f false false (fun s a b => .ok (sBfi (s.insertBase f.sd) a b)))

/-- `SMOV`: move (R177). -/
def execSmov (f : FmtU) (s : State) : Host.Outcome State Fault Refusal :=
  issue (.smov f) s (scalarBody (.smov f) f true true (pureU (fun a _ => a)))

/-- `SSEQ`: 1 if equal, else 0 (R177). -/
def execSseq (f : FmtU) (s : State) : Host.Outcome State Fault Refusal :=
  issue (.sseq f) s (scalarBody (.sseq f) f true false (pureU (fun a b => flagW (a == b))))

/-- `SSNE`: 1 if not equal, else 0 (R177). -/
def execSsne (f : FmtU) (s : State) : Host.Outcome State Fault Refusal :=
  issue (.ssne f) s (scalarBody (.ssne f) f true false (pureU (fun a b => flagW (a != b))))

/-- `SSLTS`: 1 if less as signed values (R177). -/
def execSslts (f : FmtU) (s : State) : Host.Outcome State Fault Refusal :=
  issue (.sslts f) s (scalarBody (.sslts f) f true false (pureU (fun a b => flagW (sltB a b))))

/-- `SSLTU`: 1 if less as unsigned values (R177). -/
def execSsltu (f : FmtU) (s : State) : Host.Outcome State Fault Refusal :=
  issue (.ssltu f) s (scalarBody (.ssltu f) f false false (pureU (fun a b => flagW (ultB a b))))

/-- `SSLES`: 1 if less or equal as signed values (R177). -/
def execSsles (f : FmtU) (s : State) : Host.Outcome State Fault Refusal :=
  issue (.ssles f) s (scalarBody (.ssles f) f true false (pureU (fun a b => flagW (!sltB b a))))

/-- `SSLEU`: 1 if less or equal as unsigned values (R177). -/
def execSsleu (f : FmtU) (s : State) : Host.Outcome State Fault Refusal :=
  issue (.ssleu f) s (scalarBody (.ssleu f) f false false (pureU (fun a b => flagW (!ultB b a))))

end Sys2Proof.Machine
end

