-- ==== Sys2Proof/Machine/VectorInt.lean ====
section
/-! DEFINITION. Majors 0x08 and 0x09: vector integer arithmetic and bit operations (R243 to R246). -/

namespace Sys2Proof.Machine

/-- The number that the low bits of an element stand for, by the signedness of its type (R88). -/
def intVal (ty : Ty) (x : Nat) : Int := if ty.isSigned then sx ty.width x else (x % 2 ^ ty.width : Nat)
/-- The range of an integer type (R88). -/
def intLo (ty : Ty) : Int := if ty.isSigned then -(2 ^ (ty.width - 1) : Nat) else 0
def intHi (ty : Ty) : Int := if ty.isSigned then (2 ^ (ty.width - 1) : Nat) - 1 else (2 ^ ty.width : Nat) - 1
def clampInt (ty : Ty) (v : Int) : Int := max (intLo ty) (min (intHi ty) v)
/-- An exact integer result: clamped under `.sat`, else wrapped; extended as its register holds it (R88, R243, R245). -/
def intRes (ty : Ty) (sat : Bool) (v : Int) : Word64 :=
  let v := if sat then clampInt ty v else v
  packTy ty (v % (2 ^ ty.width : Nat)).toNat

/-- The frame of integer arithmetic on two sources. -/
def int2 (i : Instr) (f : FmtV) (op : Int → Int → Int) : State → Exec :=
  vecBody i f.g f.vd f.ty [srcA f f.ty, srcB f f.ty] (fun _ _ l => intRes f.ty f.sat (op (intVal f.ty (l.getD 0 0)) (intVal f.ty (l.getD 1 0))))
/-- The same on three. -/
def int3 (i : Instr) (f : FmtV) (op : Int → Int → Int → Int) : State → Exec :=
  vecBody i f.g f.vd f.ty [srcA f f.ty, srcB f f.ty, srcC f f.ty]
    (fun _ _ l => intRes f.ty f.sat (op (intVal f.ty (l.getD 0 0)) (intVal f.ty (l.getD 1 0)) (intVal f.ty (l.getD 2 0))))
/-- The same on one. -/
def int1 (i : Instr) (f : FmtV) (op : Int → Int) : State → Exec :=
  vecBody i f.g f.vd f.ty [srcA f f.ty] (fun _ _ l => intRes f.ty f.sat (op (intVal f.ty (l.getD 0 0))))

/-- The frame of IDIV and IREM: the trap of R89 is taken before any destination is written. -/
def divBody (i : Instr) (f : FmtV) (op : Int → Int → Int) (s : State) : Exec :=
  (s.dstCheck f.vd (regCount f.ty)).bind fun s =>
  let m := s.gmask f.g
  (s.prepAll i (threads m) [srcA f f.ty, srcB f f.ty]).bind fun (s, os) =>
  let a (t : Nat) : Int := intVal f.ty ((os.getD 0 (.const 0)).read s.cg f.ty t)
  let b (t : Nat) : Int := intVal f.ty ((os.getD 1 (.const 0)).read s.cg f.ty t)
  match (threads m).find? (fun t => s.cw.divtrap && b t == 0) with
  | some t => trapThr s cDivide (n64 t) t
  | none => s.writeDst f.vd f.ty.is64 ((s.visit m).map (fun t => (t, intRes f.ty false (op (a t) (b t)))))

/-- Quotient and remainder of R89: truncated, all ones and the dividend for a zero divisor. -/
def quotInt (a b : Int) : Int := if b = 0 then -1 else Int.tdiv a b
def remInt (a b : Int) : Int := if b = 0 then a else Int.tmod a b

/-- The frame of a bit operation (R246). A shift count or field is read from the first register of SB. -/
def bitBody (i : Instr) (f : FmtV) (dst : Ty) (srcs : List Src) (op : List Nat → Nat) : State → Exec :=
  vecBody i f.g f.vd dst srcs (fun _ _ l => packTy dst (op l))

/-- Rotation of a `w`-bit word to the left. -/
def rotl (w x k : Nat) : Nat := let k := k % w; (x * 2 ^ k % 2 ^ w) + x / 2 ^ (w - k)
/-- Position and size of the field of R176 over `w` bits. -/
def bfPos (b : Nat) : Nat := fld b 0 6
def bfLen (w b : Nat) : Nat := min (fld b 8 7) (w - bfPos b)
/-- LOP3: bit `i` is AUX[4a + 2b + c] (R246). -/
def lop3Of (aux w a b c : Nat) : Nat :=
  ((List.range w).map (fun i => b2n (bitN aux (4 * b2n (bitN a i) + 2 * b2n (bitN b i) + b2n (bitN c i))) * 2 ^ i)).sum

/-- `IADD`: a + b (R245). -/
def execIadd (f : FmtV) (s : State) : Host.Outcome State Fault Refusal :=
  issue (.iadd f) s (int2 (.iadd f) f (fun a b => a + b))

/-- `ISUB`: a - b (R245). -/
def execIsub (f : FmtV) (s : State) : Host.Outcome State Fault Refusal :=
  issue (.isub f) s (int2 (.isub f) f (fun a b => a - b))

/-- `IMUL`: the low bits of a × b, or the product clamped (R245). -/
def execImul (f : FmtV) (s : State) : Host.Outcome State Fault Refusal :=
  issue (.imul f) s (int2 (.imul f) f (fun a b => a * b))

/-- `IMULHI`: the high half of the exact product (R245). -/
def execImulhi (f : FmtV) (s : State) : Host.Outcome State Fault Refusal :=
  issue (.imulhi f) s (int2 (.imulhi f) f (fun a b => a * b / (2 ^ f.ty.width : Nat)))

/-- `IMAD`: a × b + c (R245). -/
def execImad (f : FmtV) (s : State) : Host.Outcome State Fault Refusal :=
  issue (.imad f) s (int3 (.imad f) f (fun a b c => a * b + c))

/-- `IDIV`: quotient (R89, R245). -/
def execIdiv (f : FmtV) (s : State) : Host.Outcome State Fault Refusal :=
  issue (.idiv f) s (divBody (.idiv f) f quotInt)

/-- `IREM`: remainder (R89, R245). -/
def execIrem (f : FmtV) (s : State) : Host.Outcome State Fault Refusal :=
  issue (.irem f) s (divBody (.irem f) f remInt)

/-- `IMIN`: the lesser (R245). -/
def execImin (f : FmtV) (s : State) : Host.Outcome State Fault Refusal :=
  issue (.imin f) s (int2 (.imin f) f min)

/-- `IMAX`: the greater (R245). -/
def execImax (f : FmtV) (s : State) : Host.Outcome State Fault Refusal :=
  issue (.imax f) s (int2 (.imax f) f max)

/-- `IABS`: |a|; the most negative value returns itself (R245). -/
def execIabs (f : FmtV) (s : State) : Host.Outcome State Fault Refusal :=
  issue (.iabs f) s (int1 (.iabs f) f (fun a => a.natAbs))

/-- `INEG`: 0 - a (R245). -/
def execIneg (f : FmtV) (s : State) : Host.Outcome State Fault Refusal :=
  issue (.ineg f) s (int1 (.ineg f) f (fun a => -a))

/-- `ISAD`: |a - b| + c (R245). -/
def execIsad (f : FmtV) (s : State) : Host.Outcome State Fault Refusal :=
  issue (.isad f) s (int3 (.isad f) f (fun a b c => (a - b).natAbs + c))

/-- `AND`: a AND b (R246). -/
def execAnd (f : FmtV) (s : State) : Host.Outcome State Fault Refusal :=
  issue (.and f) s (bitBody (.and f) f f.ty [srcA f f.ty, srcB f f.ty] (fun l => (l.getD 0 0) &&& (l.getD 1 0)))

/-- `OR`: a OR b (R246). -/
def execOr (f : FmtV) (s : State) : Host.Outcome State Fault Refusal :=
  issue (.or f) s (bitBody (.or f) f f.ty [srcA f f.ty, srcB f f.ty] (fun l => (l.getD 0 0) ||| (l.getD 1 0)))

/-- `XOR`: a XOR b (R246). -/
def execXor (f : FmtV) (s : State) : Host.Outcome State Fault Refusal :=
  issue (.xor f) s (bitBody (.xor f) f f.ty [srcA f f.ty, srcB f f.ty] (fun l => (l.getD 0 0) ^^^ (l.getD 1 0)))

/-- `NOT`: NOT a (R246). -/
def execNot (f : FmtV) (s : State) : Host.Outcome State Fault Refusal :=
  issue (.not f) s (bitBody (.not f) f f.ty [srcA f f.ty] (fun l => 2 ^ f.ty.width - 1 - (l.getD 0 0)))

/-- `SHL`: a shifted left by b mod w (R246). -/
def execShl (f : FmtV) (s : State) : Host.Outcome State Fault Refusal :=
  issue (.shl f) s (bitBody (.shl f) f f.ty [srcA f f.ty, srcB f .n32] (fun l => (l.getD 0 0) * 2 ^ ((l.getD 1 0) % f.ty.width)))

/-- `SHR`: a shifted right by b mod w, filled by type (R246). -/
def execShr (f : FmtV) (s : State) : Host.Outcome State Fault Refusal :=
  issue (.shr f) s (bitBody (.shr f) f f.ty [srcA f f.ty, srcB f .n32] (fun l => (intVal f.ty (l.getD 0 0) / (2 ^ ((l.getD 1 0) % f.ty.width) : Nat) % (2 ^ f.ty.width : Nat)).toNat))

/-- `ROL`: a rotated left by b mod w (R246). -/
def execRol (f : FmtV) (s : State) : Host.Outcome State Fault Refusal :=
  issue (.rol f) s (bitBody (.rol f) f f.ty [srcA f f.ty, srcB f .n32] (fun l => rotl f.ty.width (l.getD 0 0) (l.getD 1 0)))

/-- `POPC`: one bits of a, as `.n32` (R246). -/
def execPopc (f : FmtV) (s : State) : Host.Outcome State Fault Refusal :=
  issue (.popc f) s (bitBody (.popc f) f .n32 [srcA f f.ty] (fun l => ((List.range f.ty.width).filter (bitN (l.getD 0 0))).length))

/-- `CLZ`: leading zeros of a, as `.n32` (R246). -/
def execClz (f : FmtV) (s : State) : Host.Outcome State Fault Refusal :=
  issue (.clz f) s (bitBody (.clz f) f .n32 [srcA f f.ty] (fun l => leadZeros (BitVec.ofNat f.ty.width (l.getD 0 0))))

/-- `BREV`: bit i of a moved to bit w - 1 - i (R246). -/
def execBrev (f : FmtV) (s : State) : Host.Outcome State Fault Refusal :=
  issue (.brev f) s (bitBody (.brev f) f f.ty [srcA f f.ty] (fun l => (bitRev (BitVec.ofNat f.ty.width (l.getD 0 0))).toNat))

/-- `BFX`: field extract (R176, R246). -/
def execBfx (f : FmtV) (s : State) : Host.Outcome State Fault Refusal :=
  issue (.bfx f) s (bitBody (.bfx f) f f.ty [srcA f f.ty, srcB f .n32] (fun l =>
    let n := bfLen f.ty.width (l.getD 1 0)
    let v := fld (l.getD 0 0) (bfPos (l.getD 1 0)) n
    if f.ty.isSigned then (sx n v % (2 ^ f.ty.width : Nat)).toNat else v))

/-- `BFI`: c with the field replaced by the low bits of a (R176, R246). -/
def execBfi (f : FmtV) (s : State) : Host.Outcome State Fault Refusal :=
  issue (.bfi f) s (bitBody (.bfi f) f f.ty [srcA f f.ty, srcB f .n32, srcC f f.ty] (fun l =>
    let n := bfLen f.ty.width (l.getD 1 0)
    if n = 0 then (l.getD 2 0) else putFld (l.getD 2 0) (bfPos (l.getD 1 0)) n (l.getD 0 0)))

/-- `LOP3`: three-input logic by the table in AUX (R246). -/
def execLop3 (f : FmtV) (s : State) : Host.Outcome State Fault Refusal :=
  issue (.lop3 f) s (bitBody (.lop3 f) f f.ty [srcA f f.ty, srcB f f.ty, srcC f f.ty] (fun l => lop3Of f.aux.toNat f.ty.width (l.getD 0 0) (l.getD 1 0) (l.getD 2 0)))

end Sys2Proof.Machine
end

