-- ==== Sys2Proof/Machine/FloatOps.lean ====
section
/-! DEFINITION. Major 0x0A: vector floating-point arithmetic (R91 to R95, R247), and the frame of instructions that round in
mode RND (R93). -/

namespace Sys2Proof.Machine

/-- The bits that rounding a value in a mode uses, and the generator after it: a finite element draws once in mode 4
(R93); an infinity and a NaN are not rounded. -/
def drawFor (mode : Rnd) (v : FVal) (sr : BitVec 32) : Nat × BitVec 32 := match mode, v with
  | .rs, .fin _ _ _ => (srBits (srNext sr), srNext sr)
  | _, _ => (0, sr)

/-- Apply an operation that may draw to the elements in order (R93). -/
def drawAll {α β σ : Type} (op : α → σ → β × σ) : List α → σ → List β × σ
  | [], sr => ([], sr)
  | x :: l, sr =>
    let (y, sr) := op x sr
    let (ys, sr) := drawAll op l sr
    (y :: ys, sr)

/-- The frame of a one-source instruction that rounds in mode RND: threads draw in ascending order. -/
def drawBody (i : Instr) (f : FmtV) (srcTy : Ty) (op : Nat → BitVec 32 → Word64 × BitVec 32) (s : State) : Exec :=
  (s.dstCheck f.vd (regCount f.ty)).bind fun s =>
  let m := s.gmask f.g
  (s.prepAll i (threads m) [⟨1, f.sa, srcTy⟩]).bind fun (s, os) =>
  let (vals, sr) := drawAll (fun t sr =>
    let (y, sr) := op ((os.getD 0 (.const 0)).read s.cg srcTy t) sr
    ((t, y), sr)) (threads m) s.cg.srstate
  (s.writeDst f.vd f.ty.is64 ((s.visit m).map (fun t => (t, ((vals.find? (fun v => v.1 == t)).map Prod.snd).getD 0)))).bind fun s =>
  .ok (s.modCg (fun g => { g with srstate := sr }))

/-- The frame of floating-point arithmetic: exact, then one rounding (R94, R95, R247). -/
def flt1 (i : Instr) (f : FmtV) (op : FVal → FVal) : State → Exec :=
  vecBody i f.g f.vd f.ty [srcA f f.ty] (fun _ _ l => packTy f.ty (arithTo f.ty (op (decTy f.ty (l.getD 0 0)))))
def flt2 (i : Instr) (f : FmtV) (op : FVal → FVal → FVal) : State → Exec :=
  vecBody i f.g f.vd f.ty [srcA f f.ty, srcB f f.ty]
    (fun _ _ l => packTy f.ty (arithTo f.ty (op (decTy f.ty (l.getD 0 0)) (decTy f.ty (l.getD 1 0)))))
def flt3 (i : Instr) (f : FmtV) (op : FVal → FVal → FVal → FVal) : State → Exec :=
  vecBody i f.g f.vd f.ty [srcA f f.ty, srcB f f.ty, srcC f f.ty]
    (fun _ _ l => packTy f.ty (arithTo f.ty (op (decTy f.ty (l.getD 0 0)) (decTy f.ty (l.getD 1 0)) (decTy f.ty (l.getD 2 0)))))

/-- A result of a 16-bit type below its least normal number is a zero of its sign (R94); other codes stay. -/
def flushCode (ty : Ty) (a : Nat) : Nat :=
  let f := ffmt ty
  if (ty == .f16 || ty == .bf16) && fld a f.mw f.ew == 0 then a / 2 ^ (f.ew + f.mw) * 2 ^ (f.ew + f.mw) else a

/-- Minimum and maximum return one of their operands (R91); 16-bit types follow R94 (R247). -/
def minMaxCode (ty : Ty) (isMax : Bool) (a b : Nat) : Nat := match pickFirst isMax (decTy ty a) (decTy ty b) with
  | none => (ffmt ty).canonical
  | some true => flushCode ty a
  | some false => flushCode ty b

/-- FABS and FNEG change the sign; a NaN gives the canonical NaN, and 16-bit types follow R94 (R247). -/
def signOp (ty : Ty) (neg : Bool) (a : Nat) : Nat :=
  let f := ffmt ty
  let k := f.ew + f.mw
  if (decTy ty a).isNan then f.canonical
  else flushCode ty (a % 2 ^ k + (if neg && !bitN a k then 2 ^ k else 0))

/-- FRINT of one element. -/
def rintElem (ty : Ty) (mode : Rnd) (x : Nat) (sr : BitVec 32) : Word64 × BitVec 32 :=
  let v := decTy ty x
  let (r, sr) := drawFor mode v sr
  (packTy ty (arithTo ty (v.rint mode r)), sr)

/-- `FADD`: a + b (R247). -/
def execFadd (f : FmtV) (s : State) : Host.Outcome State Fault Refusal :=
  issue (.fadd f) s (flt2 (.fadd f) f FVal.add)

/-- `FSUB`: a - b (R247). -/
def execFsub (f : FmtV) (s : State) : Host.Outcome State Fault Refusal :=
  issue (.fsub f) s (flt2 (.fsub f) f (fun a b => a.add b.neg))

/-- `FMUL`: a × b (R247). -/
def execFmul (f : FmtV) (s : State) : Host.Outcome State Fault Refusal :=
  issue (.fmul f) s (flt2 (.fmul f) f FVal.mul)

/-- `FFMA`: a × b + c with one rounding (R247). -/
def execFfma (f : FmtV) (s : State) : Host.Outcome State Fault Refusal :=
  issue (.ffma f) s (flt3 (.ffma f) f (fun a b c => (a.mul b).add c))

/-- `FMIN`: the minimum of R91. -/
def execFmin (f : FmtV) (s : State) : Host.Outcome State Fault Refusal :=
  issue (.fmin f) s (bitBody (.fmin f) f f.ty [srcA f f.ty, srcB f f.ty] (fun l => minMaxCode f.ty false (l.getD 0 0) (l.getD 1 0)))

/-- `FMAX`: the maximum of R91. -/
def execFmax (f : FmtV) (s : State) : Host.Outcome State Fault Refusal :=
  issue (.fmax f) s (bitBody (.fmax f) f f.ty [srcA f f.ty, srcB f f.ty] (fun l => minMaxCode f.ty true (l.getD 0 0) (l.getD 1 0)))

/-- `FABS`: a with its sign cleared (R247). -/
def execFabs (f : FmtV) (s : State) : Host.Outcome State Fault Refusal :=
  issue (.fabs f) s (bitBody (.fabs f) f f.ty [srcA f f.ty] (fun l => signOp f.ty false (l.getD 0 0)))

/-- `FNEG`: a with its sign flipped (R247). -/
def execFneg (f : FmtV) (s : State) : Host.Outcome State Fault Refusal :=
  issue (.fneg f) s (bitBody (.fneg f) f f.ty [srcA f f.ty] (fun l => signOp f.ty true (l.getD 0 0)))

/-- `FDIV`: a / b, correctly rounded (R247). -/
def execFdiv (f : FmtV) (s : State) : Host.Outcome State Fault Refusal :=
  issue (.fdiv f) s (flt2 (.fdiv f) f FVal.div)

/-- `FSQRT`: the square root, correctly rounded (R247). -/
def execFsqrt (f : FmtV) (s : State) : Host.Outcome State Fault Refusal :=
  issue (.fsqrt f) s (flt1 (.fsqrt f) f FVal.sqrt)

/-- `FRINT`: a rounded to an integral value in mode RND (R247). -/
def execFrint (f : FmtV) (s : State) : Host.Outcome State Fault Refusal :=
  issue (.frint f) s (drawBody (.frint f) f f.ty (rintElem f.ty f.rnd))

end Sys2Proof.Machine
end

