-- ==== Sys2Proof/Machine/Predicates.lean ====
section
/-! DEFINITION. Major 0x0C: comparisons, predicate logic, selection and votes (R249, R250). -/

namespace Sys2Proof.Machine

/-- The predicate and the condition or class set in AUX (R168). -/
def auxPred (f : FmtV) : Nat := f.aux.toNat % 8
def auxHigh (f : FmtV) : Nat := f.aux.toNat / 8

/-- The predicate number in a selector field's low bits (R168). -/
def selPred (x : Sel) : Nat := x.enc % 8

/-- PLOP: a truth table over two predicates. -/
def plopBody (f : FmtV) (s : State) : Exec :=
  let m := s.gmask f.g
  let a := s.cg.pred (selPred f.sa)
  let b := s.cg.pred (selPred f.sb)
  .ok (s.writePred (selPred f.vd) m ((threads m).map (fun t => (t, bitN f.aux.toNat (2 * b2n (a.getLsbD t) + b2n (b.getLsbD t))))))

/-- A result x of the whole fragment goes to a vector register of every active thread, to a scalar register, or nowhere;
nothing is written when no thread is active (R250). -/
def writeWhole (f : FmtV) (ty : Ty) (m : BitVec 32) (x : Nat) (s : State) : Exec :=
  if m = 0 then .ok s
  else match f.vd with
    | .s r => .ok (s.setS r.val (packTy ty x))
    | _ => s.writeDst f.vd ty.is64 ((threads m).map (fun t => (t, packTy ty x)))

/-- VOTEANY and VOTEALL of the predicate in AUX. -/
def voteBody (f : FmtV) (all : Bool) (s : State) : Exec :=
  (s.dstCheck f.vd 1).bind fun s =>
  let m := s.gmask f.g
  let p := s.cg.pred (auxPred f) &&& m
  writeWhole f .n32 m (b2n (if all then p == m else p != 0)) s

def ballotBody (i : Instr) (f : FmtV) (s : State) : Exec :=
  (s.dstCheck f.vd 1).bind fun s =>
  let m := s.gmask f.g
  (s.prepAll i (threads m) [srcA f .n32]).bind fun (s, os) =>
  writeWhole f .n32 m (maskOf ((threads m).filter (fun t => (os.getD 0 (.const 0)).read s.cg .n32 t != 0))).toNat s

/-- `ICMP`: p(AUX[2:0]) is a COND b for integers (R249). -/
def execIcmp (f : FmtV) (s : State) : Host.Outcome State Fault Refusal :=
  issue (.icmp f) s (predBody (.icmp f) f.g (auxPred f) [srcA f f.ty, srcB f f.ty] (fun _ _ l => condHolds (auxHigh f) (cmpInt f.ty (l.getD 0 0) (l.getD 1 0))))

/-- `FCMP`: p(AUX[2:0]) is a COND b for floating-point numbers (R249). -/
def execFcmp (f : FmtV) (s : State) : Host.Outcome State Fault Refusal :=
  issue (.fcmp f) s (predBody (.fcmp f) f.g (auxPred f) [srcA f f.ty, srcB f f.ty] (fun _ _ l => condHolds (auxHigh f) (cmpFloat f.ty (l.getD 0 0) (l.getD 1 0))))

/-- `PLOP`: pd is AUX[2 × pa + pb] (R249). -/
def execPlop (f : FmtV) (s : State) : Host.Outcome State Fault Refusal :=
  issue (.plop f) s (plopBody f)

/-- `SEL`: p(AUX[2:0]) ? a : b (R249). -/
def execSel (f : FmtV) (s : State) : Host.Outcome State Fault Refusal :=
  issue (.sel f) s (vecBody (.sel f) f.g f.vd f.ty [srcA f f.ty, srcB f f.ty] (fun s t l => packTy f.ty (if (s.cg.pred (auxPred f)).getLsbD t then (l.getD 0 0) else (l.getD 1 0))))

/-- `VOTEANY`: 1 if the predicate is true in any active thread (R250). -/
def execVoteany (f : FmtV) (s : State) : Host.Outcome State Fault Refusal :=
  issue (.voteany f) s (voteBody f false)

/-- `VOTEALL`: 1 if the predicate is true in every active thread (R250). -/
def execVoteall (f : FmtV) (s : State) : Host.Outcome State Fault Refusal :=
  issue (.voteall f) s (voteBody f true)

/-- `BALLOT`: bit t is 1 where thread t is active and a is not 0 (R250). -/
def execBallot (f : FmtV) (s : State) : Host.Outcome State Fault Refusal :=
  issue (.ballot f) s (ballotBody (.ballot f) f)

/-- `FCLASS`: pd is whether AUX[7:3] holds the class of a (R249). -/
def execFclass (f : FmtV) (s : State) : Host.Outcome State Fault Refusal :=
  issue (.fclass f) s (predBody (.fclass f) f.g (auxPred f) [srcA f f.ty] (fun _ _ l => bitN f.aux.toNat (classBit f.ty (l.getD 0 0))))

end Sys2Proof.Machine
end

