-- ==== Sys2Proof/Machine/Convert.lean ====
section
/-! DEFINITION. Major 0x0D: conversions and moves (R94 to R100, R251 to R253); block formats (R96 to R98). -/

namespace Sys2Proof.Machine

/-- Is every value of the first floating-point type a value of the second (R251)? -/
def widens (st dt : Ty) : Bool :=
  st == dt || (match st with
    | .f16 | .bf16 => dt == .f32 || dt == .f64
    | .f32 => dt == .f64
    | .e4m3 | .e5m2 => dt == .f16 || dt == .bf16 || dt == .f32 || dt == .f64
    | .e2m1 => !dt.isInt && dt != .o4
    | _ => false)

/-- The source type of CVT, in AUX[3:0] (R251). -/
def cvtFrom (f : FmtV) : Ty := WellFormed.cvtSrc f

/-- CVT of one element (R251). -/
def cvtElem (st dt : Ty) (mode : Rnd) (sat : Bool) (x : Nat) (sr : BitVec 32) : Word64 × BitVec 32 :=
  if st.isInt then
    if dt.isInt then (intRes dt sat (intVal st x), sr)
    else
      let v := ofIntF (intVal st x)
      let (r, sr) := drawFor mode v sr
      (packTy dt (convTo dt mode r v), sr)
  else
    let v := decTy st x
    if dt.isInt then
      let (r, sr) := drawFor mode v sr
      (intRes dt false (v.toIntSat mode r (intLo dt) (intHi dt)), sr)
    else if widens st dt then (packTy dt ((ffmt dt).roundWide .rne 0 v), sr)
    else
      let (r, sr) := drawFor mode v sr
      (packTy dt (convTo dt mode r v), sr)

/-! ### Block scales and O4 (R96 to R98) -/

/-- The value of a BS8 byte other than 0xFF (R96). -/
def bs8 (c : Nat) : FVal := .fin false (8 + c % 8) ((c / 8 : Nat) - 18 : Int)

/-- The integer of an O4 slot (R97). -/
def slotInt (c : Nat) : FVal := ofIntF (sx 4 c)

/-- The four values of an O4 block word before scaling (R98). -/
def o4Values (x : Nat) : List FVal :=
  let k (i : Nat) : Nat := fld x (4 * i) 4
  let zero := FVal.fin false 0 0
  let hi := fmtE4.decode (fld x 8 8)
  let lo := fmtE4.decode (fld x 0 8)
  if k 0 = 8 then [hi, if k 1 = 8 then zero else slotInt (k 1), zero, zero]
  else if k 1 = 8 then [slotInt (k 0), hi, zero, zero]
  else if k 2 = 8 then [zero, zero, lo, if k 3 = 8 then zero else slotInt (k 3)]
  else if k 3 = 8 then [zero, zero, slotInt (k 2), lo]
  else (List.range 4).map (fun i => slotInt (k i))

/-- An element times its block scale (R96): exact but for E5M2, which is rounded to FP32; 0xFF makes a NaN. -/
def scaled (ty : Ty) (v : FVal) (sc : Nat) : FVal :=
  if sc = 255 then .nan
  else
    let p := v.mul (bs8 sc)
    if ty = .e5m2 then fmt32.decode (fmt32.roundWide .rne 0 p) else p

/-! ### Scaled conversion (R99) -/

/-- T of R99. -/
def cvtsMax (ty : Ty) : Nat := match ty with
  | .e4m3 => 448
  | .e5m2 => 57344
  | .e2m1 => 6
  | _ => 7

/-- Magnitude codes of E4M3 below NaN whose byte holds no nibble 0b1000 (R99), ascending. The negative zero's byte does
not belong. -/
def restrictedMags (neg : Bool) : List Nat :=
  (List.range 127).filter (fun c => c = 0 || (c % 16 ≠ 8 && (if neg then c / 16 + 8 else c / 16) ≠ 8))
/-- Value of an E4M3 magnitude code in units of 2^-9. -/
def e4Units (c : Nat) : Nat := if c / 8 = 0 then c % 8 else (8 + c % 8) * 2 ^ (c / 8 - 1)

/-- The E4M3 code of an outlier in pair 1, |y| = p / q in units of 2^-9: the bracketing members of the restricted set,
chosen by mode, then the flush of R94 (R99). Where the set has no lower member of y's sign, +0 takes its place in every mode,
the draw of mode 4 too: the model's choice (log 36). -/
def restrictedCode (mode : Rnd) (r : Nat) (neg : Bool) (p q : Nat) : Nat :=
  let l := restrictedMags neg
  let lo := (l.filter (fun c => e4Units c * q ≤ p)).getLast?.getD 0
  let hi := ((l.find? (fun c => p ≤ e4Units c * q)).getD lo)
  let a := e4Units lo
  let b := e4Units hi
  let up := match mode with
    | .rne => decide (b * q - p < p - a * q)
    | .rz => false
    | .rd => neg
    | .ru => !neg
    | .rs => decide (2 ^ 16 ≤ (if b = a then 0 else (p - a * q) * 2 ^ 16 / ((b - a) * q)) + r)
  let c := if up then hi else lo
  if c < 8 then 0 else c + (if neg then 128 else 0)

/-- The conversion state of R99 taken apart: UFCNT, CLEAN, LOWER. -/
def cvState (cv : Word64) : Nat × Nat × Nat := (fld cv.toNat 32 32, fld cv.toNat 4 4, fld cv.toNat 0 2)

/-- The state after a block (R99). -/
def cvNext (cv : Word64) (flushed : Nat) (sat : Bool) : Word64 :=
  let (uf, clean, lower) := cvState cv
  let uf := min (uf + flushed) 0xFFFFFFFF
  let (lower, clean) :=
    if sat ∧ 0 < lower then (lower - 1, 0)
    else if 2 ≤ flushed then (min (lower + 1) 3, 0)
    else if flushed = 1 then (lower, 0)
    else if clean = 15 then (lower - 1, 0)
    else (lower, clean + 1)
  n64 (uf * 2 ^ 32 + clean * 2 ^ 4 + lower)

/-- A magnitude in units of 2^-149; an infinity counts as 2^128 (R99). -/
def magUnits : FVal → Nat
  | .nan => 0
  | .inf _ => 2 ^ 277
  | .fin _ m e => shiftInt m (e + 149)
def bs8Units (c : Nat) : Nat := (8 + c % 8) * 2 ^ (c / 8 + 131)

/-- One element of a block under its scale: its code, whether it saturates, and whether it decodes as zero. `out` marks
an O4 outlier, `pair1` its place. -/
def cvtsElem (ty : Ty) (mode : Rnd) (sc : Nat) (out pair1 : Bool) (v : FVal) (sr : BitVec 32) : (Nat × Bool × Bool) × BitVec 32 :=
  let y := v.div (bs8 sc)
  let (r, sr) := drawFor mode v sr
  if out then
    let c := if pair1 then
        match v with
        | .fin s m e =>
          let k : Int := e + 27 - (sc / 8 : Nat)
          restrictedCode mode r s (m * 2 ^ k.toNat) ((8 + sc % 8) * 2 ^ (-k).toNat)
        | _ => restrictedCode .rz 0 v.sign 448 0
      else fmtE4.roundNarrow mode r y
    ((c, false, c % 128 == 0), sr)
  else if ty = .o4 then
    let (q, s) : Nat × Bool := match y with
      | .fin s m e => (roundUnits mode s r m e 0, s)
      | _ => (8, v.sign)
    let k := min q 7
    ((if s then (16 - k) % 16 else k, decide (7 < q), k == 0), sr)
  else
    let f := ffmt ty
    let sat := match y with
      | .fin s m e =>
        let q := ulpExp (f.mw + 1) none m e
        let u := roundUnits mode s r m e q
        (FVal.fin false (cvtsMax ty) 0).lt (.fin false u q)
      | _ => true
    let c := f.roundNarrow mode r y
    ((c, sat, (f.decode c).isZero), sr)

/-- A block of four FP32 codes (R99): the code word, the scale, the states after it. -/
def cvtsBlock (ty : Ty) (mode : Rnd) (xs : List Nat) (cv : Word64) (sr : BitVec 32) : (Nat × Nat) × Word64 × BitVec 32 :=
  let vs := xs.map fmt32.decode
  if vs.any FVal.isNan then ((0, 255), cvNext cv 0 false, sr)
  else
    let mags := vs.map magUnits
    let a1 := mags.foldl max 0
    let i1 := (firstIdx (· == a1) mags 0).getD 0
    let a2 := (mags.eraseIdx i1).foldl max 0
    let out := ty == .o4 && decide (0 < a2) && decide (16 * a2 ≤ a1)
    let ref := if out then a2 else a1
    if ref = 0 then ((0, 0), cvNext cv 0 false, sr)
    else
      let sc0 := ((List.range 255).find? (fun c => ref ≤ bs8Units c * cvtsMax ty)).getD 254
      let sc := (sc0 / 8 - (cvState cv).2.2) * 8 + sc0 % 8
      let kept := (List.range 4).filter (fun i => !out || i / 2 == i1 / 2)
      let (res, sr) := drawAll (fun i sr =>
        let (e, sr) := cvtsElem ty mode sc (out && i == i1) (decide (2 ≤ i1)) (vs.getD i .nan) sr
        ((i, e), sr)) kept sr
      let flushed := (res.filter (fun e => e.2.2.2 && mags.getD e.1 0 != 0)).length
      let sat := res.any (fun e => e.2.2.1)
      let w := if ty = .e4m3 ∨ ty = .e5m2 then 8 else 4
      let word := (res.map (fun e =>
        if out ∧ e.1 = i1 then 8 * 2 ^ (4 * i1) + e.2.1 * 2 ^ (if i1 < 2 then 8 else 0) else e.2.1 * 2 ^ (w * e.1))).sum
      ((word, sc), cvNext cv flushed sat, sr)

/-- CVTS: one block per active thread, in ascending order (R252). -/
def cvtsBody (f : FmtV) (s : State) : Exec :=
  (s.rangeCheck f.vd 2).bind fun s =>
  (s.rangeCheck f.sa 4).bind fun s =>
  match f.vd, f.sa with
  | .v d, .v a =>
    let g := s.cg
    let (res, cv, sr) := drawAll (fun t (st : Word64 × BitVec 32) =>
      let (b, cv, sr) := cvtsBlock f.ty f.rnd ((List.range 4).map (fun i => (g.vreg (a.val + i) t).toNat)) st.1 st.2
      ((t, b), cv, sr)) (threads (s.gmask f.g)) (g.cvstate, g.srstate)
    .ok (s.modCg (fun g => { (res.foldl (fun (g : Group) e =>
      (g.setV d.val e.1 (BitVec.ofNat 32 e.2.1)).setV (d.val + 1) e.1 (BitVec.ofNat 32 e.2.2)) g) with cvstate := cv, srstate := sr }))
  | _, _ => trapAt s cIllegal s.instrAddr

/-- MOV: 64 bits for codes 3, 7 and 8, else 32 bits (R253). -/
def movBody (i : Instr) (f : FmtV) (s : State) : Exec :=
  let ty := if f.ty.is64 then Ty.n64 else Ty.n32
  (s.dstCheck f.vd (regCount ty)).bind fun s =>
  let m := s.gmask f.g
  (s.prepAll i (threads m) [srcA f f.ty]).bind fun (s, os) =>
  s.writeDst f.vd f.ty.is64 ((s.visit m).map (fun t => (t, n64 ((os.getD 0 (.const 0)).read s.cg ty t))))

/-- `CVT`: conversion of a from the type in AUX to TYPE (R251). -/
def execCvt (f : FmtV) (s : State) : Host.Outcome State Fault Refusal :=
  issue (.cvt f) s (drawBody (.cvt f) f (cvtFrom f) (cvtElem (cvtFrom f) f.ty f.rnd f.sat))

/-- `CVTS`: scaled conversion of one block of four elements per thread (R99, R252). -/
def execCvts (f : FmtV) (s : State) : Host.Outcome State Fault Refusal :=
  issue (.cvts f) s (cvtsBody f)

/-- `MOV`: d is a (R253). -/
def execMov (f : FmtV) (s : State) : Host.Outcome State Fault Refusal :=
  issue (.mov f) s (movBody (.mov f) f)

/-- `PTOV`: d is p(AUX[2:0]) ? 1 : 0 (R253). -/
def execPtov (f : FmtV) (s : State) : Host.Outcome State Fault Refusal :=
  issue (.ptov f) s (vecBody (.ptov f) f.g f.vd .n32 [] (fun s t _ => n64 (b2n ((s.cg.pred (auxPred f)).getLsbD t))))

/-- `VTOP`: p(AUX[2:0]) is a ≠ 0 (R253). -/
def execVtop (f : FmtV) (s : State) : Host.Outcome State Fault Refusal :=
  issue (.vtop f) s (predBody (.vtop f) f.g (auxPred f) [srcA f f.ty] (fun _ _ l => l.getD 0 0 != 0))

end Sys2Proof.Machine
end

