-- ==== Sys2Proof/Machine/Async.lean ====
section
/-! DEFINITION. Major 0x24: asynchronous commands (R76, R226 to R240), twin slots and flips (R77 to R79), and the landings of
copies, chains, fills and twin copies. -/

namespace Sys2Proof.Machine

/-! ### Issue (R226) -/

/-- Descriptor register `i`. -/
def State.descReg (s : State) (f : FmtA) (i : Nat) : Nat := match f.sd with
  | some d => (s.cg.sreg (d.val + i)).toNat
  | none => 0

def descTval (f : FmtA) : Word64 := match f.sd with
  | some d => n64 d.val
  | none => 0

/-- The hold of R228. -/
def State.cmdRoom (s : State) : Exec :=
  if (s.cmds.filter (fun c => c.gid == s.cur.gid)).length < 32 then .ok s else holdOn s .commands

/-- MISALIGNED of the barrier object's address. -/
def State.objAligned (s : State) (f : FmtA) : Exec := match f.sb with
  | some b => if (s.sreg b.val).toNat % 16 = 0 then .ok s else trapAt s cMisaligned (s.sreg b.val)
  | none => .ok s

/-- ASYNC_DESC (R226). -/
def State.descCheck (s : State) (f : FmtA) (ok : Bool) : Exec := if ok then .ok s else trapAt s cAsync (descTval f)

/-- ADDRESS_RANGE of generic addresses, in order (R226). -/
def State.genericCheck (s : State) : List Word64 → Exec
  | [] => .ok s
  | a :: l => if (resolveGeneric a).isNone then trapAt s cAddress a else s.genericCheck l

/-- Window offsets that rows of `n` bytes at a place must not name: the first of each row at or beyond the window, or, for
a write, in a read-only map (R44, R231). -/
def Workgroup.badRows (w : Workgroup) (isW : Bool) (p : Option Where) (pitch : Int) (rows n : Nat) : List Nat := match p with
  | some (.win o) => ((List.range rows).map (fun (r : Nat) =>
      let lo := (((o : Int) + (r : Int) * pitch) % (2 ^ 64 : Int)).toNat
      (if w.winSize < lo + n then [max lo w.winSize] else []) ++
      (if isW then w.maps.filterMap (fun e => match e.2 with
        | some m =>
          let a := max lo (2048 * m.wblk)
          if !m.wr && decide (a < min (lo + n) (2048 * (m.wblk + m.nblk))) then some a else none
        | none => none) else []))).flatten
  | _ => []

/-- SCRATCH_RANGE with the lowest of the offending offsets (R231). -/
def State.windowCheck (s : State) (bad : List Nat) : Exec := match bad with
  | [] => .ok s
  | o :: l => trapAt s cScratch (n64 (l.foldl min o))

/-- Address of the barrier object that the instruction names. -/
def State.objAddr (s : State) (f : FmtA) : Option Word64 := f.sb.map (fun b => s.sreg b.val)
def objBad (w : Workgroup) (o : Option Word64) : List Nat := match o with
  | some a => w.badRows true (resolveGeneric a) 0 1 16
  | none => []

/-- A command starts: the status is ACCEPTED (R227). What the group's counted stores have overwritten may still reach its
reads (R76). -/
def State.startCmd (s : State) (f : FmtA) (c : Cmd) : State :=
  let c : Cmd := { c with id := s.nextId, gid := s.cur.gid, wid := s.cg.wid, ctx := s.cw.ctx, fdom := s.cw.fdom, obj := s.objAddr f
                          old := s.cg.olderBytes }
  { s with cmds := s.cmds ++ [c], nextId := s.nextId + 1 }.setSOpt f.sc 0

/-- The fields that CPY, CPYCH and TWCPY share (R231). -/
structure Tile where
  spitch : BitVec 32
  dpitch : BitVec 32
  rows : Nat
  rbytes : Nat
  deriving DecidableEq, Repr
def tileOf (d2 d3 : Nat) : Tile := ⟨BitVec.ofNat 32 (fld d2 32 32), BitVec.ofNat 32 (fld d2 0 32), fld d3 48 16, fld d3 0 24⟩
def tileOk (d3 : Nat) : Bool :=
  fld d3 24 24 == 0 && fld d3 48 16 != 0 && fld d3 0 24 != 0 && decide (fld d3 48 16 * fld d3 0 24 < 2 ^ 32)

/-- `CPY` (R231). -/
def cpyBody (f : FmtA) (s : State) : Exec :=
  let d := s.descReg f
  let sa := n64 (d 0)
  let da := n64 (d 1)
  let t := tileOf (d 2) (d 3)
  let o := s.objAddr f
  let w := s.cw
  s.cmdRoom.bind fun s =>
  (s.objAligned f).bind fun s =>
  (s.descCheck f (tileOk (d 3))).bind fun s =>
  (s.genericCheck ([sa, da] ++ o.toList)).bind fun s =>
  (s.windowCheck (w.badRows false (resolveGeneric sa) t.spitch.toInt t.rows t.rbytes ++
    w.badRows true (resolveGeneric da) t.dpitch.toInt t.rows t.rbytes ++ objBad w o)).bind fun s =>
  match resolveGeneric sa, resolveGeneric da with
  | some x, some y => .ok (s.startCmd f { id := 0, gid := 0, wid := 0, ctx := 0, kind := .copy, src := x, dst := y, spitch := t.spitch
                                          dpitch := t.dpitch, rows := t.rows, rbytes := t.rbytes, todo := [(0, t.rows * t.rbytes)] })
  | _, _ => .ok s

/-! ### Chains (R232) -/

/-- The first chain register taken apart. -/
structure ChainHead where
  st : Ty
  dt : Ty
  nops : Nat
  rnd : Nat
  scaled : Bool
  scpitch : Nat
  deriving DecidableEq, Repr
def chainHead (x : Nat) : ChainHead := ⟨Ty.dec (fld x 60 4), Ty.dec (fld x 56 4), fld x 52 4, fld x 49 3, bitN x 48, fld x 24 24⟩

/-- The 16 bits of operation `i`. -/
def chainOp (l : List Word64) (i : Nat) : Nat := fld (l.getD (1 + i / 4) 0).toNat (16 * (i % 4)) 16
/-- Elements of a conversion unit: a block, a byte's pair, or one. -/
def chainUnit (h : ChainHead) : Nat := if h.scaled then 4 else if h.dt = .e2m1 then 2 else 1
/-- Bytes that a unit writes (R97, R232). -/
def chainOut (h : ChainHead) : Nat := if h.dt = .o4 ∨ h.dt = .e2m1 then (if h.scaled then 2 else 1) else chainUnit h * h.dt.bytes
/-- Units of a row. -/
def chainRow (h : ChainHead) (rbytes : Nat) : Nat := rbytes / (h.st.bytes * chainUnit h)

/-- The refusals of R232 on s(SD+4) to s(SD+9). -/
def chainOk (l : List Word64) (rbytes : Nat) : Bool :=
  let x := (l.getD 0 0).toNat
  let h := chainHead x
  fld x 0 24 == 0 && (h.st == .f32 || h.st == .f16 || h.st == .bf16 || h.st == .e4m3 || h.st == .e5m2) &&
  (h.dt == .f32 || h.dt == .f16 || h.dt == .bf16 || h.dt == .e4m3 || h.dt == .e5m2 || h.dt == .e2m1 || h.dt == .o4) &&
  decide (h.nops ≤ 8) && decide (h.rnd ≤ 3) &&
  (List.range 8).all (fun i =>
    let op := chainOp l i
    if i < h.nops then fld op 0 10 == 0 && decide (fld op 10 2 ≤ 1) && decide (fld op 12 4 ≤ 7) && !(fld op 12 4 == 7 && fld op 10 2 != 0)
    else op == 0) &&
  rbytes % h.st.bytes == 0 &&
  (if h.scaled then (h.dt == .e4m3 || h.dt == .e5m2 || h.dt == .e2m1 || h.dt == .o4) && rbytes % (4 * h.st.bytes) == 0 && (l.getD 5 0).toNat % 8 == 0
   else h.dt != .o4 && !(h.dt == .e2m1 && rbytes % (2 * h.st.bytes) != 0) && l.getD 4 0 == 0 && l.getD 5 0 == 0 && h.scpitch == 0)

/-- One operation on an FP32 code (R91, R232). -/
def chainStep (op k0 k1 x : Nat) : Nat :=
  let v := fmt32.decode x
  let kc := if fld op 10 2 = 0 then k0 else k1
  let k := fmt32.decode kc
  let rnd (v : FVal) : Nat := fmt32.roundWide .rne 0 v
  match fld op 12 4 with
  | 0 => rnd (v.add k)
  | 1 => rnd (v.mul k)
  | 2 => minMaxCode .f32 true x kc
  | 3 => minMaxCode .f32 false x kc
  | 4 => signOp .f32 false x
  | 5 => signOp .f32 true x
  | 6 => rnd (v.mul v)
  | _ => rnd ((v.mul (fmt32.decode k0)).add (fmt32.decode k1))

/-- The FP32 code of a source element after the chain's operations. -/
def chainElem (l : List Word64) (h : ChainHead) (x : Nat) : Nat :=
  let k := (l.getD 3 0).toNat
  (List.range h.nops).foldl (fun y i => chainStep (chainOp l i) (fld k 0 32) (fld k 32 32) y) (fmt32.roundWide .rne 0 (decTy h.st x))

def rndOf : Nat → Rnd
  | 0 => .rne
  | 1 => .rz
  | 2 => .rd
  | _ => .ru

/-- Elements of a byte list, little-endian. -/
def elemsOf (n : Nat) : Nat → List Byte → List Nat
  | 0, _ => []
  | k + 1, l => leNat (l.take n) :: elemsOf n k (l.drop n)

/-- Bytes, scale byte and conversion state of a unit (R94, R99, R232). -/
def chainConvert (l : List Word64) (h : ChainHead) (cv : Word64) (src : List Byte) : List Byte × Byte × Word64 :=
  let xs := (elemsOf h.st.bytes (chainUnit h) src).map (chainElem l h)
  if h.scaled then
    let ((w, sc), cv, _) := cvtsBlock h.dt (rndOf h.rnd) xs cv 0
    (leBytes (chainOut h) w, BitVec.ofNat 8 sc, cv)
  else
    let cs := xs.map (fun x => convTo h.dt (rndOf h.rnd) 0 (fmt32.decode x))
    if h.dt = .e2m1 then (leBytes 1 (cs.getD 0 0 + 16 * cs.getD 1 0), 0, cv)
    else ((cs.map (leBytes h.dt.bytes)).flatten, 0, cv)

/-- `CPYCH` (R232). -/
def cpychBody (f : FmtA) (s : State) : Exec :=
  let d := s.descReg f
  let sa := n64 (d 0)
  let da := n64 (d 1)
  let t := tileOf (d 2) (d 3)
  let l := (List.range 6).map (fun i => n64 (d (4 + i)))
  let h := chainHead (d 4)
  let n := chainRow h t.rbytes
  let sc := l.getD 4 0
  let st := l.getD 5 0
  let o := s.objAddr f
  let w := s.cw
  s.cmdRoom.bind fun s =>
  (s.objAligned f).bind fun s =>
  (s.descCheck f (tileOk (d 3) && chainOk l t.rbytes)).bind fun s =>
  (s.genericCheck ([sa, da, sc, st] ++ o.toList)).bind fun s =>
  (s.windowCheck (w.badRows false (resolveGeneric sa) t.spitch.toInt t.rows t.rbytes ++
    w.badRows true (resolveGeneric da) t.dpitch.toInt t.rows (n * chainOut h) ++
    (if h.scaled then w.badRows true (resolveGeneric sc) h.scpitch t.rows n ++ w.badRows true (resolveGeneric st) 0 1 8 else []) ++
    objBad w o)).bind fun s =>
  match resolveGeneric sa, resolveGeneric da with
  | some x, some y => .ok (s.startCmd f { id := 0, gid := 0, wid := 0, ctx := 0, kind := .chain, src := x, dst := y, spitch := t.spitch
                                          dpitch := t.dpitch, rows := t.rows, rbytes := t.rbytes, chain := l
                                          todo := [(0, t.rows * n + b2n h.scaled)] })
  | _, _ => .ok s

/-! ### Relocation and fills -/

/-- `CPYREL` (R233). The engine that the device chooses writes its number as CLAIMER; it is kept in RBYTES. -/
def cpyrelBody (f : FmtA) (s : State) : Exec :=
  let t := s.descReg f 0
  let o := s.objAddr f
  let w := s.cw
  s.cmdRoom.bind fun s =>
  (s.objAligned f).bind fun s =>
  (s.descCheck f (t % 256 == 0 && decide (t < 2 ^ 57))).bind fun s =>
  (s.genericCheck o.toList).bind fun s =>
  (s.windowCheck (objBad w o)).bind fun s =>
  .ok (s.startCmd f { id := 0, gid := 0, wid := 0, ctx := 0, kind := .reloc, src := .glob (n64 t), dst := .glob (n64 t), table := t,
                        rbytes := 12 * w.place.die + (s.free 4 0).toNat % 12 })

/-- `SPQFILL` (R234). -/
def spqfillBody (f : FmtA) (s : State) : Exec :=
  let a := n64 (s.descReg f 0)
  let n := s.descReg f 1
  let o := s.objAddr f
  let w := s.cw
  s.cmdRoom.bind fun s =>
  (s.objAligned f).bind fun s =>
  (if a.toNat % 8 = 0 then .ok s else trapAt s cMisaligned a).bind fun s =>
  (s.descCheck f (decide (1 ≤ n) && decide (n ≤ 16))).bind fun s =>
  (s.genericCheck (a :: o.toList)).bind fun s =>
  (s.windowCheck (w.badRows false (resolveGeneric a) 256 n 256 ++ objBad w o)).bind fun s =>
  (if s.cg.sparse then .ok s else trapAt s cSpq 0).bind fun s =>
  match resolveGeneric a with
  | some x => .ok (s.startCmd f { id := 0, gid := 0, wid := 0, ctx := 0, kind := .fill, src := x, dst := .win 0, todo := [(0, n)] })
  | none => .ok s

/-! ### Twin slots (R235 to R238) -/

/-- The slot of a designator (R235). -/
def designator (d : Nat) : TwinRef := ⟨bitN d 63, fld d 32 10⟩
/-- Reserved bits, SCOPE and SLOT of a designator; OFFSET where it is unused. -/
def designatorOk (d : Nat) (scope offset : Bool) : Bool :=
  fld d 45 18 == 0 && (if scope then fld d 42 3 != 7 else fld d 42 3 == 0) && (bitN d 63 || decide (fld d 32 10 < 16)) &&
  (offset || fld d 0 32 == 0)

/-- A slot's descriptor, reached by the group; it waits as `w` says where answers about a global descriptor's line are awaited. -/
def State.reachTwin (s : State) (r : TwinRef) (w : Wait := .snoop) : Except Stop (State × Twin) :=
  match s.twinBusy s.cw.who r false with
  | some t => holdOn t w
  | none => match s.getTwin s.cw.who s.cg.wid r with
    | .ok t => .ok (s.noteTwin s.cw.who r, t)
    | .error e => .error (s.fateStop (s.twinVa s.cw.ctx r.slot) e)
/-- Write a slot's descriptor. -/
def State.setTwin (s : State) (r : TwinRef) (t : Twin) (w : Wait := .snoop) : Exec := match s.twinFate s.cw.who r with
  | some e => .error (s.fateStop (s.twinVa s.cw.ctx r.slot) e)
  | none => match s.twinBusy s.cw.who r true with
    | some u => holdOn u w
    | none => .ok (s.putTwin s.cw.who s.cg.wid r t)

/-- TWIN_STATE of a free slot (R77). -/
def State.liveTwin (s : State) (r : TwinRef) : Exec :=
  (s.reachTwin r).bind fun (s, t) => if t.free then trapAt s cTwin (n64 r.slot) else .ok s

/-- `TWCPY` (R237). -/
def twcpyBody (f : FmtA) (s : State) : Exec :=
  let d := s.descReg f
  let sa := n64 (d 0)
  let t := tileOf (d 2) (d 3)
  let o := s.objAddr f
  let w := s.cw
  let r := designator (d 1)
  s.cmdRoom.bind fun s =>
  (s.objAligned f).bind fun s =>
  (s.descCheck f (designatorOk (d 1) false true && tileOk (d 3))).bind fun s =>
  (s.genericCheck (sa :: o.toList)).bind fun s =>
  (s.windowCheck (w.badRows false (resolveGeneric sa) t.spitch.toInt t.rows t.rbytes ++ objBad w o)).bind fun s =>
  match resolveGeneric sa with
  | some x => .ok (s.startCmd f { id := 0, gid := 0, wid := 0, ctx := 0, kind := .twin, src := x, dst := .twin r.g r.slot (fld (d 1) 0 32)
                                  spitch := t.spitch, dpitch := t.dpitch, rows := t.rows, rbytes := t.rbytes
                                  todo := [(0, t.rows * t.rbytes)] })
  | none => .ok s

/-- The flip itself: FLIPPING is set, PEND is waited for, then LIVE, GEN and FLIPPING are written (R79). -/
def State.flipTwin (s : State) (r : TwinRef) : Exec :=
  let w : Wait := .flip r.g r.slot
  (s.reachTwin r w).bind fun (s, t) =>
  if t.pend ≠ 0 then
    if t.flipping then holdOn s w else (s.setTwin r { t with flipping := true } w).bind (fun s => holdOn s w)
  else s.setTwin r { t with live := !t.live, gen := t.gen + 1, flipping := false } w

/-- `TWFLIP` (R79, R238). One that waits for PEND waits for nothing else. -/
def twflipBody (f : FmtA) (s : State) : Exec := match s.cf.wait with
  | .flip g slot => s.flipTwin ⟨g, slot⟩
  | _ =>
    let d := s.descReg f 0
    let r := designator d
    s.cmdRoom.bind fun s =>
    (s.descCheck f (designatorOk d true false)).bind fun s =>
    (s.liveTwin r).bind fun s =>
    (s.releaseWait true).bind fun s =>
    s.flipTwin r

/-- Status of TWSET (R227). -/
def twsetStatus (w : Workgroup) (g : Bool) (t : Twin) (b0 b1 size : Nat) : Nat :=
  if !t.free then 3
  else if b0 % 128 ≠ 0 ∨ b1 % 128 ≠ 0 ∨ size % 128 ≠ 0 ∨ size = 0 ∨ (!g ∧ (w.winSize < b0 + size ∨ w.winSize < b1 + size)) then 4
  else 0

/-- `TWSET` (R236). -/
def twsetBody (f : FmtA) (s : State) : Exec :=
  let d := s.descReg f
  let r := designator (d 0)
  s.cmdRoom.bind fun s =>
  (s.descCheck f (designatorOk (d 0) false false && decide (d 1 < 2 ^ 57) && decide (d 2 < 2 ^ 57) && decide (d 3 < 2 ^ 32))).bind fun s =>
  (s.reachTwin r).bind fun (s, t) =>
  let st := twsetStatus s.cw r.g t (d 1) (d 2) (d 3)
  let t' : Twin := { base0 := BitVec.ofNat 57 (d 1), base1 := BitVec.ofNat 57 (d 2), size := BitVec.ofNat 32 (d 3) }
  (if st = 0 then s.setTwin r t' else .ok s).map fun s => s.setSOpt f.sc (n64 st)

/-- The clearing itself: FLIPPING and PEND are waited for, then every field is zero (R236). -/
def State.clearTwin (s : State) (r : TwinRef) : Exec :=
  let w : Wait := .clear r.g r.slot
  (s.reachTwin r w).bind fun (s, t) =>
  if t.flipping || t.pend != 0 then holdOn s w else s.setTwin r {} w

/-- `TWCLR` (R236). One that waits for FLIPPING and PEND waits for nothing else. -/
def twclrBody (f : FmtA) (s : State) : Exec := match s.cf.wait with
  | .clear g slot => s.clearTwin ⟨g, slot⟩
  | _ =>
    let d := s.descReg f 0
    let r := designator d
    s.cmdRoom.bind fun s =>
    (s.descCheck f (designatorOk d false false)).bind fun s =>
    (s.liveTwin r).bind fun s => s.clearTwin r

/-! ### Subscriptions (R239, R240) -/

/-- `SUBSCR` (R56, R239). -/
def subscrBody (f : FmtA) (s : State) : Exec :=
  let d := s.descReg f
  let w := s.cw
  let trows := fld (d 1) 16 16
  let tbytes := fld (d 1) 0 16
  let n := fld (d 3) 40 5
  let sp := fld (d 3) 20 20
  let ring := fld (d 3) 0 20
  let objs := fld (d 4) 0 20
  let outb := bitN (d 3) 45
  s.cmdRoom.bind fun s =>
  (s.descCheck f (decide (d 0 < 2 ^ 57) && trows != 0 && tbytes != 0 && fld (d 2) 32 32 != 0 && fld (d 3) 46 18 == 0 &&
    decide (2 ≤ n) && decide (n ≤ 16) && decide (trows * tbytes ≤ sp) && fld (d 4) 20 44 == 0 && objs % 16 == 0)).bind fun s =>
  (s.windowCheck (w.badRows (!outb) (some (.win ring)) sp n (trows * tbytes) ++ w.badRows true (some (.win objs)) 0 1 (32 * n))).bind fun s =>
  if s.fitting = .l then .ok (s.setSOpt f.sc 1)
  else match (List.range 4).find? (fun i => !w.subs.any (fun b => b.idx == i)) with
    | none => .ok (s.setSOpt f.sc 2)
    | some i =>
      let b : Sub := { idx := i, gid := s.cur.gid, tbase := n64 (d 0), rpitch := fld (d 1) 32 32, trows := trows, tbytes := tbytes
                       tcount := fld (d 2) 32 32, tpitch := fld (d 2) 0 32, outbound := outb, slots := n, spitch := sp, ring := ring, objs := objs }
      .ok ((s.modCw (fun w => { w with subs := w.subs ++ [b] })).setSOpt f.sc (n64 (256 * i)))

/-- `SLOTREL` (R240). An inbound subscription ends with the return of its last tile's slot (R57). -/
def slotrelBody (f : FmtA) (s : State) : Exec :=
  let d := s.descReg f 0
  let k := fld d 8 4
  let sub := s.cw.subs.find? (fun b => b.idx == fld d 0 2)
  s.cmdRoom.bind fun s =>
  (s.descCheck f (fld d 2 6 == 0 && fld d 12 52 == 0 && (match sub with
    | some b => decide (k < b.slots)
    | none => false))).bind fun s =>
  match sub with
  | none => .ok s
  | some b =>
    (s.releaseWait true).bind fun s =>
    let last := !b.outbound && decide (b.tcount ≤ b.next) && k == (b.tcount - 1) % b.slots
    (s.objUpdate (Where.generic (.win (b.objs + 32 * k + (if b.outbound then 0 else 16)))) (fun o => objStep o 0 1 false)).map fun s =>
      if last then s.modCw (fun w => { w with subs := w.subs.filter (fun x => x.idx ≠ b.idx) }) else s

/-! ### Landings (R54, R231 to R237) -/

/-- Take the range `off`, `n` out of a list of ranges that holds it. -/
def cutRange (off n : Nat) : List (Nat × Nat) → List (Nat × Nat)
  | [] => []
  | (o, l) :: r =>
    if o ≤ off ∧ off + n ≤ o + l then
      (if o < off then [(o, off - o)] else []) ++ (if off + n < o + l then [(off + n, o + l - (off + n))] else []) ++ r
    else (o, l) :: cutRange off n r
/-- Bytes from `off` to the end of the range that holds it. -/
def rangeRest (l : List (Nat × Nat)) (off : Nat) : Nat := match l.find? (fun e => e.1 ≤ off && off < e.1 + e.2) with
  | some e => e.1 + e.2 - off
  | none => 0

/-- Can the last landing count its twin write out (R78)? -/
def State.lastReady (s : State) (c : Cmd) (todo : List (Nat × Nat)) : Eng State := match todo, c.twinSlot with
  | [], some r => s.twinReady (s.cmdWho c) r
  | _, _ => .ok s

/-- A landing's end: the object is updated, and the command ends with its last landing. -/
def State.landed (s : State) (c : Cmd) (n : Nat) (todo : List (Nat × Nat)) : State :=
  let a := s.cmdWho c
  let s := s.landObj a c.wid c.object n 0 todo.isEmpty
  if todo.isEmpty then
    (match c.twinSlot with
     | some r => s.lowerTwin a c.wid r
     | none => s).endCmd c
  else s.modCmd c.id (fun c => { c with todo := todo })

/-- A landing of `n` bytes at place `off` of a row, widened to whole aligned 8-byte units of the target: what lies at `num` is
the row's byte 0 (R65). The row's ends cut a unit. -/
def wholeUnits (num rbytes off n : Nat) : Nat × Nat :=
  let lo := off - (num + off) % 8
  let hi := min rbytes (off + n + (8 - (num + off + n) % 8) % 8)
  (lo, hi - lo)

/-- Landing of the bytes `off` to `off` + `n` - 1 of a tile, of one row at most, in whole units of the target (R65, R231). -/
def State.landTile (s : State) (c : Cmd) (off n : Nat) : Eng State :=
  let row := off / c.rbytes
  let num := (c.dst.plus ((row : Int) * c.dpitch.toInt)).num
  let u := wholeUnits num c.rbytes (off % c.rbytes) (min n (min (rangeRest c.todo off) (c.rbytes - off % c.rbytes)))
  let off := row * c.rbytes + u.1
  let n := min u.2 (rangeRest c.todo off)
  if n = 0 then .ok s
  else
    let a := s.cmdWho c
    let r : Int := off / c.rbytes
    let b : Int := off % c.rbytes
    let src := c.src.plus (r * c.spitch.toInt + b)
    let dst := c.dst.plus (r * c.dpitch.toInt + b)
    (s.engRead a c.wid src n).bind fun x =>
    (x.1.engCheck a c.wid dst n).bind fun s =>
    (s.objReach a c.wid c.object).bind fun s =>
    (s.lastReady c (cutRange off n c.todo)).bind fun s =>
    .ok ((s.engWrite a c.wid dst x.2).landed c n (cutRange off n c.todo))

/-- A twin copy's registration at the descriptor (R78, R237); the command goes on against the inactive backing.
A registration at PEND 65,535 wraps it: the model's choice, for the spec does not speak of it (log 33). -/
def State.registerTwin (s : State) (c : Cmd) (r : TwinRef) (off : Nat) : Eng State :=
  let a := s.cmdWho c
  if let some t := s.twinBusy a r false then .error (.wait t) else
  match s.getTwin a c.wid r with
  | .error (.fault f) => .error (.hold s (s.twinVa c.ctx r.slot) f)
  | .error _ => .error (.stop none)
  | .ok t =>
    let s := s.noteTwin a r
    if t.free then .error (.stop (some (cTwin, n64 r.slot)))
    else
      let bad := ({ blankWg with winSize := t.size.toNat } : Workgroup).badRows false (some (.win off)) c.dpitch.toInt c.rows c.rbytes
      match bad with
      | o :: l => .error (.stop (some (r.rangeCode, n64 (l.foldl min o))))
      | [] =>
        if t.flipping then .error (.wait s)
        else (s.twinReady a r).bind fun s =>
          let base := t.base (!t.live) + off
          let s := s.putTwin a c.wid r { t with pend := t.pend + 1 }
          .ok (s.modCmd c.id (fun c =>
            { c with dst := (if r.g then .glob (n64 base) else .win base), table := b2n r.g, slot := some r.slot }))

/-- Where unit `u` of a chain goes: its elements, and its scale byte (R232). -/
def chainDst (c : Cmd) (h : ChainHead) (u : Nat) : Where :=
  let row := chainRow h c.rbytes
  c.dst.plus (((u / row : Nat) : Int) * c.dpitch.toInt + (u % row * chainOut h : Nat))
def chainScale (c : Cmd) (h : ChainHead) (scb : Where) (u : Nat) : Where :=
  let row := chainRow h c.rbytes
  scb.plus ((u / row * h.scpitch + u % row : Nat) : Int)

/-- Bytes that a chain's unit puts at a place, each with its poison mark. -/
abbrev Put := Where × List (Byte × Bool)
def State.putReady (s : State) (a : Who) (wid : Nat) (p : Put) : Eng State := s.engCheck a wid p.1 p.2.length
def State.put (s : State) (a : Who) (wid : Nat) (p : Put) : State := s.engWrite a wid p.1 p.2

/-- One unit of a chain: read and converted; the conversion state after it, and what it writes (R232). -/
def State.chainOne (s : State) (c : Cmd) (h : ChainHead) (scb : Where) (cv : Word64) (u : Nat) : Eng (State × Word64 × List Put) :=
  let row := chainRow h c.rbytes
  let n := chainUnit h * h.st.bytes
  (s.engRead (s.cmdWho c) c.wid (c.src.plus (((u / row : Nat) : Int) * c.spitch.toInt + (u % row * n : Nat))) n).map fun (s, bytes) =>
  let (out, sc, cv) := chainConvert c.chain h cv (bytes.map Prod.fst)
  let bad := bytes.any Prod.snd
  (s, cv, (chainDst c h u, out.map (fun x => (x, bad))) :: (if h.scaled then [(chainScale c h scb u, [(sc, bad)])] else []))

/-- Units of a chain from `u` on until the written bytes end at whole aligned 8-byte units of both targets, or with the row
(R65): what they write. Every unit is read before the first is written. -/
def State.chainRun (c : Cmd) (h : ChainHead) (scb : Where) : Nat → State → Word64 → Nat → List Put → Eng (State × Word64 × Nat × List Put)
  | 0, s, cv, u, l => .ok (s, cv, u, l)
  | k + 1, s, cv, u, l =>
    (s.chainOne c h scb cv u).bind fun (s, cv, m) =>
    if (u + 1) % chainRow h c.rbytes = 0 ∨
        (((chainDst c h u).num + chainOut h) % 8 = 0 ∧ (!h.scaled ∨ ((chainScale c h scb u).num + 1) % 8 = 0)) then
      .ok (s, cv, u + 1, l ++ m)
    else State.chainRun c h scb k s cv (u + 1) (l ++ m)

/-- The next units of a chain, in order; the state word is read before the first and written after the last (R232). -/
def State.landChain (s : State) (c : Cmd) : Eng State :=
  let a := s.cmdWho c
  let h := chainHead (c.chain.getD 0 0).toNat
  let st := resolveGeneric (c.chain.getD 5 0)
  match c.todo, resolveGeneric (c.chain.getD 4 0), st with
  | (u, left) :: _, some scb, some stp =>
    let first : Eng (State × Word64) :=
      if h.scaled && !c.begun then (s.engRead a c.wid stp 8).map (fun x => (x.1, n64 (leNat (x.2.map Prod.fst)))) else .ok (s, c.cvstate)
    first.bind fun (s, cv) =>
    if h.scaled && left = 1 then
      (s.engCheck a c.wid stp 8).bind fun s =>
      (s.objReach a c.wid c.object).bind fun s =>
      .ok ((s.engWrite a c.wid stp ((leBytes 8 cv.toNat).map (fun b => (b, false)))).landed c 8 [])
    else
      (State.chainRun c h scb (left - b2n h.scaled) s cv u []).bind fun (s, cv, v, l) =>
      (foldE (fun (s : State) p => s.putReady a c.wid p) s l).bind fun s =>
      (s.objReach a c.wid c.object).bind fun s =>
      let left := left - (v - u)
      let s := l.foldl (fun (s : State) p => s.put a c.wid p) s
      .ok ((s.modCmd c.id (fun c => { c with begun := true, cvstate := cv })).landed c ((l.map (fun p => p.2.length)).sum) (if left = 0 then [] else [(v, left)]))
  | _, _, _ => .ok s

/-- One sparsity entry, of the group's first fill, while the queue has room (R113, R234). -/
def State.landFill (s : State) (c : Cmd) : Eng State :=
  let a := s.cmdWho c
  match c.todo, s.group? c.gid with
  | (i, left) :: _, some g =>
    let turn := (s.cmds.find? (fun d => d.kind == .fill && d.gid == c.gid)).map (·.id) == some c.id
    if !turn || decide (16 ≤ g.spq.length) then .ok s
    else
      (s.engRead a c.wid (c.src.plus ((256 * i : Nat) : Int)) 256).bind fun (s, bytes) =>
      match firstIdx Prod.snd bytes 0 with
      | some k =>
        let x := (c.src.plus ((256 * i + k : Nat) : Int)).generic
        .error (.stop (some (cPoison, n64 (x.toNat / 128 * 128))))
      | none =>
        (s.objReach a c.wid c.object).bind fun s =>
        let s := s.modGroup c.gid (fun g => { g with spq := g.spq ++ [bytes.map Prod.fst] })
        .ok (s.landed c 256 (if left = 1 then [] else [(i + 1, left - 1)]))
  | _, _ => .ok s

/-- What a command does at a landing; it registers first (R54, R78). -/
def State.landCmd (s : State) (c : Cmd) (off n : Nat) : Eng State :=
  if !c.registered then
    (s.registerObj (s.cmdWho c) c.wid c.object).map (fun s => s.modCmd c.id (fun c => { c with registered := true }))
  else match c.dst, c.kind with
    | .twin g k o, _ => s.registerTwin c ⟨g, k⟩ o
    | _, .copy | _, .twin => s.landTile c off n
    | _, .chain => s.landChain c
    | _, .fill => s.landFill c
    | _, .reloc => .ok s

/-- `CPY`: start a tile copy (R231). -/
def execCpy (f : FmtA) (s : State) : Host.Outcome State Fault Refusal := issue (.cpy f) s (cpyBody f)

/-- `CPYCH`: start a tile copy with an element chain (R232). -/
def execCpych (f : FmtA) (s : State) : Host.Outcome State Fault Refusal := issue (.cpych f) s (cpychBody f)

/-- `CPYREL`: start a relocation command (R233). -/
def execCpyrel (f : FmtA) (s : State) : Host.Outcome State Fault Refusal := issue (.cpyrel f) s (cpyrelBody f)

/-- `SPQFILL`: start a fill of the sparsity queue (R234). -/
def execSpqfill (f : FmtA) (s : State) : Host.Outcome State Fault Refusal := issue (.spqfill f) s (spqfillBody f)

/-- `TWCPY`: start a copy into a twin slot's inactive backing (R237). -/
def execTwcpy (f : FmtA) (s : State) : Host.Outcome State Fault Refusal := issue (.twcpy f) s (twcpyBody f)

/-- `SUBSCR`: subscribe a region to a ring (R239). -/
def execSubscr (f : FmtA) (s : State) : Host.Outcome State Fault Refusal := issue (.subscr f) s (subscrBody f)

/-- `SLOTREL`: return a ring slot (R240). -/
def execSlotrel (f : FmtA) (s : State) : Host.Outcome State Fault Refusal := issue (.slotrel f) s (slotrelBody f)

/-- `TWFLIP`: flip a twin slot (R79, R238). -/
def execTwflip (f : FmtA) (s : State) : Host.Outcome State Fault Refusal := issue (.twflip f) s (twflipBody f)

/-- `TWSET`: write a twin descriptor (R236). -/
def execTwset (f : FmtA) (s : State) : Host.Outcome State Fault Refusal := issue (.twset f) s (twsetBody f)

/-- `TWCLR`: free a twin slot (R236). -/
def execTwclr (f : FmtA) (s : State) : Host.Outcome State Fault Refusal := issue (.twclr f) s (twclrBody f)

/-- `ASYNC_LAND`: bytes `off` to `off` + `n` - 1 of a command land, or its next unit (R54). -/
def execAsyncLand (cmd off n : Nat) (s : State) : Host.Outcome State Fault Refusal :=
  .next (match s.cmd? cmd with
    | some c => if c.fault.isSome then s else s.settleCmd cmd (s.landCmd c off n)
    | none => s)

end Sys2Proof.Machine
end

