-- ==== Sys2Proof/Machine/Power.lean ====
section
/-! DEFINITION. The shape of the draw (R388 to R393), Tethers (R394, R395) and the counters of energy (R404, R405). -/

namespace Sys2Proof.Machine

/-! ### Limits (R389) -/

def clampN (lo hi x : Nat) : Nat := max lo (min hi x)

/-- A PWRCTL value with its fields in range. -/
def State.pwrClamp (s : State) (v : Nat) : Nat :=
  let cap := if s.fitting = .h then clampN 1000 3200 (fld v 48 16) else clampN 300 1000 (fld v 48 16)
  cap * 2 ^ 48 + clampN 0 90 (fld v 32 8) * 2 ^ 32 + clampN 2 40 (fld v 24 6) * 2 ^ 24 + fld v 0 1

/-- `PWRCTL`: a write sets the limits from the next interval on (R389). -/
def execPwrctl (value : Word64) (s : State) : Host.Outcome State Fault Refusal :=
  .next (s.setBar physFn 0x200 (n64 (s.pwrClamp value.toNat)))

/-- A limit of the interval in progress; PWRCTL itself holds those of the next. -/
def State.pwr (s : State) (p n : Nat) : Nat := fld s.power.limits.toNat p n
def State.pcap (s : State) : Nat := s.pwr 48 16
def State.floorPct (s : State) : Nat := s.pwr 32 8
def State.ramp (s : State) : Nat := s.pwr 24 6

/-- An emergency is in force (R391). -/
def State.emergency (s : State) : Bool := s.power.thermal || s.power.overcurrent || s.power.isOff || s.boot.fatal.isSome

/-! ### One interval (R388 to R393) -/

/-- P of the last interval. -/
def State.lastDraw (s : State) : Nat := s.power.hist.headD 0

/-- The least P(n) that holds P(n) ≥ FLOOR / 100 × A20(n), where A20(n) takes P(n) in. -/
def State.floorNow (s : State) : Nat :=
  let f := s.floorPct
  if f = 0 then 0 else ceilDiv (f * (s.power.hist.take 19999).sum) (2000000 - f)

/-- What the draw may not rise above, and may not fall below, in the interval (R388, R390). RAMP binds falls and rises: a cap
below what the draw may fall to, or a floor above what it may rise to, is met in later intervals. In an emergency the draw
may fall at any rate (R391). -/
def State.drawHigh (s : State) : Nat :=
  let top := min (s.lastDraw + s.ramp) s.pcap
  if s.emergency then top else max (s.lastDraw - s.ramp) top
def State.drawLow (s : State) : Nat := max (s.lastDraw - s.ramp) (min s.floorNow s.drawHigh)

/-- A Tether is live (R395). -/
def State.tethered (s : State) : Bool := s.power.tether.isSome && decide (0 < s.power.left)

/-- Does demand rise above the level that Ballast and the floor hold (R395): the draw of a device whose Ballast burns, or whose
draw the floor holds? -/
def State.rises (s : State) (demand : Nat) : Bool :=
  s.tethered && (decide (0 < s.power.ballast) || decide (s.lastDraw ≤ s.drawLow)) && decide (max s.drawLow s.lastDraw < demand)

/-- The delay in force in the interval: one that runs, or one that the first rise under a live Tether begins (R395). -/
def State.delayNow (s : State) (demand : Nat) : Option Nat := match s.power.delay with
  | some n => if 0 < n then some n else none
  | none =>
    if s.rises demand && !s.power.used then
      (match s.power.tether with
       | some t => if 0 < s.power.slot * t.slotw then some (s.power.slot * t.slotw) else none
       | none => none)
    else none

/-- The level that a delay holds. -/
def State.delayLevel (s : State) : Nat := if s.power.delay.isSome then s.power.level else s.lastDraw

/-- Draw of real work, and Ballast, for a demand and for what Ballast can burn (R388, R390 to R392, R395). -/
def State.drawOf (s : State) (demand filler : Nat) : Nat × Nat :=
  if s.power.isOff then (0, 0)
  else if s.emergency then (min demand s.drawHigh, 0)
  else
    let level := max s.drawLow (min s.delayLevel s.drawHigh)
    let (need, top) := match s.delayNow demand with
      | some _ => (level, level)
      | none => (s.drawLow, s.drawHigh)
    let work := min demand top
    (work, if work < need then min (need - work) filler else 0)

/-- Core clock above 1.4 GHz in the interval, in MHz: steps of 25, up or down, that the governor chooses (R393); the spec
fixes no choice within PCAP and RAMP (log 2). -/
def State.boostNow (s : State) (work demand : Nat) : Nat :=
  if s.pwr 0 1 = 0 ∨ s.emergency ∨ work < demand ∨ s.pcap ≤ work then 0
  else min (25 * ((s.free 4 0).toNat % 9)) (s.power.boostMHz + 25)

/-- The core clock of the interval in MHz: boosted, or lowered where the draw is held below demand; how far is the governor's
choice (R390, log 2). -/
def State.coreClock (s : State) (work demand : Nat) : Nat :=
  if work < demand then min 1400 (s.free 11 1).toNat else 1400 + s.boostNow work demand

/-- Functions with the cores that their resident workgroups hold now. -/
def State.coreShare (s : State) : List (Nat × Nat) :=
  ((s.wgs.map (·.fn)).eraseDups).map (fun fn => (fn, (coresOf ((s.wgs.filter (fun w => w.fn == fn)).map (·.place))).length))

/-- Add nJ to what a counter has not yet counted; whole mJ are counted (R404). -/
def State.addEnergy (s : State) (fn nj : Nat) : State :=
  let e := SMap.get 0 s.power.energy fn + nj
  { s with power := { s.power with energy := SMap.set 0 s.power.energy fn (e % 1000000) } }.count fn 0 (e / 1000000)

/-- Time passes: each function's core ticks of the interval grow by those of the cores that its resident workgroups hold (R404). -/
def State.noteHeld (s : State) (ticks : Nat) : Power :=
  { s.power with held := s.coreShare.foldl (fun (m : SMap Nat) e => SMap.set 0 m e.1 (SMap.get 0 m e.1 + e.2 * ticks)) s.power.held }

/-- CORECYC and ENERGY of the functions for an interval, Ballast left out (R404): the core cycles held are the core ticks held, at
the interval's clock in place of the 1.4 GHz of CLOCK (R196). -/
def State.attribute (s : State) (work mhz : Nat) : State :=
  let l := s.power.held
  let total := (List.map (fun (e : Nat × Nat) => e.2) l).sum
  List.foldl (fun (s : State) (e : Nat × Nat) => (s.addEnergy e.1 (work * 1000 * e.2 / total)).count e.1 1 (e.2 * mhz / 1400))
    { s with power := { s.power with held := [] } } l

/-- PWRSTAT (R389). -/
def State.setPwrstat (s : State) (draw avg fl ballast : Nat) : State :=
  s.setBar physFn 0x208 (n64 (draw % 65536 * 2 ^ 48 + avg % 65536 * 2 ^ 32 + fl % 65536 * 2 ^ 16 + ballast % 65536))

/-- TETHERST (R395). -/
def State.setTetherst (s : State) : State :=
  s.setBar physFn 0x220 (match s.power.tether with
    | some t =>
      if 0 < s.power.left then
        n64 (t.seq.toNat * 2 ^ 48 + t.sender % 4096 * 2 ^ 36 + s.power.slot % 256 * 2 ^ 28 + t.slotw % 4096 * 2 ^ 16 +
          ceilDiv s.power.left 1000 % 256 * 2 ^ 8 + 1)
      else 0
    | none => 0)

/-- The state of a Tether's delay after the interval. The rise that begins a delay uses the Tether; one that is taken while a
delay runs is for later rises (R395). -/
def State.stepDelay (s : State) (demand : Nat) : Power :=
  let p := { s.power with left := s.power.left - 1 }
  let used := p.used || (p.delay.isNone && s.rises demand)
  match s.delayNow demand with
  | some n => { p with delay := some (n - 1), level := s.delayLevel, used := used }
  | none => { p with used := used }

/-- `POWER_INTERVAL`: an interval of 1 µs closes (R388). `demand` is what real work would draw, `filler` what Ballast can
burn, in W. -/
def execPowerInterval (demand filler : Nat) (s : State) : Host.Outcome State Fault Refusal :=
  .next (
    let (work, ballast) := s.drawOf demand filler
    let draw := work + ballast
    let boost := s.boostNow work demand
    let hist := (draw :: s.power.hist).take 20000
    let fl := s.floorNow
    let miss := !s.emergency && decide (draw < fl)
    let delayed := (s.delayNow demand).isSome
    let paced := decide (work < demand) && !s.power.isOff
    let p := { s.stepDelay demand with hist := hist, ballast := ballast, boostMHz := boost, limits := s.barReg physFn 0x200
                                       paced := paced, issues := if paced then s.power.issues else [] }
    let t := { s with power := p }.setTetherst
    let t := t.setPwrstat draw (hist.sum / 20000) fl ballast
    let t := (t.attribute work (s.coreClock work demand)).addEnergy 65 (ballast * 1000)
    let t := if miss then t.countDevice 2 1 else t
    let t := if delayed then t.countDevice 4 1 else t
    if 0 < boost then t.countDevice 5 1 else t)

/-! ### Emergencies (R391) -/

/-- `THERMAL_TRIP`: an emergency (R391). -/
def execThermalTrip (s : State) : Host.Outcome State Fault Refusal :=
  .next ({ s with power := { s.power with thermal := true } }.countDevice 1 1)
/-- `RAIL_OVERCURRENT`: an emergency (R391). -/
def execRailOvercurrent (s : State) : Host.Outcome State Fault Refusal :=
  .next ({ s with power := { s.power with overcurrent := true } }.countDevice 1 1)
/-- `POWER_OFF_REQUEST`: management asks for power off (R391). -/
def execPowerOffRequest (s : State) : Host.Outcome State Fault Refusal :=
  .next ({ s with power := { s.power with isOff := true } }.countDevice 1 1)
/-- `THERMAL_TRIP_CLEAR`: the draw rises again under R388 (R391). -/
def execThermalTripClear (s : State) : Host.Outcome State Fault Refusal := .next { s with power := { s.power with thermal := false } }
/-- `OVERCURRENT_CLEAR`: the draw rises again under R388 (R391). -/
def execOvercurrentClear (s : State) : Host.Outcome State Fault Refusal := .next { s with power := { s.power with overcurrent := false } }

/-! ### Tethers (R394, R395) -/

/-- Send a Tether on every Cerlink port but one. -/
def State.sendTether (s : State) (t : Tether) (but : Option Nat) : State :=
  ((List.range 32).filter (fun p => but != some p)).foldl (fun (s : State) p => s.emit (.tether p t)) s

/-- `TETHERTX`: a write sends a new Tether; LIFE 0 or SLOTW 0 sends nothing (R394). -/
def execTethertx (value : Word64) (s : State) : Host.Outcome State Fault Refusal :=
  .next (
    let v := value.toNat
    if !s.cerlink ∨ fld v 52 12 = 0 ∨ fld v 36 8 = 0 then s
    else
      let seq := s.power.txSeq + 1
      { s with power := { s.power with txSeq := seq } }.sendTether ⟨fld v 52 12, fld v 44 8, fld v 36 8, s.peerId.toNat, seq, 8⟩ none)

/-- `TETHER_RECEIVE`: a Tether is taken, once per sender and sequence, and forwarded (R394, R395). -/
def execTetherReceive (msg : Tether) (port : Nat) (s : State) : Host.Outcome State Fault Refusal :=
  .next (
    if !s.cerlink ∨ s.power.taken.contains (msg.sender, msg.seq) then s
    else
      let p := { s.power with taken := s.power.taken ++ [(msg.sender, msg.seq)], tether := some msg, left := msg.life * 1000, used := false
                              slot := s.peerId.toNat % (msg.ngrp + 1) }
      let t := ({ s with power := p }.setTetherst).countDevice 3 1
      if 0 < msg.hops then t.sendTether { msg with hops := msg.hops - 1 } (some port) else t)

/-- `TETHER_LAPSE`: the live Tether's lifetime has expired (R395). -/
def execTetherLapse (s : State) : Host.Outcome State Fault Refusal :=
  .next (if s.power.left = 0 then { s with power := { s.power with tether := none } }.setTetherst else s)

/-- `TETHER_DELAY_END`: a delay has run out, and the rise proceeds under R388 (R395). -/
def execTetherDelayEnd (s : State) : Host.Outcome State Fault Refusal :=
  .next (if s.power.delay = some 0 then { s with power := { s.power with delay := none } } else s)

end Sys2Proof.Machine
end

