-- ==== Sys2Proof/Machine/Spawn.lean ====
section
/-! DEFINITION. SPAWN: child waves (R11, R16, R186 to R188) and the wave queue (R300, R301). -/

namespace Sys2Proof.Machine

/-! ### Code objects (R301) -/

/-- Entries of a context's code-object table from entry `i` on: base and length; a length of zero ends it. -/
def State.codeEntries (s : State) (tab : Nat) : Nat → Nat → List (Nat × Nat)
  | 0, _ => []
  | n + 1, i =>
    let len := s.rd (tab + 16 * i + 8) 8
    if len = 0 then [] else (s.rd (tab + 16 * i) 8, len) :: s.codeEntries tab n (i + 1)

/-- The registered range that holds an entry point. -/
def State.codeRange (s : State) (root entry : Nat) : Option (Nat × Nat) :=
  (s.codeEntries (fld (s.rcbD root 9) 0 57) 64 0).find? (fun e => e.1 ≤ entry && entry < e.1 + e.2)

/-- The loaded object whose code lies in the range; else the object `other`. -/
def State.imageIn (s : State) (range : Option (Nat × Nat)) (other : Nat) : Nat := match range with
  | some (b, n) => match s.images.find? (fun i => b ≤ i.text.toNat && i.text.toNat < b + n) with
    | some i => i.key
    | none => other
  | none => other

/-! ### The descriptor (R186) -/

structure WaveDesc where
  entry : Nat
  cword : Nat
  arg : Nat
  nwg : Nat
  ngrp : Nat
  vgran : Nat
  mgran : Nat
  scrk : Nat
  acct : Nat
  priov : Bool
  prio : Nat
  rsv : Nat
  deriving DecidableEq, Repr
def waveDesc (x : Nat) : WaveDesc :=
  ⟨fld x 192 64, fld x 128 64, fld x 64 64, fld x 48 16, fld x 42 6, fld x 38 4, fld x 32 6, fld x 21 11, fld x 15 6, bitN x 14, fld x 10 4, fld x 0 10⟩

/-- Check 2 of R187. -/
def State.waveDescOk (s : State) (root : Nat) (d : WaveDesc) : Bool :=
  d.rsv == 0 && d.nwg != 0 && d.ngrp != 0 && decide (d.ngrp ≤ 32) && decide (d.vgran ≤ 12) && decide (d.mgran ≤ 32) &&
  decide (d.scrk ≤ 1024) && decide (d.acct ≤ 32) && d.entry % 4 == 0 && decide (d.entry < 2 ^ 57) && d.cword % 8 == 0 &&
  decide (d.cword < 2 ^ 57) && (s.codeRange root d.entry).isSome

/-- A workgroup of the footprint can never fit one core (R187). -/
def neverFits (ngrp vgran mgran acct : Nat) : Bool := decide (128 < ceilDiv ngrp 4 * (vgran + mgran)) || decide (32 < ceilDiv ngrp 4 * acct)

/-- Does every budget on the path have room for the resources (R10, R187, R309)? -/
def State.budgetRoom (s : State) (rcb : Nat) (n : Res) : Bool := (s.path rcb).all (fun r =>
  let h := s.held r
  let b := s.budget r
  decide (h.gran + n.gran ≤ b.gran) && decide (h.scrk + n.scrk ≤ b.scrk) && decide (h.acct + n.acct ≤ b.acct))

/-- The lowest free slot of a context's wave queue: no wave that has not ended lies in it or hangs beneath it (R300). -/
def State.waveSlot (s : State) (ctx : Nat) : Option Nat :=
  let root := s.ctxRcb ctx
  let base := fld (s.rcbD root 10) 0 57
  let live := (s.work.filter (fun w => w.ctx == ctx)).map (fun w => w.path.map Prod.fst)
  ((List.range (2 ^ fld (s.rcbD root 11) 60 4)).map (fun i => base + 128 * i)).find? (fun a => !live.any (fun p => p.contains a))

/-- Checks 3 to 6 of R187: the status, and the slot of an accepted wave. -/
def State.spawnStatus (s : State) (d : WaveDesc) : Nat × Nat :=
  let rcb := s.cw.rcb
  if 4 ≤ s.rcbDepth rcb then (1, 0)
  else if neverFits d.ngrp d.vgran d.mgran d.acct then (3, 0)
  else if !s.budgetRoom rcb { gran := d.ngrp * (d.vgran + d.mgran), scrk := d.scrk, acct := d.ngrp * d.acct } then (2, 0)
  else match s.waveSlot s.cw.ctx with
    | none => (4, 0)
    | some a => (0, a)

/-- The doublewords of a wave's RCB (R299, R301). -/
def State.waveRcb (s : State) (d : WaveDesc) : List Nat :=
  let rcb := s.cw.rcb
  let root := s.ctxRcb s.cw.ctx
  [4 * 2 ^ 60 + 2 ^ 56 + (s.rcbDepth rcb + 1) * 2 ^ 53 + (if d.priov then 2 ^ 43 else 0), rcb, 0, 0, (if d.priov then d.prio * 2 ^ 60 else 0), 0, 0, 0,
   d.entry, s.imageIn (s.codeRange root d.entry) (fld (s.rcbD rcb 9) 0 57), d.arg, d.nwg * 2 ^ 32 + s.cw.lnum % 2 ^ 16 * 2 ^ 16, d.cword, 0, 0, 0]

/-- Queue an accepted wave. -/
def State.queueWave (s : State) (a : Nat) (d : WaveDesc) : State :=
  let t := (s.wrN a ((s.waveRcb d).map (leBytes 8)).flatten).newWork s.cw.ctx a
  { t with waves := t.waves.filter (fun w => w.rcb ≠ a) ++ [⟨a, d.ngrp, d.vgran, d.mgran, d.scrk, d.acct⟩]
           candidates := t.candidates.filter (· ≠ a) ++ [a], reached := t.reached.filter (· ≠ a) ++ [a] }

/-- SPAWN (R186 to R188). -/
def spawnBody (f : FmtC) (s : State) : Exec :=
  let a := s.sregOr 0 f.sa
  if a.toNat % 32 ≠ 0 then trapAt s cMisaligned a
  else
    (wholeTrap (s.loadThreads .global 32 32 false [⟨0, a⟩])).bind fun (s, vs) =>
    let d := waveDesc (leNat ((vs.map Prod.snd).headD []))
    if !s.waveDescOk (s.ctxRcb s.cw.ctx) d then trapAt s cSpawn a
    else
      let (st, slot) := s.spawnStatus d
      let fin (s : State) : State := (s.setSOpt f.sb (n64 st)).modCg (fun g => g.setPred (f.imm.toNat % 8) s.cf.mask (if st = 0 then BitVec.allOnes 32 else 0))
      if st ≠ 0 then .ok (fin s) else (s.releaseWait true).map fun s => fin (s.queueWave slot d)

/-- `SPAWN`: create a child wave (R186). -/
def execSpawn (f : FmtC) (s : State) : Host.Outcome State Fault Refusal := issue (.spawn f) s (spawnBody f)

end Sys2Proof.Machine
end

