-- ==== Sys2Proof/Machine/Loader.lean ====
section
/-! DEFINITION. The loader: a DOB file (R279 to R284), the checks that it makes, in their order (R285), the tables that it
leaves at IMAGE (R301), and its sections, with the relocations of R280 applied, as they go to memory. -/

namespace Sys2Proof.Machine

/-! ### Reading the file (R279) -/

/-- `n` bytes of a file as a number. -/
def fileNat (file : List Byte) (o n : Nat) : Nat := leNat ((file.drop o).take n)

/-- A section record. -/
structure Sect where
  kind : Nat
  off : Nat
  size : Nat
  deriving DecidableEq, Repr

def sectKinds : List Nat := [1, 2, 3, 4, 5, 16, 17, 18, 19, 20, 21]

/-- The section records. -/
def sections (file : List Byte) : List Sect := (List.range (fileNat file 8 4)).map (fun i =>
  let o := fileNat file 16 8 + 24 * i
  ⟨fileNat file o 4, fileNat file (o + 8) 8, fileNat file (o + 16) 8⟩)

/-- The bytes of a section; one that is absent is empty. -/
def sect (file : List Byte) (kind : Nat) : List Byte := match (sections file).find? (fun e => e.kind == kind) with
  | some e => (file.drop e.off).take e.size
  | none => []

def Sect.meets (a b : Sect) : Bool := decide (a.off < b.off + b.size) && decide (b.off < a.off + a.size)
/-- Does some section overlap a later one? -/
def overlaps : List Sect → Bool
  | [] => false
  | e :: l => l.any e.meets || overlaps l

/-- Code 1, with the sections that R279 asks for, each at most once and of a known kind (log 61). -/
def fileBad (file : List Byte) : Bool :=
  let kinds := (sections file).map (·.kind)
  decide (file.length < 32) || fileNat file 0 4 != 0x31424F44 || fileNat file 4 2 != 1 || fileNat file 6 2 != 0 || fileNat file 12 4 != 0 ||
  decide (file.length < fileNat file 16 8 + 24 * fileNat file 8 4) || (sections file).any (fun e => decide (file.length < e.off + e.size)) ||
  overlaps (sections file) || kinds.eraseDups.length != kinds.length || !kinds.all sectKinds.contains || !List.all [1, 16, 17, 18] kinds.contains

/-! ### Clauses (R140, R141) -/

/-- The 32-bit words of a section, and whether it holds whole words. -/
def sectWords (l : List Byte) : List Nat := (List.range (l.length / 4)).map (fun i => fileNat l (4 * i) 4)

/-- The clauses of a section from word `o` on, by word offset; none where a header is illegal or a clause passes the end. -/
def clausesAt (ws : List Nat) : Nat → Nat → Option (List (Nat × Clause))
  | 0, _ => some []
  | fuel + 1, o =>
    if ws.length ≤ o then some []
    else match decodeHeader (ws.getD o 0) with
      | none => none
      | some h =>
        let c : Clause := ⟨h, (ws.drop (o + 1)).take h.count⟩
        if c.words.length < h.count ∨ litOccurrences c.words c.nIns 16 0 ≠ h.litn then none
        else (clausesAt ws fuel (o + 1 + h.count)).map (fun l => (o, c) :: l)
def clauses (l : List Byte) : Option (List (Nat × Clause)) :=
  if l.length % 4 ≠ 0 then none else clausesAt (sectWords l) (l.length / 4 + 1) 0

/-- The word indices at which the instructions of a clause start. -/
def clauseStarts (c : Clause) : List Nat := (List.range c.nIns).filter (fun k => startsAt c.words k 16 0)
/-- The points of clauses, in address order: the word offset of the header and the word index. -/
def points (l : List (Nat × Clause)) : List (Nat × Nat) := (l.map (fun e => (clauseStarts e.2).map (fun k => (e.1, k)))).flatten

/-! ### The side table (R281, R282) -/

def SideEntry.ofNat (n : Nat) : SideEntry :=
  { hoff := fld n 4 28, widx := fld n 0 4, entry := bitN n 32, target := bitN n 33, hold := bitN n 34, period := bitN n 35
    vmask := BitVec.ofNat 12 (fld n 36 12), hmask := BitVec.ofNat 16 (fld n 48 16), mmask := BitVec.ofNat 32 (fld n 64 32), accmask := BitVec.ofNat 32 (fld n 96 32) }
def sideTable (l : List Byte) : List SideEntry := (List.range (l.length / 16)).map (fun i => SideEntry.ofNat (fileNat l (16 * i) 16))

def sideSorted : List SideEntry → Bool
  | a :: b :: l => (decide (a.hoff < b.hoff) || (a.hoff == b.hoff && decide (a.widx < b.widx))) && sideSorted (b :: l)
  | _ => true

/-- An instruction that can hold its fragment: by its major and minor, or by a queue or a stream that it names. -/
def canHold (c : Clause) (k : Nat) : Bool :=
  let w := c.words.getD k 0
  let maj := fld w 26 6
  let min := fld w 22 4
  [0x18, 0x19, 0x1A, 0x1B, 0x1C, 0x24, 0x30].contains maj || (maj == 0x29 && [1, 2, 3, 4, 6, 7, 9, 10, 11, 12, 13].contains min) ||
  (maj == 0x2A && decide (3 ≤ min) && decide (min ≤ 8)) || (maj == 0x20 && min == 1) || (match c.instrAt k with
    | .ok (i, _) => i.sels.any (fun x => match x with
      | .q _ | .w _ => true
      | _ => false)
    | .error _ => false)

/-- What the last instruction of a clause names as a point: the target of a CALL, or of a branch that does not go forward. -/
def clauseNames (o : Nat) (c : Clause) : Option Nat :=
  let aim (f : FmtCB) : Option Nat := if 0 ≤ (o : Int) + f.toff.toInt then some ((o : Int) + f.toff.toInt).toNat else none
  match (clauseStarts c).getLast?.map c.instrAt with
  | some (.ok (.call f, _)) => aim f
  | some (.ok (.bra f, _)) | some (.ok (.brs f, _)) | some (.ok (.brz f, _)) | some (.ok (.breod f, _)) | some (.ok (.brneod f, _)) =>
    if f.toff.toInt ≤ 0 then aim f else none
  | _ => none

/-- The points at which R282 asks for an entry. A procedure that no CALL names and that is not `.entry` shows in no record of
the file (log 61). -/
def required (entry : Nat) (l : List (Nat × Clause)) : List (Nat × Nat) :=
  (entry, 0) :: ((l.filterMap (fun e => clauseNames e.1 e.2)).filter (fun o => l.any (fun e => e.1 == o))).map (fun o => (o, 0)) ++
  (l.filter (fun e => e.2.hdr.w1p != 7 || e.2.hdr.w2p != 7)).map (fun e => (e.1, 0)) ++
  (l.map (fun e => ((clauseStarts e.2).filter (canHold e.2)).map (fun k => (e.1, k)))).flatten

/-- Do more than 63 points follow one another without an entry? -/
def longGap (side : List (Nat × Nat)) : Nat → List (Nat × Nat) → Bool
  | _, [] => false
  | n, p :: l => if side.contains p then longGap side 0 l else if n = 63 then true else longGap side (n + 1) l

/-! ### Footprint, roles, pairings (R282, R283) -/

def Image.withFoot (i : Image) (n : Nat) : Image :=
  { i with vgran := fld n 60 4, mgran := fld n 54 6, scrk := fld n 43 11, acct := fld n 37 6, ngrp := fld n 31 6, sstk := fld n 16 15, gstk := fld n 0 16 }

/-- Code 6. -/
def Image.footBad (i : Image) : Bool :=
  decide (12 < i.vgran) || decide (32 < i.mgran) || decide (1024 < i.scrk) || decide (32 < i.acct) || i.ngrp == 0 || decide (32 < i.ngrp) ||
  neverFits i.ngrp i.vgran i.mgran i.acct || decide (i.scrk * 1024 < i.ngrp * i.sstk * 16)

/-- A role by its GINFO code (R12). -/
def roleOf : Nat → Role
  | 0 => .none
  | 1 => .copy
  | 2 => .matrix
  | _ => .vector
def Image.withRoles (i : Image) (n : Nat) : Image :=
  { i with roles := (List.range i.ngrp).map (fun g => roleOf (fld n (2 * g) 2)), sparse := BitVec.ofNat 32 (fld n 64 32) }

/-- Code 7. -/
def rolesBad (ngrp n : Nat) : Bool :=
  let owners := (List.range 32).filter (fun g => bitN n (64 + g))
  (List.range 32).any (fun g => decide (ngrp ≤ g) && (fld n (2 * g) 2 != 0 || bitN n (64 + g))) || (owners.map (· % 4)).eraseDups.length != owners.length

/-- The Mule pairings: GIDX and MOFF. -/
def pairings (l : List Byte) : List (Nat × Nat) := (List.range (l.length / 8)).map (fun i => (fld (fileNat l (8 * i) 8) 0 5, fld (fileNat l (8 * i) 8) 32 32))

/-- Code 8. -/
def pairsBad (ngrp : Nat) (heads : List Nat) (l : List (Nat × Nat)) : Bool :=
  l.any (fun e => decide (ngrp ≤ e.1) || !heads.contains e.2) || (l.map Prod.fst).eraseDups.length != l.length

/-! ### Regions (R132, R284) -/

/-- The records of an `.apx` section; none where the section ends inside one. -/
def regionsAt (text : Word64) (l : List Byte) : Nat → Nat → Option (List (Nat × Region))
  | 0, _ => some []
  | fuel + 1, o =>
    if l.length ≤ o then some []
    else
      let config := BitVec.ofNat 128 (fileNat l (o + 8) 16)
      let n := if config.getLsbD 15 then 1000 else 24
      let weights := if config.getLsbD 15 then (List.range 484).map (fun i => BitVec.ofNat 16 (fileNat l (o + 24 + 2 * i) 2)) else []
      if l.length < o + n then none
      else (regionsAt text l fuel (o + n)).map (fun r => (o, ⟨fld config.toNat 0 4, config, weights, va57 (text.toNat + 4 * fileNat l o 4)⟩) :: r)

/-- Does the clause at a word offset hold an APXB with the region's ID and counts? -/
def holdsApxb (cs : List (Nat × Clause)) (o : Nat) (r : Region) : Bool := cs.any (fun e => e.1 == o && (match (clauseStarts e.2).getLast?.map e.2.instrAt with
  | some (.ok (.apxb f, _)) =>
    fld f.aux.toNat 0 4 == r.id && fld f.aux.toNat 4 2 == fld r.config.toNat 56 2 && (match f.sc with
      | .v i => i.val == fld r.config.toNat 53 3
      | _ => false)
  | _ => false))

def idsRise : List Nat → Bool
  | a :: b :: l => decide (a < b) && idsRise (b :: l)
  | _ => true

/-- Code 9, with the order of the records (log 61). -/
def regionsBad (cs : List (Nat × Clause)) (l : List Byte) (rs : List (Nat × Region)) : Bool :=
  rs.any (fun e =>
    let n := e.2.config.toNat
    !holdsApxb cs (fileNat l e.1 4) e.2 || fileNat l (e.1 + 4) 4 != 0 || bitN n 58 || fld n 48 5 != 0 || fld n 16 16 != 0 || fld n 4 11 != 0 ||
    (bitN n 15 && fileNat l (e.1 + 992) 8 != 0)) || !idsRise (rs.map (fun e => e.2.id))

/-! ### Relocations (R280) -/

/-- A symbol record: its name's offset in the string area, its section's kind and its offset there. -/
structure Sym where
  name : Nat
  kind : Nat
  off : Nat
  deriving DecidableEq, Repr

/-- The symbol records: as many as the section's size allows, for the file does not say where they end (log 61). -/
def symbols (file : List Byte) : List Sym :=
  let l := sect file 20
  (List.range (l.length / 16)).map (fun i => ⟨fileNat l (16 * i) 4, fileNat l (16 * i + 4) 4, fileNat l (16 * i + 8) 8⟩)

/-- A relocation record: its place, its symbol's index and its type. -/
structure Rel where
  off : Nat
  sym : Nat
  type : Nat
  deriving DecidableEq, Repr

def relocations (file : List Byte) : List Rel :=
  let l := sect file 21
  (List.range (l.length / 16)).map (fun i => ⟨fileNat l (16 * i) 8, fileNat l (16 * i + 8) 4, fileNat l (16 * i + 12) 4⟩)

/-- Bytes that a relocation writes. -/
def Rel.bytes (r : Rel) : Nat := if r.type = 1 then 8 else 4
/-- Does it lie in the section of this kind? -/
def Rel.fits (r : Rel) (file : List Byte) (kind : Nat) : Bool := decide (r.off + r.bytes ≤ (sect file kind).length)
/-- The section that it is for: the one of `.data` and `.const` in which it lies; where it lies in both, the record does not say
which, and the choice is free (log 61). -/
def Rel.section (r : Rel) (file : List Byte) : Nat :=
  if r.fits file 3 ∧ (!r.fits file 4 ∨ Config.relocInData r.off) then 3 else 4

/-- Code 10: a record's place lies in neither data section, or it names no symbol record, a symbol of no section in memory, or no
type of R280 (log 61). -/
def relocBad (file : List Byte) : Bool :=
  (sect file 21).length % 16 != 0 || (relocations file).any (fun r =>
    r.type == 0 || decide (3 < r.type) || !(r.fits file 3 || r.fits file 4) || (match (symbols file)[r.sym]? with
      | some y => y.kind == 0 || decide (4 < y.kind)
      | none => true))

/-- What a relocation writes: the symbol's address in `base`, the addresses of the sections by kind, whole, or its low or high 32
bits. -/
def Rel.value (r : Rel) (y : Sym) (base : Nat → Word64) : List Byte :=
  let a := base y.kind + BitVec.ofNat 64 y.off
  leBytes r.bytes (if r.type = 3 then (a >>> 32).toNat else a.toNat)

/-- A section as it goes to memory: the file's bytes, with the relocations that are for it applied in their order. -/
def placedSect (file : List Byte) (base : Nat → Word64) (kind : Nat) : List Byte :=
  (relocations file).foldl (fun l r => match (symbols file)[r.sym]? with
    | some y => if r.section file = kind then l.take r.off ++ r.value y base ++ l.drop (r.off + r.bytes) else l
    | none => l) (sect file kind)

/-! ### The loader (R285) -/

/-- An object's tables, or the first failing code. `key` is IMAGE; `text` and `mule` are the addresses of the two sections. -/
def loadDob (key : Nat) (text mule : Word64) (file : List Byte) : Except Nat Image :=
  if fileBad file then .error 1
  else match clauses (sect file 1), clauses (sect file 2) with
    | some cs, some ms =>
      let side := sideTable (sect file 16)
      let marks := side.map (fun e => (e.hoff, e.widx))
      let i : Image := { key := key, text := text, side := side, vgran := 0, mgran := 0, scrk := 0, acct := 0, ngrp := 0, roles := [], sparse := 0, mules := [], regions := [] }
      let i := (i.withFoot (fileNat (sect file 18) 0 8)).withRoles (fileNat (sect file 17) 0 16)
      let pairs := pairings (sect file 19)
      if (sect file 16).length % 16 ≠ 0 ∨ !sideSorted side ∨ !marks.all (points cs).contains then .error 3
      else if !(required (fileNat file 24 8) cs).all marks.contains then .error 4
      else if longGap marks 0 (points cs) then .error 5
      else if (sect file 18).length ≠ 8 ∨ i.footBad then .error 6
      else if (sect file 17).length ≠ 16 ∨ rolesBad i.ngrp (fileNat (sect file 17) 0 16) then .error 7
      else if (sect file 19).length % 8 ≠ 0 ∨ pairsBad i.ngrp (ms.map Prod.fst) pairs then .error 8
      else match regionsAt text (sect file 5) ((sect file 5).length + 1) 0 with
        | none => .error 9
        | some rs =>
          if regionsBad cs (sect file 5) rs then .error 9
          else if relocBad file then .error 10
          else .ok { i with mules := pairs.map (fun e => (e.1, va57 (mule.toNat + 4 * e.2))), regions := rs.map Prod.snd }
    | _, _ => .error 2

/-- The loader places an object's tables and writes its sections to memory, or reports the code and loads nothing. -/
def State.loadObject (s : State) (key : Nat) (text mule data const : Site) (file : List Byte) : State :=
  let site (kind : Nat) : Site := if kind = 1 then text else if kind = 2 then mule else if kind = 3 then data else const
  match loadDob key text.va mule.va file with
  | .ok i => [1, 2, 3, 4].foldl (fun (t : State) kind => match (site kind).pa with
      | some pa => t.outsideStore pa (placedSect file (fun k => (site k).va) kind)
      | none => t) { s with images := s.images.filter (fun j => j.key ≠ key) ++ [i] }
  | .error c => { s with out := s.out ++ [.loadFailed key c] }

end Sys2Proof.Machine
end

