-- ==== Sys2Proof/Machine/Queues.lean ====
section
/-! DEFINITION. Launch queues (R302 to R305), colour changes and scheduling epochs (R307, R308), gang reservations (R312). -/

namespace Sys2Proof.Machine

/-- Does the device run groups: it has started (R396), no fatal error holds it (R398) and its power is on (R391)? -/
def State.running (s : State) : Bool := s.boot.stage == 7 && s.boot.fatal.isNone && !s.power.isOff

/-- PAUSED of the machine that owns a context's function (R347). -/
def State.machPaused (s : State) (ctx : Nat) : Bool := bitN (s.rd (s.machBlock (s.machOf (s.ctxFn ctx)) + 24) 8) 0

/-! ### Checks of an RCB (R299 to R301, R304) -/

/-- Reserved bits of a node are zero: (doubleword, first bit, bits) for every kind, for a context, for a launch or wave. -/
def rsvNode : List (Nat × Nat × Nat) :=
  [(0, 48, 5), (0, 8, 34), (1, 57, 7), (2, 0, 10), (3, 0, 24), (4, 0, 35), (5, 0, 2), (6, 0, 48), (7, 0, 64)]
def rsvContext : List (Nat × Nat × Nat) :=
  [(8, 3, 5), (9, 57, 7), (10, 57, 7), (11, 4, 56), (12, 57, 7), (13, 57, 7), (14, 57, 3), (15, 57, 7)]
def rsvLaunch : List (Nat × Nat × Nat) := [(8, 57, 7), (9, 57, 7), (11, 0, 8), (12, 57, 7), (13, 57, 3), (15, 0, 64)]

/-- A node is well formed: a kind, reserved bits zero, a context's OVR all ones, no reserved gang code. -/
def State.nodeOk (s : State) (n : Nat) : Bool :=
  let k := s.rcbKind n
  let zero (l : List (Nat × Nat × Nat)) : Bool := l.all (fun e => fld (s.rcbD n e.1) e.2.1 e.2.2 == 0)
  let gang := fld (s.rcbD n 4) 35 4
  1 ≤ k && k ≤ 4 && zero rsvNode && (k != 1 || (zero rsvContext && fld (s.rcbD n 0) 42 6 == 63)) && (k < 3 || zero rsvLaunch) &&
  (!(k == 1 || s.rcbOvr n 5) || gang == 0 || (2 ≤ gang && gang ≤ 12))

/-- What may hang beneath what. -/
def parentOk (child parent : Nat) : Bool := if child = 4 then 3 ≤ parent else parent == 1 || parent == 2

/-- A chain of well-formed nodes that reaches the context within `n` nodes. -/
def State.chainOk (s : State) (root : Nat) : Nat → Nat → Bool
  | 0, _ => false
  | n + 1, r => s.nodeOk r && (if s.rcbKind r = 1 then r == root
      else parentOk (s.rcbKind r) (s.rcbKind (s.rcbParent r)) && s.chainOk root n (s.rcbParent r))

def State.image? (s : State) (key : Nat) : Option Image := s.images.find? (fun i => i.key == key)
def State.imageOf (s : State) (rcb : Nat) : Option Image := s.image? (fld (s.rcbD rcb 9) 0 57)

/-- FAIL of a LAUNCH, 0 where it passes (R304, R314). -/
def State.launchFail (s : State) (ctx rcb : Nat) : Nat :=
  let root := s.ctxRcb ctx
  if s.rcbKind rcb ≠ 3 ∨ !s.chainOk root 16 rcb ∨ fld (s.rcbD rcb 11) 32 32 = 0 ∨ 8 < fld (s.rcbD rcb 13) 60 4 then 1
  else match s.imageOf rcb with
    | none => 1
    | some i =>
      if (s.codeRange root (fld (s.rcbD rcb 8) 0 57)).isNone then 5
      else if i.footBad then 2
      else 0

/-- A launch is taken up: STATE 1, or 2 behind its dependences or an ORDER (R304); one that fails its checks takes STATE 7. NEXTWG and
DONEWG stay as memory holds them: the spec does not say who sets them to 0 for a second launch of an RCB, and the model leaves it to the
driver (log 64). -/
def State.takeLaunch (s : State) (ctx q rcb : Nat) : State :=
  let fail := s.launchFail ctx rcb
  if fail ≠ 0 then s.setRcbState rcb 7 fail
  else
    let s := ((s.setRcbD rcb 0 (putFld (s.rcbD rcb 0) 53 3 1)).setRcbState rcb 2 0).newWork ctx rcb
    let waits := match s.orders.find? (fun e => e.1 == ctx && e.2.1 == q) with
      | some e => e.2.2.filter (fun r => !s.launchOver r)
      | none => []
    let s := { s with queued := s.queued ++ [(ctx, q, rcb)] }
    if !waits.isEmpty then { s with ordered := s.ordered ++ [(rcb, waits)] }
    else if fld (s.rcbD rcb 11) 8 8 = 0 then s.becomeCandidate rcb
    else s

/-! ### Queues (R302, R303, R305) -/

/-- A queue descriptor. -/
structure LaunchQueue where
  addr : Nat
  base : Nat
  logn : Nat
  head : Nat
  tail : Nat
  qerr : Nat
  deriving DecidableEq, Repr
def State.lq (s : State) (ctx q : Nat) : LaunchQueue :=
  let a := fld (s.rcbD (s.ctxRcb ctx) 14) 0 57 + 32 * q
  let d2 := s.rd (a + 16) 8
  ⟨a, fld (s.rd a 8) 0 57, fld (s.rd (a + 8) 8) 44 4, fld d2 32 32, fld d2 0 32, s.rd (a + 24) 1⟩
/-- Launch queues of a context. -/
def State.nlq (s : State) (ctx : Nat) : Nat := fld (s.rcbD (s.ctxRcb ctx) 14) 60 4 + 1

/-- A queue stops with QERR, and MSI-X vector 2 is raised (R355). -/
def State.stopQueue (s : State) (ctx q code : Nat) : State :=
  let t := (s.wr ((s.lq ctx q).addr + 24) 1 code).emit (.msix (s.ctxFn ctx) 2)
  { t with stopped := t.stopped.filter (· ≠ (ctx, q)) ++ [(ctx, q)] }

/-- A doorbell write to an existing queue whose QERR is 0. -/
def State.ringBell (s : State) (ctx q new : Nat) : State :=
  let l := s.lq ctx q
  let ahead (b : Nat) : Nat := (new + 2 ^ 32 - b) % 2 ^ 32
  let again := s.stopped.contains (ctx, q)
  let s := { s with stopped := s.stopped.filter (· ≠ (ctx, q)) }
  if if again then 2 ^ 31 ≤ ahead l.head else ahead l.tail = 0 ∨ 2 ^ 31 ≤ ahead l.tail then s
  else if 2 ^ l.logn < ahead l.head then s.stopQueue ctx q 1
  else s.wr (l.addr + 16) 4 new

/-- `DOORBELL`: a write to a function's doorbell (R303, R305). -/
def execDoorbell (fn : Nat) (value : Word64) (s : State) : Host.Outcome State Fault Refusal :=
  .next (
    let v := value.toNat
    let ctx := fld v 32 16
    let q := fld v 60 4
    if !s.running then s
    else if (s.ctx? ctx).isNone ∨ s.ctxFn ctx ≠ fn ∨ s.nlq ctx ≤ q then s.count fn 2 1
    else if (s.lq ctx q).qerr ≠ 0 then s
    else s.ringBell ctx q (fld v 0 32))

/-- The operation of a command; none is malformed (R302). -/
def commandOp (d0 d1 : Nat) : Option Nat :=
  match fld d0 56 8 with
  | 1 => if fld d0 0 56 = 0 ∧ fld d1 57 7 = 0 then some 1 else none
  | 2 => if fld d0 0 56 = 0 ∧ d1 = 0 then some 2 else none
  | 3 => if fld d0 8 48 = 0 ∧ d1 = 0 then some 3 else none
  | _ => none

/-- The command at HEAD of a queue that runs (R303, R305, R347): its doublewords. -/
def State.command (s : State) (ctx q : Nat) : Option (Nat × Nat) :=
  let l := s.lq ctx q
  if s.running ∧ (s.ctx? ctx).isSome ∧ q < s.nlq ctx ∧ !s.machPaused ctx ∧ !s.stopped.contains (ctx, q) ∧ l.qerr = 0 ∧ l.head ≠ l.tail then
    let a := l.base + 16 * (l.head % 2 ^ l.logn)
    some (s.rd a 8, s.rd (a + 8) 8)
  else none

/-- Consume the command at HEAD if it is of this operation; a malformed one sets QERR 2 (R304, R305). -/
def State.consume (s : State) (ctx q op : Nat) (f : State → Nat → Nat → State) : State :=
  match s.command ctx q with
  | none => s
  | some (d0, d1) =>
    let l := s.lq ctx q
    let t := s.wr (l.addr + 20) 4 (l.head + 1)
    match commandOp d0 d1 with
    | none => t.stopQueue ctx q 2
    | some k => if k = op then f t d0 d1 else s

/-- `LAUNCH`: a launch command is consumed (R304). -/
def execLaunch (ctx q : Nat) (s : State) : Host.Outcome State Fault Refusal :=
  .next (s.consume ctx q 1 (fun s _ d1 => s.takeLaunch ctx q d1))

/-- `ORDER`: later launches of the queue wait for the earlier ones (R304). -/
def execOrder (ctx q : Nat) (s : State) : Host.Outcome State Fault Refusal :=
  .next (s.consume ctx q 2 (fun s _ _ =>
    let l := (s.queued.filter (fun e => e.1 == ctx && e.2.1 == q)).map (·.2.2)
    { s with orders := s.orders.filter (fun e => !(e.1 == ctx && e.2.1 == q)) ++ [(ctx, q, l.filter (fun r => !s.launchOver r))] }))

/-- `KILL`: a fault domain is killed for reason 4 (R304, R313, R323). -/
def execKill (ctx q : Nat) (s : State) : Host.Outcome State Fault Refusal :=
  .next (s.consume ctx q 3 (fun s d0 _ => s.killDomain ctx (fld d0 0 8) 4 0 0 0 0))

/-! ### Epochs -/

/-- A launch or wave ends before its time with all it has resident or saved (R308, R313). -/
def State.killLaunch (s : State) (rcb fail : Nat) : State := s.beginKill (.launch rcb fail)

/-- A node on the path has changed a field that must not change. -/
def State.workChanged (s : State) (w : Work) : Bool := w.path.any (fun e => s.nodeSig e.1 != e.2)

/-- Effective fields are read again (R308). GANG is read again with them: R308 does not name it, and that a changed gang request takes
effect at the epoch is the model's choice (log 64). -/
def State.refresh (s : State) : State :=
  let bad := s.work.filter s.workChanged
  let s := (bad.foldl (fun (s : State) w => s.killLaunch w.rcb 1) s).recheckOrders
  let s := { s with work := s.work.map (fun (w : Work) => { w with prio := s.effPrio w.rcb, bwe := s.effBwe w.rcb, gang := s.effGang w.rcb }) }
  let nodes := ((s.work.map (fun w => w.path.map Prod.fst)).flatten).eraseDups
  { s with
    budgets := nodes.foldl (fun (m : SMap (Option Res)) n => SMap.set none m n (some (s.effBudget n))) []
    wgs := s.wgs.map (fun (w : Workgroup) => match s.workOf w.rcb with
      | some k => { w with prio := k.prio, bwe := k.bwe }
      | none => w) }

/-- Launches that wait for dependences and that their RCB no longer holds back become candidates: the driver may rewrite DEPS
(R301, R306). -/
def State.recheckDeps (s : State) : State :=
  (s.work.filter (fun w => s.rcbState w.rcb == 2 && fld (s.rcbD w.rcb 11) 8 8 == 0 && !s.ordered.any (fun e => e.1 == w.rcb))).foldl
    (fun (s : State) w => s.becomeCandidate w.rcb) s

/-- Blocked GROW requests are offered again: budgets may have risen (R34, R35). -/
def State.growAll (s : State) : State := (s.groups.map (·.gid)).foldl State.growCheck s

/-- A colour word read by the scheduler (R307): its value, or where it cannot be read. Answers about its line are awaited first. -/
def State.colourWord (s : State) (n i : Nat) : State × Option Nat := match s.fate (s.ctxWho n) (s.colourVa n i) false with
  | .ok x => match s.lineHold x 8 false with
    | some t => (t, none)
    | none => (s.noteRead (s.ctxWho n) x 8, some (s.rd x.pa 8))
  | _ => (s, none)

/-- The colour change of a context at an epoch (R123, R307): one in progress ends if it can; then, where none is in progress, the
request word is read. -/
def State.colourStep (s : State) (c : Ctx) : State :=
  let s := s.colourEnd c.num
  if ((s.ctx? c.num).bind (·.change)).isSome then s
  else
    let (s, req) := s.colourWord c.num 0
    let (s, done) := s.colourWord c.num 1
    match req, done with
    | some req, some done =>
      let seq := fld req 32 32
      let col := fld req 0 2
      let good := (s.ctxGood c.num).toNat
      if seq = fld done 32 32 then s
      else if col = 0 ∨ col = good then (s.colourDone c.num seq).1
      else ((s.setRcbD c.rcb 11 (putFld (s.rcbD c.rcb 11) 0 4 (good * 4 + col))).modCtx c.num
        (fun c => { c with change := some (BitVec.ofNat 32 seq, BitVec.ofNat 2 col) })).colourEnd c.num
    | _, _ => s

/-! ### Gang reservations (R312) -/

/-- Dies of the fitting that run: one in minimal mode (R1, R397). -/
def State.dies (s : State) : Nat := if s.fitting = .h ∧ !s.boot.minimal then 4 else 1

/-- Do two clusters of a die meet on the mesh (R12, R15)? A cluster meets itself. -/
def meshNear (a b : Nat) : Bool :=
  let dx := if a % 8 < b % 8 then b % 8 - a % 8 else a % 8 - b % 8
  let dy := if a / 8 < b / 8 then b / 8 - a / 8 else a / 8 - b / 8
  dx + dy ≤ 1

/-- Connected sets of `n + 1` cores of a die, as ascending lists of core numbers 4 × cluster + core. -/
def coreSets : Nat → List (List Nat)
  | 0 => (List.range 256).map (fun c => [c])
  | n + 1 => (((coreSets n).map (fun l => ((List.range 256).filter (fun c =>
      !l.contains c && l.any (fun d => meshNear (c / 4) (d / 4)))).map (fun c => insertAsc c l))).flatten).eraseDups

def coreOf (die c : Nat) : Place := ⟨die, c / 4, c % 4, 0⟩

/-- Workgroups on a set of cores. -/
def State.wgsOn (s : State) (die : Nat) (l : List Nat) : Nat :=
  (s.wgs.filter (fun w => l.any (fun c => sameCore w.place (coreOf die c)))).length

/-- The set of cores with the fewest workgroups, on a die without a reservation (R312). Of several such sets the first one in the order
of dies and clusters is taken, which is the model's choice (log 64). -/
def State.bestCores (s : State) (n : Nat) : Option (Nat × List Nat) :=
  let dies := (List.range s.dies).filter (fun d => !s.reserved.any (fun e => e.1 == d))
  let all := (dies.map (fun d => (coreSets (n - 1)).map (fun l => (d, l)))).flatten
  all.foldl (fun (b : Option (Nat × List Nat)) x => match b with
    | none => some x
    | some y => if s.wgsOn x.1 x.2 < s.wgsOn y.1 y.2 then some x else b) none

/-- The gang that has waited longest, for 16 epochs or more, and that has no reservation yet, reserves a set on a die that has
none; then the next, while a die is left (R312). Of gangs that waited equally long the first candidate comes first: the model's choice
(log 64). -/
def State.reserveGangs (s : State) (gangs : List Nat) : Nat → State
  | 0 => s
  | n + 1 =>
    let wait (r : Nat) : Nat := SMap.get 0 s.gangWait r
    let ready := gangs.filter (fun r => 16 ≤ wait r && !s.reserved.any (fun e => e.2.1 == r))
    match ready.foldl (fun (b : Option Nat) r => match b with
        | none => some r
        | some q => if wait q < wait r then some r else b) none with
    | none => s
    | some r => match s.bestCores (match s.workOf r with
        | some w => w.gang
        | none => 2) with
      | some (d, l) => { s with reserved := s.reserved ++ [(d, r, l.map (coreOf d), s.clock)] }.reserveGangs gangs n
      | none => s

/-- Gangs wait an epoch more; reservations older than 256 epochs are dropped, and their gangs wait 16 epochs from then; sets
are reserved, one on each die (R312). -/
def State.gangEpoch (s : State) : State :=
  let gangs := s.candidates.filter (fun r => match s.workOf r with
    | some w => 2 ≤ w.gang
    | none => false)
  let old (e : Nat × Nat × List Place × Word64) : Bool := 256 * 4096 ≤ (s.clock - e.2.2.2).toNat
  let gone := (s.reserved.filter old).map (·.2.1)
  let wait := gangs.foldl (fun (m : SMap Nat) r => SMap.set 0 m r (SMap.get 0 m r + 1)) s.gangWait
  { s with reserved := s.reserved.filter (fun e => !old e), gangWait := gone.foldl (fun (m : SMap Nat) r => SMap.set 0 m r 0) wait }.reserveGangs gangs s.dies

/-- `SCHED_EPOCH`: a scheduling epoch of 4096 cycles ends (R307, R308, R312). -/
def execSchedEpoch (s : State) : Host.Outcome State Fault Refusal :=
  .next (
    if !s.running ∨ (s.clock - s.lastEpoch).toNat < 4096 then s
    else
      let s := { s with lastEpoch := s.clock }.refresh.recheckDeps.growAll
      (s.ctxs.foldl State.colourStep s).gangEpoch)

/-! ### Contexts and objects that software brings (R285, R300, R330, R367) -/

/-- A context number is assigned: the seal counter starts at 0 with a new key. Outbound writes are dropped from the start
where a range of its function is viral (R375). -/
def State.assignContext (s : State) (rcb : Nat) : State :=
  let n := fld (s.rcbD rcb 8) 16 16
  let t : State := { s with ctxs := s.ctxs.filter (fun c => c.num ≠ n) ++
      [{ num := n, rcb := rcb, sealKey := if bitN (s.rcbD rcb 8) 2 then Config.freshKey s.freeCtr else 0 }] }
  if t.viralRange (t.ctxFn n) then t.modCtx n (fun c => { c with blocked := true }) else t

/-- A context number is released, and its sealing key destroyed. -/
def State.releaseContext (s : State) (n : Nat) : State :=
  { s with ctxs := s.ctxs.filter (fun c => c.num ≠ n), leftovers := s.leftovers.filter (fun e => e.ctx ≠ n) }

end Sys2Proof.Machine
end

