-- ==== Sys2Proof/Machine/Boot.lean ====
section
/-! DEFINITION. Start-up (R396, R397), fatal errors and dumps (R398 to R400), identity and attestation (R401, R402), and
registers without a behaviour of their own (R6). -/

namespace Sys2Proof.Machine

/-! ### Start-up -/

/-- BOOTST (R397). -/
def Boot.word (b : Boot) : Nat :=
  b.reason % 256 * 2 ^ 56 + b.lastStage % 256 * 2 ^ 48 + b.fails % 256 * 2 ^ 40 + b.mode % 256 * 2 ^ 32 + b.starts.toNat
def State.setBoot (s : State) (b : Boot) : State := { s with boot := b }.setBar physFn 0x280 (n64 b.word)

/-- A start fails for a reason at a stage (R396, R397). -/
def Boot.failed (b : Boot) (reason stage : Nat) : Boot :=
  if b.minimal then { b with reason := reason, lastStage := stage, mode := 3, ended := true }
  else { b with reason := reason, lastStage := stage, fails := min 3 (b.fails + 1), ended := true }

/-- What a cold reset leaves of the device: fuses, non-volatile storage, and memory outside it (log 6). -/
def State.afterReset (s : State) : State :=
  let cap := if s.fitting = .h then 3200 else 1000
  { State.reset with
    fitting := s.fitting, peerId := s.peerId, freeCtr := s.freeCtr, agenda := s.agenda, out := s.out
    mem := s.mem.filter (fun e => paTarget e.1 != 0)
    bar := SMap.set 0 [] (4096 * physFn + 0x200) (n64 (cap * 2 ^ 48 + 70 * 2 ^ 32 + 10 * 2 ^ 24 + 1))
    power := { limits := n64 (cap * 2 ^ 48 + 70 * 2 ^ 32 + 10 * 2 ^ 24 + 1) }
    boot := { reason := s.boot.reason, lastStage := s.boot.lastStage, fails := s.boot.fails, starts := s.boot.starts, firmware := s.boot.firmware } }

/-- Why a start fails when stage `stage` reports an error: the stage's own reason, or 8, thermal, at any stage (R396). -/
def stageReason (stage error : Nat) : Nat := if error = 8 then 8 else min stage 6 + 1

/-- The stages of a start run up to `reached`, in order; then the one that runs may report an error (R396, R397). -/
def State.startStages (s : State) (reached : Nat) (error : Option Nat) : State :=
  let b := s.boot
  match error with
  | some e =>
    let k := min reached 6
    s.setBoot ({ b with stage := k }.failed (stageReason k e) k)
  | none =>
    let k := min reached 7
    s.setBoot { b with stage := k, fails := if k = 7 ∧ !b.minimal then 0 else b.fails }

/-- `COLD_RESET`: the device is as after power on, and the stages run up to `reached`, where `error` is the failure that a stage
reports; later stages follow one by one (R396, R397). -/
def execColdReset (reached : Nat) (error : Option Nat) (s : State) : Host.Outcome State Fault Refusal :=
  .next (
    let t := s.afterReset
    let b := t.boot
    let b := { b with mode := if b.fails = 3 then 1 else 0, minimal := b.fails == 3, stage := 0
                      starts := if b.starts = BitVec.allOnes 32 then b.starts else b.starts + 1 }
    { t with boot := b }.startStages reached error)

/-- Has a start that goes on not reached stage 7 within 30 s of cold reset, where CLOCK is 0 (R196, R396)? -/
def State.startLate (s : State) : Bool :=
  decide (s.boot.stage < 7) && decide (0 < s.boot.starts.toNat) && !s.boot.ended && decide (30 * 1400000000 ≤ s.clock.toNat)

/-- The next stage of a start runs, or the stage that runs reports an error; after 30 s the start fails. -/
def State.nextStage (s : State) (error : Option Nat) : State :=
  if 7 ≤ s.boot.stage ∨ s.boot.ended then s
  else if s.startLate then s.setBoot (s.boot.failed 9 s.boot.stage)
  else s.startStages (if error.isSome then s.boot.stage else s.boot.stage + 1) error

/-- `START_WATCHDOG_EXPIRY`: stage 7 was not reached within 30 s of cold reset (R396). A start fails once. -/
def execStartWatchdogExpiry (s : State) : Host.Outcome State Fault Refusal :=
  .next (if s.startLate then s.setBoot (s.boot.failed 9 s.boot.stage) else s)

/-- `BOOTCLR`: a write of 0xB007 clears FAILS (R397). -/
def execBootclr (value : Word64) (s : State) : Host.Outcome State Fault Refusal :=
  .next (if fld value.toNat 0 16 = 0xB007 then s.setBoot { s.boot with fails := 0 } else s)

/-- `FIRMWARE_UPDATE`: an update through management clears FAILS (R397), and other firmware is measured from then on (R402). -/
def execFirmwareUpdate (s : State) : Host.Outcome State Fault Refusal :=
  .next (s.setBoot { s.boot with fails := 0, firmware := s.boot.firmware + 1 })

/-! ### Fatal errors and dumps -/

/-- `FATAL_ERROR`: every group stops, no program write leaves the device any more, and the dump begins (R391, R398). -/
def execFatalError (cause : Nat) (s : State) : Host.Outcome State Fault Refusal :=
  .next (if s.boot.fatal.isSome then s
  else
    let idx := s.errlog.length
    let t := (s.logError 5 cause 0).countDevice 1 1
    t.setBoot { t.boot with fatal := some (idx, t.clock) })

/-- A directory entry in the layout of R59. -/
def DirEntry.word (e : DirEntry) : Nat :=
  let share := if e.coarse then e.vec.toNat else leNat ((e.ptrs.take 4).map (fun p => BitVec.ofNat 8 p))
  e.dstate % 4 * 2 ^ 46 + b2n e.coarse * 2 ^ 45 + (if e.coarse then 0 else e.ptrs.length % 8 * 2 ^ 42) + b2n e.owner.isSome * 2 ^ 40 +
  e.owner.getD 0 % 256 * 2 ^ 32 + share

/-- Launches and waves that the device can find for a context: those at work, those that a launch queue names, the waves of its
wave queue (R300, R302, R304). -/
def State.foundRcbs (s : State) (c : Ctx) : List Nat :=
  (s.work.filter (fun w => w.ctx == c.num)).map (·.rcb) ++
  ((List.range (s.nlq c.num)).map (fun q =>
    let l := s.lq c.num q
    (List.range ((l.tail + 2 ^ 32 - l.head) % 2 ^ 32 % (2 ^ l.logn + 1))).filterMap (fun i =>
      let a := l.base + 16 * ((l.head + i) % 2 ^ l.logn)
      if commandOp (s.rd a 8) (s.rd (a + 8) 8) = some 1 then some (fld (s.rd (a + 8) 8) 0 57) else none))).flatten ++
  (((List.range (2 ^ fld (s.rcbD c.rcb 11) 60 4)).map (fun i => fld (s.rcbD c.rcb 10) 0 57 + 128 * i)).filter (fun r => s.rcbKind r == 4))
/-- With their successors, and those of them (R301, R306). -/
def State.withSucc (s : State) : Nat → List Nat → List Nat
  | 0, l => l
  | fuel + 1, l =>
    let new := ((l.map (fun r => (List.range (fld (s.rcbD r 13) 60 4)).map (fun i => fld (s.rd (fld (s.rcbD r 13) 0 57 + 8 * i) 8) 0 57))).flatten.eraseDups).filter (fun r => !l.contains r)
    if new.isEmpty then l else s.withSucc fuel (l ++ new)
/-- A node and, depth first, the nodes of a list that hang beneath it. -/
def State.rcbTree (s : State) (known : List Nat) : Nat → Nat → List Nat
  | 0, n => [n]
  | fuel + 1, n => n :: ((known.filter (fun r => s.rcbParent r == n && r != n)).map (fun r => s.rcbTree known fuel r)).flatten
/-- Every RCB reachable from each context, depth first (R399 kind 2): of every launch and wave found, the nodes of its path. As many
rounds as memory lists bytes find every successor. -/
def State.dumpRcbs (s : State) : List Nat :=
  (s.ctxs.map (fun c =>
    let known := (((s.withSucc (List.length s.mem) (s.foundRcbs c)).map s.path).filter (fun p => p.getLast? == some c.rcb)).flatten.eraseDups
    s.rcbTree known 16 c.rcb)).flatten

/-- Control and status registers of the dies (R399 kind 1): by die, every register of the device with its place. -/
def State.dumpRegs (s : State) : List Nat :=
  ((List.range s.dies).map (fun d => d :: s.clock.toNat :: (List.map (fun (e : Nat × Word64) => [e.1, e.2.toNat]) s.bar).flatten)).flatten

/-- What stands in the queues of the copy, streamer, collective and context engines (R399 kind 5): commands with what they still have
to do, tiles to come, collectives, and the pages that wait for the context engine's scrubs. -/
def State.dumpQueues (s : State) : List Nat :=
  (s.cmds.map (fun c => [c.id, c.ctx, c.gid, c.wid, match c.kind with
      | .copy => 0
      | .chain => 1
      | .reloc => 2
      | .fill => 3
      | .twin => 4, c.rows, c.rbytes, (c.obj.map (·.toNat)).getD 0] ++ (c.todo.map (fun e => [e.1, e.2])).flatten)).flatten ++
  (s.wgs.map (fun w => (w.subs.map (fun b => [w.wid, b.idx, b.gid, b.next, b.tcount, b.tbase.toNat])).flatten)).flatten ++
  (s.collectives.map (fun c => [c.id, c.ctx, c.gid, c.dst.toNat, c.bobj.toNat])).flatten ++
  (s.scrubs.map (fun e => [e.1, e.2.toNat])).flatten

/-- The 512 bytes of a trap level in the dump (R324). -/
def Group.dumpArea (g : Group) (b : TrapBank) : List Byte :=
  leBytes 8 b.cause.toNat ++ leBytes 8 b.ret.toNat ++ leBytes 8 b.val.toNat ++ leBytes 8 0 ++
  ((List.range 47).map (fun i => leBytes 8 (g.sreg i).toNat)).flatten ++ ((List.range 7).map (fun i => leBytes 4 (g.pred i).toNat)).flatten ++
  List.replicate 76 0

/-- A group's record (R399 kind 6, log 43): placement and TLEVEL, then TSAVE of both levels (R316), program counters, masks and the two areas of R324, which
are zero for a protected context. -/
def State.dumpGroup (s : State) (g : Group) : List Byte :=
  let w := s.wg g.wid
  let p := w.place
  let d (n : Nat) : List Byte := leBytes 8 n
  let keep (l : List Byte) : List Byte := if w.prot then List.replicate l.length 0 else l
  d (p.die * 2 ^ 30 + p.cluster * 2 ^ 24 + p.core * 2 ^ 22 + g.part * 2 ^ 20 + g.gidx * 2 ^ 15) ++ d g.tlevel ++
  keep (d g.bank1.save.toNat ++ d g.bank2.save.toNat ++ ((List.range 4).map (fun i => match g.frags[i]? with
    | some f => d f.hdr.toNat ++ d f.mask.toNat
    | none => d 0 ++ d 0)).flatten ++ g.dumpArea g.bank1 ++ g.dumpArea g.bank2)

/-- Heads and tails of rings (R399 kind 7). -/
def State.dumpRings (s : State) : List Byte :=
  ((s.ctxs.map (fun c => ((List.range (s.nlq c.num)).map (fun q => leBytes 8 ((s.lq c.num q).head * 2 ^ 32 + (s.lq c.num q).tail))).flatten)).flatten) ++
  ((((s.ctxs.map (fun c => s.ctxFn c.num)) ++ [physFn]).eraseDups.map (fun fn =>
    leBytes 8 (s.rd (s.fnBlock fn + 40) 8) ++ leBytes 8 (s.rd (s.fnBlock fn + 56) 8))).flatten)

/-- The content of each kind; for kinds 1 and 5 the spec gives no layout (log 43). -/
def State.dumpSection (s : State) (kind : Nat) : List Byte :=
  match kind with
  | 1 => Config.dumpLayout 1 s.dumpRegs
  | 2 => (s.dumpRcbs.map (fun r => s.rdN r 128)).flatten
  | 3 => (s.errlog.map (fun e => leBytes 8 e.clock.toNat ++ leBytes 8 e.unit ++ leBytes 8 e.kind ++ leBytes 8 e.addr)).flatten
  | 4 => ((s.dir.filter (fun e => e.recallAt.isSome)).map (fun e => leBytes 8 e.word)).flatten
  | 5 => Config.dumpLayout 5 s.dumpQueues
  | 6 => (s.groups.map s.dumpGroup).flatten
  | _ => s.dumpRings

/-- Sections in kind order, each cut at what is left: kind and content. -/
def cutSections : Nat → List (Nat × List Byte) → List (Nat × List Byte)
  | _, [] => []
  | room, (k, b) :: l => (k, b.take room) :: cutSections (room - b.length) l

/-- The dump within `limit` bytes, signed (R399, R400). -/
def State.dump (s : State) (limit : Nat) (onchip : Bool) : List Byte :=
  let (idx, clk) := s.boot.fatal.getD (0, 0)
  let full := ((List.range 7).map (fun k => (k + 1, s.dumpSection (k + 1))))
  let secs := cutSections (limit - (64 + 16 * 7 + 64)) full
  let offs := ((List.range 7).map (fun i => 176 + ((secs.take i).map (fun e => e.2.length)).sum))
  let recs := (List.zipWith (fun (e : Nat × List Byte) o => leBytes 16 (e.1 * 2 ^ 96 + o * 2 ^ 48 + e.2.length)) secs offs).flatten
  let body := (secs.map Prod.snd).flatten
  let len := 176 + body.length + 64
  let mask := (s.free 16 1).toNat % 2 ^ s.dies
  let head := clk.toNat * 2 ^ 192 + len * 2 ^ 128 + 7 * 2 ^ 96 + idx % 2 ^ 32 * 2 ^ 64 + mask * 2 ^ 48 + 2 ^ 32 + b2n onchip * 2 +
    b2n (decide (body.length < (full.map (fun e => e.2.length)).sum))
  let msg := leBytes 64 head ++ recs ++ body
  msg ++ leBytes 64 (Config.sm2Sign msg).toNat

/-- `DUMP_COMPLETE`: the dump is written to the host, or kept in the on-chip buffer, and signalled (R400); MODE becomes 2 (R398).
Whether the host can be reached is a free value. -/
def execDumpComplete (s : State) : Host.Outcome State Fault Refusal :=
  .next (if s.boot.fatal.isNone ∨ s.boot.dumped then s
  else
    let size := (s.barReg physFn 0x298).toNat
    let chip := size == 0 || (s.free 1 0 == 1)
    let d := s.dump (if chip then 4 * 2 ^ 20 else size) chip
    let b := { s.boot with dumped := true, mode := 2 }
    let t := if chip then s.setBoot { b with onchip := d }
      else (s.setBoot b).emit (.hostMemory (s.barReg physFn 0x290).toNat d)
    (t.emit (.msix physFn 1)).emit (.management []))

/-! ### Identity and attestation -/

/-- A measurement block (R402). -/
def State.measure (s : State) (i : Nat) : List Byte :=
  if i = 5 then leBytes 8 s.boot.word
  else if i = 6 then leBytes 32 (Config.sm3 (s.rdN (s.barReg physFn 0x148).toNat 65536)).toNat
  else if i = 4 then Config.measurement 4 0 ++ (if s.fitting = .h then "PL-CB7H" else "PL-CB7L").toList.map (fun c => BitVec.ofNat 8 c.toNat)
  else Config.measurement i s.boot.firmware

/-- `GET_MEASUREMENTS`: the measurement blocks, with a signature that covers the verifier's nonce (R402). -/
def execGetMeasurements (nonce : List Byte) (s : State) : Host.Outcome State Fault Refusal :=
  .next (
    let m := ((List.range (if s.fitting = .l then 6 else 5)).map (fun i => s.measure (i + 1))).flatten
    s.emit (.report m (Config.sm2Sign (nonce ++ m))))

/-- `CERTIFICATE_REQUEST`: the certificate chain (R401). -/
def execCertificateRequest (s : State) : Host.Outcome State Fault Refusal := .next (s.emit (.management (Config.certificates 0)))

/-- `SPDM_REQUEST`: any other SPDM request is answered, by the sessions as they stand (R402). -/
def execSpdmRequest (request : List Byte) (s : State) : Host.Outcome State Fault Refusal :=
  .next ({ s with spdm := s.spdm ++ [request] }.emit (.management (Config.spdmReply s.spdm s.boot.firmware request)))

/-! ### Registers -/

/-- RW registers without a behaviour of their own, and the low bits that an alignment keeps zero: of every function (R328,
R340), and of the physical function (R340, R356, R362, R363, R379, R399, R403). -/
def plainRegs : List (Nat × Nat) := [(0x20, 12), (0x28, 12), (0x30, 16)]
def physRegs : List (Nat × Nat) :=
  [(0x100, 0), (0x108, 0), (0x118, 0), (0x128, 0), (0x130, 0), (0x148, 0), (0x150, 0), (0x160, 0), (0x290, 12), (0x298, 12), (0x2A0, 0), (0x2A8, 0)]

/-- What a read through a function's BAR gives: the counters of its own block from offset 0x300 on and of its contexts, in the order of
their numbers, from 0x400 on (R403), and the registers. -/
def State.barRead (s : State) (fn off : Nat) : Word64 :=
  let own := (s.ctxs.filter (fun c => s.ctxFn c.num == fn)).mergeSort (fun a b => decide (a.num ≤ b.num))
  if 0x300 ≤ off ∧ off < 0x400 then SMap.get 0 s.counters (32 * fn + (off - 0x300) / 8)
  else match (if 0x400 ≤ off then own[(off - 0x400) / 64]? else none) with
    | some c => SMap.get 0 c.counters (off % 64 / 8)
    | none => s.barReg fn off

/-- `REGISTER_WRITE`: a write to a register with no behaviour of its own (R6). -/
def execRegisterWrite (fn off : Nat) (value : Word64) (s : State) : Host.Outcome State Fault Refusal :=
  .next (match (plainRegs ++ (if fn = physFn then physRegs else [])).find? (fun r => r.1 == off) with
    | some (_, k) => if fn ≤ physFn then s.setBar fn off ((value >>> k) <<< k) else s
    | none => s)

end Sys2Proof.Machine
end

