-- ==== Sys2Proof/Machine/Special.lean ====
section
/-! DEFINITION. Major 0x0B: special functions (R248), and 2^x (R121, R248). The spec gives bounds, not bits: a result is the free bits
of `Config.special` where these lie within the bound of the exact result, and the nearest value otherwise (log 16). -/

namespace Sys2Proof.Machine

/-- ln 2 × 2^192, log2 e × 2^160, 2^400 / (2π), 2π × 2^128, floored. -/
def ln2C : Nat := 4350955369971217654477563090224794165364344896676135745069
def log2eC : Nat := 2108501164428393954197770173035669514763056903505
def invTwoPiC : Nat := 410977832395975605218853833625233461132178843898737362007205898620758186588316929411123559258072822909570399674468614023
def twoPiC : Nat := 2138057168129933495719360746323741566601

/-- Sum of the terms of e^y at 192 fractional bits: `term` is y^(k-1)/(k-1)!. -/
def expTerms (y : Nat) : Nat → Nat → Nat → Nat
  | 0, _, _ => 0
  | n + 1, k, term => term + expTerms y n (k + 1) (term * y / 2 ^ 192 / k)

/-- 2^x of a finite value: exact for an integer x; else 192 fractional bits and a last bit that tells that more follow. -/
def exp2Fin (s : Bool) (m : Nat) (e : Int) : FVal :=
  -- x in units of 2^z
  let z : Int := min e 0
  let u : Nat := m * 2 ^ (e - z).toNat
  let d : Nat := 2 ^ (-z).toNat
  if 2 ^ 12 * d < u then .fin false 1 (if s then -4096 else 4096)
  else
    let x : Int := if s then -(u : Int) else u
    let n := x / (d : Int)
    let r := (x % (d : Int)).toNat
    if r = 0 then .fin false 1 n
    else .fin false (2 * expTerms (r * ln2C / d) 60 1 (2 ^ 192) + 1) (n - 193)
def FVal.exp2 : FVal → FVal
  | .nan => .nan
  | .inf s => if s then .fin false 0 0 else .inf false
  | .fin s m e => exp2Fin s m e

/-- Bits of log2 z, z = x / 2^220 in [1, 2), by repeated squaring. -/
def log2Bits : Nat → Nat → Nat → Nat
  | 0, _, acc => acc
  | n + 1, x, acc =>
    let y := x * x / 2 ^ 220
    if 2 ^ 221 ≤ y then log2Bits n (y / 2) (2 * acc + 1) else log2Bits n y (2 * acc)
/-- log2 of m × 2^e for m > 0, at 90 fractional bits. -/
def log2Fin (m : Nat) (e : Int) : FVal :=
  let k := bitLen m - 1
  let frac := log2Bits 90 (m * 2 ^ 220 / 2 ^ k) 0
  let v : Int := (e + k) * (2 ^ 90 : Nat) + frac
  .fin (decide (v < 0)) v.natAbs (-90)

/-- Alternating sum of y^k/k! over k of one parity, at 128 fractional bits. -/
def trigTerms (y : Nat) : Nat → Nat → Nat → Int
  | 0, _, _ => 0
  | n + 1, k, term => (term : Int) - trigTerms y n (k + 2) (term * y / 2 ^ 128 * y / 2 ^ 128 / ((k + 1) * (k + 2)))
/-- Sine or cosine of m × 2^e radians, at 128 fractional bits. -/
def trigFin (cosine : Bool) (m : Nat) (e : Int) : FVal :=
  let turn := shiftInt (m * invTwoPiC) (e - 272) % 2 ^ 128
  let y := turn * twoPiC / 2 ^ 128
  let v := if cosine then trigTerms y 40 0 (2 ^ 128) else trigTerms y 40 1 y
  .fin (decide (v < 0)) v.natAbs (-128)
/-- tanh of m × 2^e for m > 0. -/
def tanhFin (m : Nat) (e : Int) : FVal :=
  match exp2Fin false (m * log2eC) (e - 159) with
  | .fin _ a z =>
    let one := FVal.fin false 1 0
    let x := FVal.fin false a z
    (x.add (one.neg)).div (x.add one)
  | v => v

/-- The exponent of one unit in the last place of an FP32 value near v (R248). -/
def ulp32 : FVal → Int
  | .fin _ m e => ulpExp 24 (some (-149)) m e
  | _ => 0
/-- |a - b| ≤ k × 2^q, with 2^-40 of a unit for the approximation of the exact value. -/
def within (a b : FVal) (k : Nat) (q : Int) : Bool :=
  !(FVal.fin false (k * 2 ^ 40 + 1) (q - 40)).lt (a.add b.neg).abs

/-- A result within a bound of `v`: the free bits where they meet it, the nearest FP32 value otherwise. `neg` mirrors the
result of a function that is odd. -/
def bounded (code : Nat) (a : Nat) (neg : Bool) (v : FVal) (ok : FVal → Bool) : Nat :=
  let c := (Config.special code (BitVec.ofNat 32 a)).toNat
  let near := fmt32.roundWide .rne 0 v
  let r := if fld near 23 8 = 255 then near else match fmt32.decode c with
    | .fin _ _ _ => if ok (fmt32.decode c) then c else near
    | _ => near
  if neg && !(fmt32.decode r).isNan then (r + 2 ^ 31) % 2 ^ 32 else r

def isPow2 (m : Nat) : Bool := m = 2 ^ (bitLen m - 1)

/-- A special function of an FP32 code (R248): the row's special cases, exact cases, and error bound. -/
def specialFn (code : Nat) (a : Nat) : Nat :=
  let nan := fmt32.canonical
  let enc (v : FVal) := fmt32.roundWide .rne 0 v
  match fmt32.decode a with
  | .nan => nan
  | .inf s => match code with
    | 0 => if s then 0 else enc (.inf false)
    | 1 => if s then nan else enc (.inf false)
    | 2 => fmt32.signBit s
    | 3 => if s then nan else 0
    | 4 => nan
    | 5 => nan
    | _ => enc (.fin s 1 0)
  | .fin s m e =>
    let abs := a % 2 ^ 31
    let ulps (k : Nat) (v : FVal) : FVal → Bool := fun c => within c v k (ulp32 v)
    match code with
    | 0 =>
      let x := FVal.fin s m e
      if !x.lt (.fin false 1 7) then enc (.inf false)
      else if x.lt (.fin true 150 0) then 0
      else
        let v := x.exp2
        if (decide (0 ≤ e) || m % 2 ^ (-e).toNat == 0) && !x.lt (.fin true 149 0) then enc v
        else bounded 0 a false v (ulps 2 v)
    | 1 =>
      if m = 0 then enc (.inf true)
      else if s then nan
      else
        let v := log2Fin m e
        if isPow2 m then enc v
        else bounded 1 a false v (fun c =>
          if !(FVal.fin false m e).lt (.fin false 1 (-1)) && !(FVal.fin false 1 1).lt (.fin false m e) then within c v 1 (-22)
          else ulps 2 v c)
    | 2 =>
      if m = 0 then enc (.inf s)
      else
        let v := (FVal.fin false 1 0).div (.fin s m e)
        if isPow2 m then enc v else bounded 2 a false v (ulps 1 v)
    | 3 =>
      if m = 0 then enc (.inf s)
      else if s then nan
      else
        let v := (FVal.fin false 1 0).div (FVal.fin false m e).sqrt
        bounded 3 a false v (ulps 2 v)
    | 4 =>
      if m = 0 then a
      else
        let v := trigFin false m e
        bounded 4 abs s v (fun c => within c v 1 (-21))
    | 5 =>
      let v := trigFin true m e
      bounded 5 abs false v (fun c => within c v 1 (-21))
    | _ =>
      if m = 0 then bounded 6 abs s (.fin false 0 0) (fun c => within c (.fin false 0 0) 1 (-24))
      else
        let v := tanhFin m e
        bounded 6 abs s v (fun c => ulps 2 v c || within c v 1 (-24))

/-- The result for a 16-bit type is the FP32 result rounded under R94. -/
def specialElem (code : Nat) (ty : Ty) (x : Nat) : Nat :=
  let a := fmt32.roundWide .rne 0 (decTy ty x)
  let r := specialFn code a
  match ty with
  | .f32 => r
  | _ => (ffmt ty).roundNarrow .rne 0 (fmt32.decode r)
def specialBody (i : Instr) (f : FmtV) (code : Nat) : State → Exec :=
  bitBody i f f.ty [srcA f f.ty] (fun l => specialElem code f.ty (l.getD 0 0))

/-- `FEXP2`: 2^a (R248). -/
def execFexp2 (f : FmtV) (s : State) : Host.Outcome State Fault Refusal :=
  issue (.fexp2 f) s (specialBody (.fexp2 f) f 0)

/-- `FLOG2`: log2 a (R248). -/
def execFlog2 (f : FmtV) (s : State) : Host.Outcome State Fault Refusal :=
  issue (.flog2 f) s (specialBody (.flog2 f) f 1)

/-- `FRCP`: 1 / a (R248). -/
def execFrcp (f : FmtV) (s : State) : Host.Outcome State Fault Refusal :=
  issue (.frcp f) s (specialBody (.frcp f) f 2)

/-- `FRSQ`: 1 / √a (R248). -/
def execFrsq (f : FmtV) (s : State) : Host.Outcome State Fault Refusal :=
  issue (.frsq f) s (specialBody (.frsq f) f 3)

/-- `FSIN`: sin a (R248). -/
def execFsin (f : FmtV) (s : State) : Host.Outcome State Fault Refusal :=
  issue (.fsin f) s (specialBody (.fsin f) f 4)

/-- `FCOS`: cos a (R248). -/
def execFcos (f : FmtV) (s : State) : Host.Outcome State Fault Refusal :=
  issue (.fcos f) s (specialBody (.fcos f) f 5)

/-- `FTANH`: tanh a (R248). -/
def execFtanh (f : FmtV) (s : State) : Host.Outcome State Fault Refusal :=
  issue (.ftanh f) s (specialBody (.ftanh f) f 6)

end Sys2Proof.Machine
end

