-- ==== Sys2Proof/Machine/Cross.lean ====
section
/-! DEFINITION. Majors 0x0E and 0x0F: cross-lane operations (R254 to R257) and MERGE (R121, R258). -/

namespace Sys2Proof.Machine

/-- Log of the segment size (R254). -/
def segLog (f : FmtV) : Nat := f.aux.toNat % 8

/-- SA's register in all 32 threads, as it stands (R254). -/
def laneVals (s : State) (f : FmtV) : List Nat := match f.sa with
  | .v r => (List.range 32).map (fun t => if f.ty.is64 then (s.cg.vpair r.val t).toNat else (s.cg.vreg r.val t).toNat)
  | _ => List.replicate 32 0

/-- A shuffle: `from w j b` is the relative index of the source of relative index `j` (R255). -/
def shuffleBody (i : Instr) (f : FmtV) (src : Nat → Nat → Nat → Nat) (s : State) : Exec :=
  (s.dstCheck f.vd (regCount f.ty)).bind fun s =>
  (s.rangeCheck f.sa (regCount f.ty)).bind fun s =>
  let m := s.gmask f.g
  (s.prepAll i (threads m) [srcB f .n32]).bind fun (s, os) =>
  let w := 2 ^ segLog f
  let vals := laneVals s f
  s.writeDst f.vd f.ty.is64 ((s.visit m).map (fun t =>
    (t, packTy f.ty (vals.getD (t / w * w + src w (t % w) ((os.getD 0 (.const 0)).read s.cg .n32 t)) 0))))

/-- Combination of two values of a segment, absent ones apart (R256). -/
inductive Comb where
  | add | min | max | and | or
  deriving DecidableEq, Repr
def combVal (op : Comb) (ty : Ty) (a b : Nat) : Nat :=
  if ty.isInt then
    match op with
    | .add => (a + b) % 2 ^ ty.width
    | .min => if intVal ty a ≤ intVal ty b then a else b
    | .max => if intVal ty a ≤ intVal ty b then b else a
    | .and => a &&& b
    | .or => a ||| b
  else
    match op with
    | .min => minMaxCode ty false a b
    | .max => minMaxCode ty true a b
    | _ => arithTo ty ((decTy ty a).add (decTy ty b))
def comb (op : Comb) (ty : Ty) : Option Nat → Option Nat → Option Nat
  | none, y => y
  | x, none => x
  | some a, some b => some (combVal op ty a b)

/-- The fixed tree of R256 over a segment of 2^g values. -/
def treeReduce (op : Comb) (ty : Ty) : Nat → List (Option Nat) → Option Nat
  | 0, l => l.getD 0 none
  | g + 1, l => treeReduce op ty g ((List.range (2 ^ g)).map (fun j => comb op ty (l.getD (2 * j) none) (l.getD (2 * j + 1) none)))

/-- Steps k to g - 1 of the scan of R257. -/
def scanSteps (op : Comb) (ty : Ty) (k : Nat) : Nat → List (Option Nat) → List (Option Nat)
  | 0, l => l
  | n + 1, l => scanSteps op ty (k + 1) n ((List.range l.length).map (fun j =>
      if 2 ^ k ≤ j then comb op ty (l.getD (j - 2 ^ k) none) (l.getD j none) else l.getD j none))

/-- The values of a segment: those of threads outside M are absent. -/
def segVals (vals : List Nat) (m : BitVec 32) (first w : Nat) : List (Option Nat) :=
  (List.range w).map (fun j => if m.getLsbD (first + j) then some (vals.getD (first + j) 0) else none)

/-- A segment operation: `seg` maps the values of a segment to the result at each relative index. -/
def segBody (f : FmtV) (seg : List (Option Nat) → List Nat) (s : State) : Exec :=
  (s.dstCheck f.vd (regCount f.ty)).bind fun s =>
  (s.rangeCheck f.sa (regCount f.ty)).bind fun s =>
  let m := s.gmask f.g
  let w := 2 ^ segLog f
  let vals := laneVals s f
  let res := ((List.range (32 / w)).map (fun k => seg (segVals vals m (k * w) w))).flatten
  match f.vd with
  | .s _ => writeWhole f f.ty m (res.getD 0 0) s
  | _ => s.writeDst f.vd f.ty.is64 ((s.visit m).map (fun t => (t, packTy f.ty (res.getD t 0))))

def redSeg (op : Comb) (f : FmtV) (l : List (Option Nat)) : List Nat :=
  List.replicate l.length ((treeReduce op f.ty (segLog f) l).getD 0)
def scanSeg (op : Comb) (f : FmtV) (l : List (Option Nat)) : List Nat := (scanSteps op f.ty 0 (segLog f) l).map (fun x => x.getD 0)
def scanxSeg (op : Comb) (f : FmtV) (l : List (Option Nat)) : List Nat := ((0 :: scanSeg op f l).take l.length)

/-- MERGE of two triples of FP32 codes (R121). -/
def mergeTriple (m1 l1 o1 m2 l2 o2 : Nat) : Nat × Nat × Nat :=
  let d := fmt32.decode
  let enc := fmt32.roundWide .rne 0
  let pinf := FVal.inf false
  let ninf := FVal.inf true
  if [m1, l1, o1, m2, l2, o2].any (fun x => (d x).isNan) || d m1 == pinf || d m2 == pinf then
    (fmt32.canonical, fmt32.canonical, fmt32.canonical)
  else
    let m := minMaxCode .f32 true m1 m2
    if d m = ninf then (enc ninf, 0, 0)
    else
      let fac (x : Nat) : FVal := if d x = ninf then .fin false 0 0 else d (enc (d (enc ((d x).add (d m).neg))).exp2)
      let a1 := fac m1
      let a2 := fac m2
      let mix (x y : Nat) : Nat := enc (((d x).mul a1).add ((d y).mul a2))
      (m, mix l1 l2, mix o1 o2)

def mergeBody (f : FmtV) (s : State) : Exec :=
  (s.rangeCheck f.vd 3).bind fun s =>
  (s.rangeCheck f.sa 3).bind fun s =>
  (s.rangeCheck f.sb 3).bind fun s =>
  match f.vd, f.sa, f.sb with
  | .v d, .v a, .v b =>
    let g := s.cg
    let x (r : Fin 192) (k t : Nat) : Nat := (g.vreg (r.val + k) t).toNat
    let res := (threads (s.gmask f.g)).map (fun t => (t, mergeTriple (x a 0 t) (x a 1 t) (x a 2 t) (x b 0 t) (x b 1 t) (x b 2 t)))
    .ok (s.modCg (fun g => res.foldl (fun g e =>
      ((g.setV d.val e.1 (BitVec.ofNat 32 e.2.1)).setV (d.val + 1) e.1 (BitVec.ofNat 32 e.2.2.1)).setV (d.val + 2) e.1 (BitVec.ofNat 32 e.2.2.2)) g))
  | _, _, _ => trapAt s cIllegal s.instrAddr

/-- `SHFL`: indexed shuffle (R255). -/
def execShfl (f : FmtV) (s : State) : Host.Outcome State Fault Refusal :=
  issue (.shfl f) s (shuffleBody (.shfl f) f (fun w _ b => b % w))

/-- `SHFLUP`: shuffle up (R255). -/
def execShflup (f : FmtV) (s : State) : Host.Outcome State Fault Refusal :=
  issue (.shflup f) s (shuffleBody (.shflup f) f (fun w j b => if b < w ∧ b ≤ j then j - b else j))

/-- `SHFLDN`: shuffle down (R255). -/
def execShfldn (f : FmtV) (s : State) : Host.Outcome State Fault Refusal :=
  issue (.shfldn f) s (shuffleBody (.shfldn f) f (fun w j b => if j + b < w then j + b else j))

/-- `SHFLX`: butterfly shuffle (R255). -/
def execShflx (f : FmtV) (s : State) : Host.Outcome State Fault Refusal :=
  issue (.shflx f) s (shuffleBody (.shflx f) f (fun w j b => j ^^^ (b % w)))

/-- `REDADD`: segment reduction in a fixed tree (R256). -/
def execRedadd (f : FmtV) (s : State) : Host.Outcome State Fault Refusal :=
  issue (.redadd f) s (segBody f (redSeg .add f))

/-- `REDMIN`: segment reduction in a fixed tree (R256). -/
def execRedmin (f : FmtV) (s : State) : Host.Outcome State Fault Refusal :=
  issue (.redmin f) s (segBody f (redSeg .min f))

/-- `REDMAX`: segment reduction in a fixed tree (R256). -/
def execRedmax (f : FmtV) (s : State) : Host.Outcome State Fault Refusal :=
  issue (.redmax f) s (segBody f (redSeg .max f))

/-- `REDAND`: segment reduction in a fixed tree (R256). -/
def execRedand (f : FmtV) (s : State) : Host.Outcome State Fault Refusal :=
  issue (.redand f) s (segBody f (redSeg .and f))

/-- `REDOR`: segment reduction in a fixed tree (R256). -/
def execRedor (f : FmtV) (s : State) : Host.Outcome State Fault Refusal :=
  issue (.redor f) s (segBody f (redSeg .or f))

/-- `SCANADD`: inclusive add scan (R257). -/
def execScanadd (f : FmtV) (s : State) : Host.Outcome State Fault Refusal :=
  issue (.scanadd f) s (segBody f (scanSeg .add f))

/-- `SCANADDX`: exclusive add scan (R257). -/
def execScanaddx (f : FmtV) (s : State) : Host.Outcome State Fault Refusal :=
  issue (.scanaddx f) s (segBody f (scanxSeg .add f))

/-- `SCANMAX`: inclusive maximum scan (R257). -/
def execScanmax (f : FmtV) (s : State) : Host.Outcome State Fault Refusal :=
  issue (.scanmax f) s (segBody f (scanSeg .max f))

/-- `BCAST`: one thread's value for its segment (R255). -/
def execBcast (f : FmtV) (s : State) : Host.Outcome State Fault Refusal :=
  issue (.bcast f) s (shuffleBody (.bcast f) f (fun w _ b => b % w))

/-- `MERGE`: merge of two partial triples, one element per thread (R258). -/
def execMerge (f : FmtV) (s : State) : Host.Outcome State Fault Refusal :=
  issue (.merge f) s (mergeBody f)

end Sys2Proof.Machine
end

