-- ==== Sys2Proof/Machine/Engines.lean ====
section
/-! DEFINITION. Events of the engines: relocation and assisted copies (R127, R128), memory-side streamers (R56, R57), the
directory's acknowledgements (R60), remote ownership and back-invalidations (R360, R361, R381). -/

namespace Sys2Proof.Machine

/-! ### Relocation (R127) -/

/-- A table access of an engine that does not succeed. -/
def engTable (s : State) (va : Nat) : Fate → EStop
  | .fault f => .hold s va f
  | .conf | .peerConf => .stop (some (cConf, n64 va))
  | .dropped c => .stop c
  | .poison | .reject => .stop (some (cPoison, n64 va))
  | _ => .stop none

def State.engFwd (s : State) (a : Who) (va : Nat) : Eng (State × Nat) := match s.readFwd a va with
  | .ok x => .ok (s.noteFwd a va, x)
  | .error (.fate va f) => .error (engTable s va f)
  | .error (.busy x) => .error (.wait (s.askFor x 16 false))

/-- The next slot behind the one visited. -/
def nextSlot : List (Nat × Nat) → List (Nat × Nat)
  | (k, left) :: _ => if left = 1 then [] else [(k + 1, left - 1)]
  | [] => []

/-- The engine registers, reads its table's size, or visits the next entry and claims it if it is FREE. -/
def State.relocVisit (s : State) (c : Cmd) : Eng State :=
  let a := s.cmdWho c
  if !c.registered then
    (s.registerObj a c.wid c.object).map (fun s => s.modCmd c.id (fun c => { c with registered := true }))
  else if !c.begun then
    (s.engFwd a c.table).map (fun (s, h) => s.modCmd c.id (fun c => { c with begun := true, todo := [(0, 2 ^ (fwdHeader h).logn)] }))
  else match c.slot, c.todo with
    | none, (k, _) :: _ =>
      (s.engFwd a (fwdVa c.table k)).bind fun (s, x) =>
      if (fwdEntry x).state = 1 then
        match s.claimFwd a (fwdVa c.table k) c.rbytes with
        | .ok t => if let some w := s.claimBusy a (fwdVa c.table k) then .error (.wait w) else .ok (t.modCmd c.id (fun c => { c with slot := some k }))
        | .error e => .error (engTable s (fwdVa c.table k) e)
      else .ok (s.modCmd c.id (fun c => { c with todo := nextSlot c.todo }))
    | _, _ => .ok s

/-- The copy of the claimed entry's object ends. -/
def State.relocCopy (s : State) (c : Cmd) : Eng State := match c.slot with
  | none => .ok s
  | some k => match s.copyObject (s.cmdWho c) c.table k with
    | .ok t => .ok (t.modCmd c.id (fun c => { c with slot := none, todo := nextSlot c.todo }))
    | .error b => .error (match b with
      | .fault va f => .hold s va f
      | .dropped x => .stop x
      | .lines x n isW => .wait (s.askFor x n isW)
      | .full => .wait s)

/-- Past the last slot, once NCOPIED equals NENT: one arrival on the command's object. -/
def State.relocEnd (s : State) (c : Cmd) : Eng State :=
  let a := s.cmdWho c
  if c.registered && c.begun && c.slot.isNone && c.todo.isEmpty then
    (s.engFwd a c.table).bind fun (s, x) =>
    let h := fwdHeader x
    if h.ncopied ≠ h.nent then .ok s
    else (s.objReach a c.wid c.object).map (fun s => (s.landObj a c.wid c.object 0 1 true).endCmd c)
  else .ok s

/-- An event of a relocation command that no fault holds. -/
def State.relocEvent (s : State) (cmd : Nat) (f : State → Cmd → Eng State) : State := match s.cmd? cmd with
  | some c => if c.fault.isSome || c.kind != .reloc then s else s.settleCmd cmd (f s c)
  | none => s

/-- `RELOC_ENTRY_CLAIM`: a relocation engine visits an entry and claims it (R127). -/
def execRelocEntryClaim (cmd : Nat) (s : State) : Host.Outcome State Fault Refusal := .next (s.relocEvent cmd State.relocVisit)

/-- `RELOC_COPY_DONE`: an object's copy ends, with COPIED written and NCOPIED raised (R127). -/
def execRelocCopyDone (cmd : Nat) (s : State) : Host.Outcome State Fault Refusal := .next (s.relocEvent cmd State.relocCopy)

/-- `RELOC_TABLE_DONE`: NCOPIED equals NENT, and the engine arrives on the object (R127). -/
def execRelocTableDone (cmd : Nat) (s : State) : Host.Outcome State Fault Refusal := .next (s.relocEvent cmd State.relocEnd)

/-- The assisted copy of a fragment (R128): its end lets the fragment issue its instruction again, or a kill that waited
for it happen. -/
def State.assistedCopy (s : State) (g : Group) (f : Frag) : State := match f.wait with
  | .copying table slot none =>
    let a := (s.wg g.wid).who
    match s.copyObject a table slot with
    | .ok t => (t.modGroup g.gid (fun g => g.modFrag f.fid (fun f => { f with wait := .none }))).settleKills
    | .error (.fault va x) =>
      let (t, k) := s.postFault a va x
      t.modGroup g.gid (fun g => g.modFrag f.fid (fun f => { f with wait := .copying table slot (some k) }))
    | .error (.dropped c) => ((s.raiseOpt g.gid c).modGroup g.gid (fun g => g.modFrag f.fid (fun f => { f with wait := .none }))).settleKills
    | .error (.lines x n isW) => s.askFor x n isW
    | .error .full => s
  | _ => s

/-- `ASSISTED_COPY_DONE`: a mutator-assisted copy ends (R128). -/
def execAssistedCopyDone (gid : Nat) (s : State) : Host.Outcome State Fault Refusal :=
  .next (match s.group? gid with
    | some g => match g.frags.find? (fun f => match f.wait with
        | .copying _ _ none => true
        | _ => false) with
      | some f => s.assistedCopy g f
      | none => s
    | none => s)

/-! ### Streamers (R31, R56, R57, R239) -/

def State.sub? (s : State) (wid idx : Nat) : Option Sub := (s.wg wid).subs.find? (fun b => b.idx == idx)
def State.modSub (s : State) (wid idx : Nat) (f : Sub → Sub) : State :=
  s.modWg wid (fun w => { w with subs := w.subs.map (fun b => if b.idx = idx then f b else b) })
def State.dropSub (s : State) (wid idx : Nat) : State := s.modWg wid (fun w => { w with subs := w.subs.filter (fun b => b.idx ≠ idx) })

def Sub.slot (b : Sub) : Nat := b.next % b.slots
def Sub.use (b : Sub) : Nat := b.next / b.slots
def Sub.full (b : Sub) : Where := .win (b.objs + 32 * b.slot)
def Sub.empty (b : Sub) : Where := .win (b.objs + 32 * b.slot + 16)
/-- Row `r` of the next tile, in memory and in the window. -/
def Sub.memRow (b : Sub) (r : Nat) : Where := .glob (va57 (b.tbase.toNat + b.next * b.tpitch + r * b.rpitch))
def Sub.winRow (b : Sub) (r : Nat) : Where := .win (b.ring + b.slot * b.spitch + r * b.tbytes)

/-- Copy the rows of a tile: every row is read, then every target is checked, then all are written. -/
def State.tileCopy (s : State) (a : Who) (wid : Nat) (b : Sub) (src dst : Nat → Where) : Eng State :=
  let rows := List.range b.trows
  (foldE (fun (x : State × List (List (Byte × Bool))) r => (x.1.engRead a wid (src r) b.tbytes).map (fun y => (y.1, x.2 ++ [y.2])))
    (s, []) rows).bind fun (s, data) =>
  (foldE (fun (s : State) r => s.engCheck a wid (dst r) b.tbytes) s rows).map fun s =>
  (data.zipIdx).foldl (fun s e => s.engWrite a wid (dst e.2) e.1) s

/-- A subscription's streamer as an agent: its map fills count on the path of the group that subscribed (R44). -/
def State.subWho (s : State) (wid : Nat) (b : Sub) : Who := { s.ctxWho (s.wg wid).ctx with gid := some b.gid }

/-- The next tile of a subscription; nothing happens while the slot's object does not allow it. -/
def State.streamTile (s : State) (wid : Nat) (b : Sub) : Eng State :=
  let a := s.subWho wid b
  let done (s : State) : State := s.modSub wid b.idx (fun b => { b with next := b.next + 1 })
  if b.tcount ≤ b.next then .ok s
  else
    (s.objReach a wid (some b.full)).bind fun s =>
    (s.objReach a wid (some b.empty)).bind fun s =>
    let phase (p : Where) : Nat := match s.objRead a wid p with
      | .ok o => objPhase o
      | .error _ => 0
    if b.outbound then
      if phase b.full ≠ (b.use + 1) % 2 then .ok s
      else (s.tileCopy a wid b b.winRow b.memRow).map fun s =>
        let s := done (s.landObj a wid (some b.empty) 0 1 false)
        if b.next + 1 = b.tcount then s.dropSub wid b.idx else s
    else if phase b.empty ≠ b.use % 2 then .ok s
    else if (match s.objRead a wid b.full with
        | .ok o => objPending o == 65535
        | .error _ => true) then .ok s
    else (s.tileCopy a wid b b.memRow b.winRow).map fun s =>
      done ((s.objPut a wid b.full .register).landObj a wid (some b.full) (b.trows * b.tbytes) 0 true)

/-- A streamer stops: ERR on the tile's full object, or on the empty object of an outbound one; the subscription ends and
the group takes the cause (R229, R344). -/
def State.stopSub (s : State) (wid : Nat) (b : Sub) (cause : Option (Nat × Word64)) : State :=
  let s := s.objPut (s.subWho wid b) wid (if b.outbound then b.empty else b.full) (.setErr false)
  let s := match cause with
    | some (code, tval) => s.raiseAny b.gid code tval
    | none => s
  s.dropSub wid b.idx

/-- A streamer's event: it holds a tile that faults. Reading a tile and landing it are one step here, so that a tile that
is held has registered nothing. -/
def State.streamEvent (s : State) (wid idx : Nat) (outbound : Bool) : State := match s.sub? wid idx with
  | none => s
  | some b =>
    if b.fault.isSome || b.outbound != outbound || (s.wg wid).ending || (s.wg wid).stopping then s
    else match s.streamTile wid b with
      | .ok t => t
      | .error (.wait t) => t
      | .error (.hold t va f) =>
        let (t, k) := t.postFault (t.subWho wid b) va f
        t.modSub wid idx (fun b => { b with fault := some (k.1, k.2, n64 va) })
      | .error (.stop c) => s.stopSub wid b c

/-- `STREAMER_TILE_INBOUND`: the streamers deliver a tile into a ring slot (R56). -/
def execStreamerTileInbound (wid idx : Nat) (s : State) : Host.Outcome State Fault Refusal := .next (s.streamEvent wid idx false)

/-- `STREAMER_TILE_OUTBOUND`: the streamers write a tile to memory and arrive on empty (R56). -/
def execStreamerTileOutbound (wid idx : Nat) (s : State) : Host.Outcome State Fault Refusal := .next (s.streamEvent wid idx true)

end Sys2Proof.Machine
end

