-- ==== Sys2Proof/Machine/Sync.lean ====
section
/-! DEFINITION. Arriving at and waiting on barrier objects (R222), and hardware queues (R223 to R225). -/

namespace Sys2Proof.Machine

/-- `BOARV`: one arrival (R54, R222). -/
def boarvBody (f : FmtC) (s : State) : Exec :=
  (s.releaseWait (bitN f.imm.toNat 0)).bind fun s => s.objUpdate (s.sregOr 0 f.sa) (fun o => objStep o 0 1 false)
def execBoarv (f : FmtC) (s : State) : Host.Outcome State Fault Refusal := issue (.boarv f) s (boarvBody f)

/-- `BOWAIT`: the fragment is held until PHASE equals the parity; ERR traps (R54, R222). -/
def bowaitBody (f : FmtC) (s : State) : Exec :=
  let a := s.sregOr 0 f.sa
  (wholeTrap (s.loadThreads .generic 16 16 false [⟨0, a⟩])).bind fun (s, vs) =>
  let o := leNat ((vs.map Prod.snd).headD [])
  if objErr o then trapAt s cBarobj a
  else if objPhase o = b2n (bitN f.imm.toNat 0) then .ok s
  else holdOn s (.object a)
def execBowait (f : FmtC) (s : State) : Host.Outcome State Fault Refusal := issue (.bowait f) s (bowaitBody f)

/-! ### Queues -/

/-- A queue header's fields (R223). -/
structure QHeader where
  launch : Nat
  unit : Nat
  valid : Bool
  scope : Nat
  logcap : Nat
  tail : Nat
  head : Nat
  deriving DecidableEq, Repr

def decodeQueue (x : Nat) : QHeader :=
  ⟨fld x 192 16, fld x 144 48, bitN x 139, fld x 136 3, fld x 128 5, fld x 64 64, fld x 0 64⟩

/-- The instance's launch and unit for the issuing group at a scope (R223). -/
def State.queueUnit (s : State) (scope : Nat) : Nat × Nat :=
  let w := s.cw
  if scope = 0 then (w.lnum, w.wgx * 32 + s.cg.gidx) else if scope = 1 then (w.lnum, w.wgx) else if scope = 2 then (w.lnum, w.gang) else (0, 0)

/-- The checks of the header's address (R224). -/
def State.queueAddr (s : State) (a : Word64) : Exec :=
  if !isGlobal a then trapAt s cAddress a else if a.toNat % 64 ≠ 0 then trapAt s cMisaligned a else .ok s

/-- Reach `n` bytes that the operation reads and writes at an address; poison traps, a fault holds (R219, R225). At trap levels 1
and 2 a fault traps before the side log can hold anything (R321). PIN is not asked for here, as R210 names ordinary accesses; the
entry that QPOP reads is read by an ordinary load: the model's choice (log 65). -/
def State.queueReach (s : State) (a : Nat) (n : Nat) : Except Stop Xlat :=
  let faults : Bool := match s.fate s.cw.who a true with
    | .fault _ => true
    | _ => false
  if s.cg.logged (a / 128) && !(0 < s.cg.tlevel && faults) then holdOn s .sideLog
  else match s.fate s.cw.who a true with
    | .ok x => if s.lineBusy x n true then holdOn (s.askFor x n true) .snoop
      else if s.poisoned x.pa n then trapAt (s.notePoison s.cw.who a) cPoison (n64 a) else .ok x
    | .silent => trapAt (s.notePoison s.cw.who a) cPoison (n64 a)
    | e => .error (s.fateStop a e)

/-- Is a held push or pop of another fragment on the queue older (R225)? -/
def State.queueBehind (s : State) (pa : Nat) (push : Bool) : Bool :=
  let mine := match s.cf.wait with
    | .queue p b n => if p = pa ∧ b = push then n else s.freeCtr
    | _ => s.freeCtr
  s.groups.any (fun g => g.frags.any (fun f => !(g.gid == s.cur.gid && f.fid == s.cur.fid) && !g.stopped f && (match f.wait with
    | .queue p b n => p == pa && b == push && decide (n < mine)
    | _ => false)))

/-- Hold on a queue, keeping the time since when. -/
def State.queueHold (s : State) (pa : Nat) (push : Bool) : Exec := match s.cf.wait with
  | .queue p b n => holdOn s (.queue pa push (if p = pa ∧ b = push then n else s.freeCtr))
  | _ => holdOn s (.queue pa push s.freeCtr)

/-- What QPUSH and QPOP share (R225): the header's checks, the hold, then the operation on the entry. -/
def queueBody (f : FmtC) (push : Bool) (op : State → Word64 → Xlat → QHeader → Except Stop State) (s : State) : Exec :=
  let a := s.sregOr 0 f.sa
  (s.queueAddr a).bind fun s =>
  (s.queueReach a.toNat 64).bind fun x =>
  let h := decodeQueue (s.rd x.pa 64)
  let used := (h.tail + 2 ^ 64 - h.head) % 2 ^ 64
  if !h.valid || h.logcap = 0 || 16 < h.logcap || 2 ^ h.logcap < used then trapAt s cQstate a
  else if (h.scope = 3 || h.scope = 4 || h.scope = 7) || (h.scope ≤ 2 && (h.launch, h.unit) ≠ s.queueUnit h.scope) then trapAt s cQscope a
  else if (if push then used = 2 ^ h.logcap else used = 0) || s.queueBehind x.pa push then s.queueHold x.pa push
  else op s a x h

/-- Address of entry `k`. -/
def QHeader.entry (h : QHeader) (a : Word64) (k : Nat) : Nat := (a.toNat + 64 + 8 * (k % 2 ^ h.logcap)) % 2 ^ 57

/-- Header address of a context's collective queue, 0 where it has none (R356). -/
def State.collectiveQueue (s : State) (ctx : Nat) : Nat := s.rd ((s.barReg physFn 0x118).toNat + 1024 * ctx + 512) 8

/-- `QPUSH` (R81, R225). Who pushed an entry of the collective queue is kept (R372). -/
def qpushBody (f : FmtC) (s : State) : Exec :=
  (s.releaseWait true).bind fun s =>
  queueBody f true (fun s a x h =>
    let e := h.entry a h.tail
    let s := s.logDirty s.cw.who x
    (s.queueReach e 8).bind fun y =>
    let s := s.performWrite s.cw.who y (leBytes 8 (s.sregOr 0 f.sb).toNat)
    let s := if s.collectiveQueue s.cw.ctx = a.toNat ∧ a ≠ 0 then { s with pushers := s.pushers ++ [(s.cw.ctx, h.tail, s.cur.gid)] } else s
    .ok (s.performWrite s.cw.who { x with pa := x.pa + 8 } (leBytes 8 ((h.tail + 1) % 2 ^ 64)))) s
def execQpush (f : FmtC) (s : State) : Host.Outcome State Fault Refusal := issue (.qpush f) s (qpushBody f)

/-- `QPOP` (R81, R225). -/
def qpopBody (f : FmtC) (s : State) : Exec :=
  queueBody f false (fun s a x h =>
    let e := h.entry a h.head
    (wholeTrap (s.loadThreads .global 8 8 false [⟨0, n64 e⟩])).bind fun (s, vs) =>
    let s := s.setSOpt f.sb (n64 (leNat ((vs.map Prod.snd).headD [])))
    .ok (s.performWrite s.cw.who x (leBytes 8 ((h.head + 1) % 2 ^ 64)))) s
def execQpop (f : FmtC) (s : State) : Host.Outcome State Fault Refusal := issue (.qpop f) s (qpopBody f)

/-- Status of QCREATE (R224). -/
def createStatus (scope : Nat) (h : QHeader) : Nat :=
  if scope = 3 ∨ scope = 4 then 1 else if h.logcap = 0 ∨ 16 < h.logcap then 2 else if h.valid then 3 else 0

/-- The header that QCREATE writes over `x` (R223, R224). -/
def State.createHeader (s : State) (scope x : Nat) : Nat :=
  let (l, u) := s.queueUnit scope
  fld x 208 304 * 2 ^ 208 + l % 2 ^ 16 * 2 ^ 192 + u % 2 ^ 48 * 2 ^ 144 + 2 ^ 139 + scope * 2 ^ 136 + fld x 128 5 * 2 ^ 128

/-- `QCREATE` (R81, R224). -/
def qcreateBody (f : FmtC) (s : State) : Exec :=
  let a := s.sregOr 0 f.sa
  let scope := f.imm.toNat % 8
  (s.queueAddr a).bind fun s =>
  (s.queueReach a.toNat 64).bind fun x =>
  let v := s.rd x.pa 64
  let st := createStatus scope (decodeQueue v)
  if st ≠ 0 then .ok (s.setSOpt f.sb (n64 st))
  else (s.releaseWait true).bind fun s => .ok ((s.performWrite s.cw.who x (leBytes 64 (s.createHeader scope v))).setSOpt f.sb 0)
def execQcreate (f : FmtC) (s : State) : Host.Outcome State Fault Refusal := issue (.qcreate f) s (qcreateBody f)

end Sys2Proof.Machine
end

