-- ==== Sys2Proof/Machine/Fabric.lean ====
section
/-! DEFINITION. Extents of a CB7-L and their release (R362, R379), task packets (R363 to R365, R382), collectives (R372,
R373). -/

namespace Sys2Proof.Machine

/-! ### Extents (R362) -/

def State.extentRec (s : State) (idx : Nat) : Nat := (s.barReg physFn 0x150).toNat + 32 * idx
/-- Fields of an extent's record. -/
def State.extentW (s : State) (idx p n : Nat) : Nat := fld (s.rd (s.extentRec idx) 8) p n
def State.setExtentW (s : State) (idx p n v : Nat) : State := s.wr (s.extentRec idx) 8 (putFld (s.rd (s.extentRec idx) 8) p n v)
def State.extentTenant (s : State) (idx : Nat) : Nat := s.rd (s.extentRec idx + 8) 8
def State.extentTag (s : State) (idx : Nat) : Nat := s.rd (s.extentRec idx + 16) 16
def State.hasExtents (s : State) (idx : Nat) : Bool := s.fitting == .l && idx < maxExtents && (s.barReg physFn 0x150).toNat != 0

/-- `DC_EXTENT_ADD`: dynamic capacity adds an extent: STATE 1 (R362). -/
def execDcExtentAdd (idx : Nat) (tag : BitVec 128) (dpag : Nat) (s : State) : Host.Outcome State Fault Refusal :=
  .next (if s.hasExtents idx ∧ s.extentW idx 50 3 = 0 then
    (((s.wr (s.extentRec idx + 16) 16 tag.toNat).setExtentW idx 53 11 dpag).setExtentW idx 49 1 0).setExtentW idx 50 3 1
  else s)

/-- `TENANT_WRITE`: an added extent gets an owner: STATE 2 (R362). -/
def execTenantWrite (idx : Nat) (tenant : Word64) (s : State) : Host.Outcome State Fault Refusal :=
  .next (if s.hasExtents idx ∧ s.extentW idx 50 3 = 1 then (s.wr (s.extentRec idx + 8) 8 tenant.toNat).setExtentW idx 50 3 2 else s)

/-- First address of an extent of 1 GiB, and whether a line lies in it. -/
def State.extentBase (s : State) (idx : Nat) : Nat := s.extentW idx 53 11 * 2 ^ 30
def State.lineIn (s : State) (idx line : Nat) : Bool := s.extentBase idx / 128 ≤ line && line < (s.extentBase idx + 2 ^ 30) / 128

/-- Every line of an extent is back-invalidated from every holder, and modified data is discarded. -/
def State.emptyExtent (s : State) (idx : Nat) : State :=
  let held := s.snoop.filter (fun e => s.lineIn idx (e.line / 2))
  let s := held.foldl (fun (s : State) e => (e.owner.toList ++ e.sharers).eraseDups.foldl (fun (s : State) a => s.emit (.backInvalidate e.line a)) s) s
  let s := (s.modified.filter (fun e => s.lineIn idx e.1)).foldl (fun (s : State) e => s.poke (128 * e.1) e.2) s
  { s.uncacheRange (s.extentBase idx / 128) (2 ^ 23) with snoop := s.snoop.filter (fun e => !s.lineIn idx (e.line / 2)) }

/-- `XREL`: the release of an extent begins (R362): STATE 3, running tasks of the tenant that name it are killed, and its
lines leave every cache. -/
def execXrel (value : Word64) (s : State) : Host.Outcome State Fault Refusal :=
  .next (
    let idx := value.toNat
    if !s.hasExtents idx ∨ !(s.extentW idx 50 3 = 1 ∨ s.extentW idx 50 3 = 2) then s
    else
      let tag := s.extentTag idx
      let gone := s.tasks.filter (fun t => t.tenant == s.extentTenant idx && t.tags.contains tag)
      let s := s.setExtentW idx 50 3 3
      let s := gone.foldl (fun (s : State) t => s.killLaunch t.rcb 6) s
      let s := (s.emptyExtent idx).settleLate
      { s with scrubs := s.scrubs ++ [(idx, s.clock)] })

/-! ### The receipt of a scrub (R379) -/

/-- A line or a retired page at which the sweep does something of its own: first line, lines, KIND. -/
structure Cut where
  line : Nat
  lines : Nat
  kind : Nat
  deriving DecidableEq, Repr
def insertCut (c : Cut) : List Cut → List Cut
  | [] => [c]
  | d :: l => if c.line < d.line then c :: d :: l else d :: insertCut c l

/-- An entry of 16 bytes. -/
def receiptEntry (kind count dpa : Nat) : List Byte := leBytes 16 (kind * 2 ^ 120 + count % 2 ^ 32 * 2 ^ 64 + dpa)
/-- Entries from a line on up to the end of the extent. -/
def receiptEntries (line last : Nat) : List Cut → List (List Byte)
  | [] => if line < last then [receiptEntry 1 (last - line) (128 * line)] else []
  | c :: l => (if line < c.line then [receiptEntry 1 (c.line - line) (128 * line)] else []) ++
      [receiptEntry c.kind 1 (128 * c.line)] ++ receiptEntries (c.line + c.lines) last l

/-- The lines and pages that the sweep lists. -/
def State.cuts (s : State) (idx : Nat) (unverified : List Nat) : List Cut :=
  let pages := s.retired.filter (fun p => s.lineIn idx (512 * p))
  let lines := unverified.eraseDups.filter (fun l => s.lineIn idx l && !pages.contains (l / 512))
  (pages.map (fun p => (⟨512 * p, 512, 2⟩ : Cut)) ++ lines.map (fun l => (⟨l, 1, 3⟩ : Cut))).foldl (fun l c => insertCut c l) []

/-- Every line of the extent reads zero and carries no mark, but for retired pages; surrogates whose code lay in it are INVALID
(R136). -/
def State.zeroExtent (s : State) (idx : Nat) : State :=
  let hit (line : Nat) : Bool := s.lineIn idx line && !s.retired.contains (line / 512)
  { s with mem := s.mem.filter (fun e => !hit (e.1 / 128)), poison := s.poison.filter (fun l => !hit l)
           kites := staleKites s.kites (s.extentBase idx) (2 ^ 30) }

/-- `EXTENT_SCRUB_DONE`: a scrub ends; its receipt is written and signed, and the extent is free (R362, R379). -/
def execExtentScrubDone (idx : Nat) (unverified : List Nat) (s : State) : Host.Outcome State Fault Refusal :=
  .next (match s.scrubs.find? (fun e => e.1 == idx) with
    | none => s
    | some (_, clk0) =>
      let base := s.extentBase idx
      let es := receiptEntries (base / 128) ((base + 2 ^ 30) / 128) (s.cuts idx unverified)
      let head := s.extentTag idx * 2 ^ 384 + s.extentTenant idx * 2 ^ 320 + clk0.toNat * 2 ^ 256 + s.clock.toNat * 2 ^ 192 + base * 2 ^ 128 +
        2 ^ 30 * 2 ^ 64 + s.rseq.toNat * 2 ^ 32 + es.length % 2 ^ 32
      let msg := leBytes 64 head ++ es.flatten
      let sig := Config.sm2Sign msg
      let bad := (unverified.filter (fun l => s.lineIn idx l)).map (· / 512)
      let t := s.zeroExtent idx
      let t := { t with scrubs := t.scrubs.filter (fun e => e.1 ≠ idx), rseq := t.rseq + 1
                        retired := bad.foldl (fun l p => insertAsc p l) t.retired }
      let t := t.wrN (s.barReg physFn 0x160).toNat (msg ++ leBytes 64 sig.toNat)
      let t := (t.postEvent physFn (leBytes 8 (4 * 2 ^ 56) ++ leBytes 24 0)).emit (.report msg sig)
      ((t.setExtentW idx 50 3 0).setExtentW idx 49 1 0).emit (.extentReleased idx))

/-! ### Task packets (R363 to R365) -/

/-- A tenant record (R363). -/
def State.tenantRec (s : State) (i : Nat) : Nat := (s.barReg physFn 0x148).toNat + 256 * i
def State.tenantId (s : State) (i : Nat) : Nat := s.rd (s.tenantRec i) 8
def State.tenantValid (s : State) (i : Nat) : Bool :=
  s.fitting == .l && i < 256 && s.tenantId i != 0 && bitN (s.rd (s.tenantRec i + 8) 8) 16
def State.tenantCtx (s : State) (i : Nat) : Nat := fld (s.rd (s.tenantRec i + 8) 8) 0 16
/-- Device virtual address of the ring descriptor. -/
def State.tenantRing (s : State) (i : Nat) : Nat := fld (s.rd (s.tenantRec i + 16) 8) 0 57

/-- Physical address of `n` bytes at a tenant's virtual address; a fault is posted (R343), and the back-invalidations that the
access needs are sent (R361). -/
def State.tenantAt (s : State) (i va n : Nat) (isW : Bool) : Except State Nat :=
  match s.fate (s.ctxWho (s.tenantCtx i)) va isW with
  | .ok x => if s.snoopBusy x.pa n isW then .error (s.sendSnoops x.pa n isW) else .ok x.pa
  | .fault f => .error (s.postFault (s.ctxWho (s.tenantCtx i)) va f).1
  | _ => .error s

/-- `TASK_RING_POLL`: the expander reads a registered TAIL (R363). -/
def execTaskRingPoll (i : Nat) (s : State) : Host.Outcome State Fault Refusal :=
  .next (if s.tenantValid i then
    match s.tenantAt i (s.tenantRing i) 16 false with
    | .ok pa => { s with taskTails := SMap.set 0 s.taskTails i (BitVec.ofNat 32 (s.ring pa).tail) }
    | .error t => t
  else s)

/-- A task packet (R364). -/
structure Packet where
  magic : Nat
  version : Nat
  next : Nat
  tlen : Nat
  arglen : Nat
  seq : Nat
  tenant : Nat
  code : Nat
  tags : List Nat
  nwg : Nat
  zero1 : Nat
  cword : Nat
  zero2 : Nat
  deriving DecidableEq, Repr
def packetAt (b : List Byte) : Packet :=
  let n (o k : Nat) : Nat := leNat ((b.drop o).take k)
  ⟨n 0 4, n 4 2, n 6 2, n 8 4, n 12 4, n 16 8, n 24 8, n 32 32, [n 64 16, n 80 16, n 96 16, n 112 16], n 128 4, n 132 4, n 136 8, n 144 32⟩

/-- Check 1 of R365. -/
def Packet.wellFormed (p : Packet) : Bool :=
  p.magic == 0x4B505443 && p.version == 1 && decide (p.arglen ≤ 3840) && p.arglen % 8 == 0 && p.tlen == 176 + p.arglen + 64 &&
  decide (1 ≤ p.next) && decide (p.next ≤ 4) && (p.tags.drop p.next).all (· == 0) && p.zero1 == 0 && p.zero2 == 0

/-- The extent that a tag names for a tenant (check 6 of R365). -/
def State.extentOf (s : State) (tenant tag : Nat) : Option Nat := (List.range maxExtents).find? (fun i =>
  s.extentTag i == tag && s.extentW i 50 3 == 2 && s.extentTenant i == tenant && s.extentW i 49 1 == 0)

/-- ENTRY and IMAGE of a digest in a CODETAB (R363). -/
def State.codeByDigest (s : State) (tab digest : Nat) : Nat → Nat → Option (Nat × Nat)
  | 0, _ => none
  | n + 1, k =>
    let d := s.rd (tab + 48 * k) 32
    if d = 0 then none
    else if d = digest then some (s.rd (tab + 48 * k + 32) 8, s.rd (tab + 48 * k + 40) 8)
    else s.codeByDigest tab digest n (k + 1)

/-- The record that check 2 of R365 finds for a packet in a ring. -/
def State.keyFor (s : State) (ring tenant : Nat) : Option Nat :=
  (List.range 256).find? (fun j => s.tenantValid j && s.tenantId j == tenant && s.tenantRing j == ring)

/-- Checks 1 to 6 of R365: the status of a refusal, or the record and the code entry. -/
def State.packetCheck (s : State) (i : Nat) (b : List Byte) : Except Nat (Nat × Nat × Nat) :=
  let p := packetAt b
  if !p.wellFormed then .error 2
  else match s.keyFor (s.tenantRing i) p.tenant with
    | none => .error 4
    | some j =>
      let r := s.tenantRec j
      if p.seq ≤ s.rd (r + 24) 8 then .error 3
      else
        let key := BitVec.ofNat 512 (s.rd (r + 64) 64)
        let sig := BitVec.ofNat 512 (leNat ((b.drop (p.tlen - 64)).take 64))
        if !Config.sm2Verify key (b.take (p.tlen - 64)) sig then .error 5
        else match s.codeByDigest (fld (s.rd (r + 32) 8) 0 57) p.code 64 0 with
          | none => .error 6
          | some (entry, image) =>
            let xs := (p.tags.take p.next).map (s.extentOf p.tenant)
            let inOne := match s.fate (s.ctxWho (s.tenantCtx j)) p.cword true with
              | .ok x => paTarget x.pa == 0 && xs.any (fun e => match e with
                | some k => s.lineIn k (x.pa / 128)
                | none => false)
              | _ => false
            if xs.all Option.isSome && p.cword % 8 == 0 && inOne then .ok (j, entry, image) else .error 7

/-- Bytes of a CODETAB (R363). -/
def codetabBytes : Nat := 48 * 64
/-- The look into a CODETAB waits for answers about its lines (R361). -/
def State.tabHold (s : State) (i : Nat) (b : List Byte) : Option State :=
  match s.keyFor (s.tenantRing i) (packetAt b).tenant with
  | none => none
  | some j =>
    let tab := fld (s.rd (s.tenantRec j + 32) 8) 0 57
    if s.snoopBusy tab codetabBytes false then some (s.sendSnoops tab codetabBytes false) else none

/-- The launch RCB of an accepted packet, beneath its context (R301, R365). -/
def State.taskRcb (s : State) (ctx entry image arg : Nat) (p : Packet) : List Nat :=
  [3 * 2 ^ 60 + 2 * 2 ^ 56 + 2 ^ 53, s.ctxRcb ctx, 0, 0, 0, 0, 0, 0, entry, image, arg, p.nwg * 2 ^ 32, p.cword, 0, 0, 0]

/-- Status of a slot, then HEAD (R365). The packet's lines are held by no agent outside by now. -/
def State.slotDone (s : State) (ring slot status : Nat) : State :=
  let s := s.homeWrite (slot + 4088) (leBytes 8 status)
  s.homeWrite (ring + 12) (leBytes 4 ((s.ring ring).head + 1))

/-- An accepted packet starts its launch in a free slot of the context's wave queue (log 31). -/
def State.startTask (s : State) (j ring slot va entry image a : Nat) (p : Packet) : State :=
  let ctx := s.tenantCtx j
  let s := (s.slotDone ring slot 1).wr (s.tenantRec j + 24) 8 p.seq
  let s := s.wrN a ((s.taskRcb ctx entry image (va + 176) p).map (leBytes 8)).flatten
  let s := { s with tasks := s.tasks ++ [({ rcb := a, tenant := p.tenant, slot := slot, tags := p.tags.take p.next } : Task)] }
  let fail := s.launchFail ctx a
  if fail ≠ 0 then (s.setRcbState a 7 fail).taskStatus a 9
  else (s.newWork ctx a).becomeCandidate a

/-- `TASK_PACKET`: the packet at HEAD of a ring is checked, and launched or refused (R365). -/
def execTaskPacket (i : Nat) (s : State) : Host.Outcome State Fault Refusal :=
  .next (
    if !s.tenantValid i ∨ !s.running then s
    else match s.tenantAt i (s.tenantRing i) 16 true with
      | .error t => t
      | .ok ring =>
        let r := s.ring ring
        if r.head = (SMap.get 0 s.taskTails i).toNat ∨ r.logn < 4 then s
        else
          let va := (r.base + 4096 * (r.head % 2 ^ r.logn)) % 2 ^ 57
          match s.tenantAt i va 4096 true with
          | .error t => t
          | .ok slot =>
            let b := s.rdN slot 4096
            if let some t := s.tabHold i b then t
            else match s.packetCheck i b with
            | .error st => s.slotDone ring slot st
            | .ok (j, entry, image) => match s.waveSlot (s.tenantCtx j) with
              | none => s
              | some a => s.startTask j ring slot va entry image a (packetAt b))

/-! ### Collectives (R372, R373) -/

/-- A collective descriptor. -/
structure CollDesc where
  src : Nat
  dst : Nat
  bobj : Nat
  count : Nat
  d : Nat
  op : Nat
  oper : Nat
  nmem : Nat
  rank : Nat
  zero1 : Nat
  members : Nat
  ctag : Nat
  zero2 : Nat
  deriving DecidableEq, Repr
def collDesc (x : Nat) : CollDesc :=
  ⟨fld x 0 64, fld x 64 64, fld x 128 64, fld x 192 32, fld x 224 16, fld x 240 8, fld x 248 8, fld x 256 32, fld x 288 16, fld x 304 16,
   fld x 320 64, fld x 384 64, fld x 448 64⟩

/-- Well formed (R372). -/
def CollDesc.ok (c : CollDesc) : Bool :=
  c.zero1 == 0 && c.zero2 == 0 && decide (2 ≤ c.nmem) && decide (c.nmem ≤ 64) && decide (c.rank < c.nmem) &&
  (if c.op = 2 then c.oper == 0 && c.d == 0
   else c.op == 1 && decide (1 ≤ c.oper) && decide (c.oper ≤ 4) &&
     (if c.oper = 4 then decide (4 ≤ c.d) && decide (c.d ≤ 512) && c.d % 4 == 0 else c.d == 0)) &&
  [c.src, c.dst, c.bobj, c.members].all (fun a => fld a 57 7 == 0) && c.bobj % 16 == 0

/-- Bytes of one element: a broadcast counts 4-byte elements (log 32). -/
def CollDesc.elem (c : CollDesc) : Nat := if c.op = 1 ∧ c.oper = 4 then 16 + 4 * c.d else if c.op = 1 ∧ c.oper = 2 then 2 else 4
def CollDesc.bytes (c : CollDesc) : Nat := c.count * c.elem

/-- Merge two triples of d elements, as word lists m, l, two reserved words, o (R120, R121). -/
def mergeTriples (x y : List Nat) : List Nat :=
  let part (l : List Nat) : List Nat := l.take 2 ++ l.drop 4
  let nan := (part x ++ part y).any (fun w => (fmt32.decode w).isNan)
  let at_ (l : List Nat) (i : Nat) : Nat := l.getD i 0
  let one (k : Nat) : Nat × Nat × Nat :=
    if nan then (fmt32.canonical, fmt32.canonical, fmt32.canonical)
    else mergeTriple (at_ x 0) (at_ x 1) (at_ x k) (at_ y 0) (at_ y 1) (at_ y k)
  let f := one 4
  [f.1, f.2.1, 0, 0] ++ (List.range (x.length - 4)).map (fun k => (one (k + 4)).2.2)

/-- comb of R373 on one element, as words of the tree: FP32 codes, or a triple. -/
def CollDesc.comb (c : CollDesc) (x y : List Nat) : List Nat :=
  if c.oper = 4 then mergeTriples x y
  else if c.oper = 3 then List.zipWith (minMaxCode .f32 true) x y
  else List.zipWith (fun a b => fmt32.roundWide .rne 0 ((fmt32.decode a).add (fmt32.decode b))) x y

/-- One element as words of the tree; bfloat16 is decoded exactly. -/
def CollDesc.load (c : CollDesc) (b : List Byte) : List Nat :=
  if c.oper = 2 then [fmt32.roundWide .rne 0 (fmtBf.decode (leNat b))]
  else (List.range (b.length / 4)).map (fun i => leNat ((b.drop (4 * i)).take 4))
def CollDesc.store (c : CollDesc) (x : List Nat) : List Byte :=
  if c.oper = 2 then leBytes 2 (convTo .bf16 .rne 0 (fmt32.decode (x.headD 0))) else (x.map (leBytes 4)).flatten

/-- One step of the tree of R373: x[r] takes x[r + 2^k]. -/
def treeStep (comb : List Nat → List Nat → List Nat) (k : Nat) (x : List (List Nat)) : List (List Nat) :=
  (x.zipIdx).map (fun (v, r) => if r % 2 ^ (k + 1) = 0 ∧ r + 2 ^ k < x.length then comb v (x.getD (r + 2 ^ k) []) else v)
/-- The result of the tree for at most 64 members. -/
def treeAll (comb : List Nat → List Nat → List Nat) (x : List (List Nat)) : List Nat :=
  ((List.range 6).foldl (fun x k => if 2 ^ k < x.length then treeStep comb k x else x) x).headD []

/-- Result bytes of an ALLREDUCE over every rank's bytes. -/
def CollDesc.reduce (c : CollDesc) (data : List (List Byte)) : List Byte :=
  ((List.range c.count).map (fun i =>
    c.store (treeAll c.comb (data.map (fun b => c.load ((b.drop (i * c.elem)).take c.elem)))))).flatten

/-- The entry at HEAD of a context's collective queue: the header's translation, the header, the descriptor's address. Answers about
their lines are awaited first (R360, R361). -/
def State.collHead (s : State) (ctx : Nat) : Eng (State × Xlat × QHeader × Nat) :=
  let a := s.ctxWho ctx
  let hd := s.collectiveQueue ctx
  if hd = 0 ∨ !s.cerlink then .error (.wait s)
  else (s.engFate a (n64 hd) true false).bind fun e => match e with
    | .ok x =>
      let h := decodeQueue (s.rd x.pa 64)
      if let some t := s.lineHold x 64 true then .error (.wait t)
      else if !h.valid || h.logcap = 0 || 16 < h.logcap || h.head = h.tail then .error (.wait s)
      else (s.engFate a (n64 (h.entry (n64 hd) h.head)) false false).bind fun e => match e with
        | .ok y => match s.lineHold y 8 false with
          | some t => .error (.wait t)
          | none => .ok (s.noteRead a y 8, x, h, s.rd y.pa 8)
        | _ => .error (.wait s)
    | _ => .error (.wait s)

/-- Take the entry at HEAD out; the group that pushed it. -/
def State.collPop (s : State) (ctx : Nat) (x : Xlat) (h : QHeader) : State × Nat :=
  let gid := match s.pushers.find? (fun e => e.1 == ctx && e.2.1 == h.head) with
    | some e => e.2.2
    | none => s.nextId
  ({ s with pushers := s.pushers.filter (fun e => !(e.1 == ctx && e.2.1 == h.head)) }.performWrite (s.ctxWho ctx) x
    (leBytes 8 ((h.head + 1) % 2 ^ 64)), gid)

/-- A descriptor starts nothing: ERR on BOBJ, and the pushing group takes a cause (R372). -/
def State.collRefuse (s : State) (ctx gid : Nat) (c : CollDesc) (code va : Nat) : State :=
  (s.objPut (s.ctxWho ctx) 0 (.glob (n64 c.bobj)) (.setErr false)).raiseAny gid code (n64 va)

/-- The engine takes a descriptor of operation `op`; `pick` gives the result from this member's own bytes, or none while
the other members' data has not arrived. -/
def State.collStart (s : State) (ctx op : Nat) (pick : CollDesc → List Byte → Option (List Byte)) : Eng State :=
  let a := s.ctxWho ctx
  (s.collHead ctx).bind fun (s, x, h, va) =>
  (s.engRead a 0 (.glob (n64 (va % 2 ^ 57))) 64).bind fun (s, bs) =>
  let c := collDesc (leNat (bs.map Prod.fst))
  if (if c.op = 2 then 2 else 1) ≠ op then .error (.wait s)
  else if !c.ok || fld va 57 7 != 0 then
    let (t, gid) := s.collPop ctx x h
    .ok (t.collRefuse ctx gid c cAsync va)
  else (s.engRead a 0 (.glob (n64 c.members)) (2 * c.nmem)).bind fun (s, ms) =>
    let peers := (List.range c.nmem).map (fun i => leNat (((ms.map Prod.fst).drop (2 * i)).take 2))
    if (peers.zipIdx).any (fun (p, i) => i != c.rank && (decide (4096 ≤ p) || !s.onRoster ctx p)) then
      let (t, gid) := s.collPop ctx x h
      .ok (t.collRefuse ctx gid c cPeer va)
    else (s.engRead a 0 (.glob (n64 c.src)) c.bytes).bind fun (t, own) =>
      match pick c (own.map Prod.fst) with
      | none => .error (.wait s)
      | some res =>
        let (t, gid) := t.collPop ctx x h
        let bad := own.any Prod.snd
        let t := t.emit (.collective (n64 c.ctag) (own.map Prod.fst))
        .ok { t with collectives := t.collectives ++ [⟨t.nextId, ctx, gid, n64 c.dst, n64 c.bobj, res.map (fun b => (b, bad))⟩], nextId := t.nextId + 1 }

/-- How an engine's stop ends a collective's event: a fault is posted, and the event happens again after the answer. -/
def State.settleColl (s : State) (ctx : Nat) (r : Eng State) : State := match r with
  | .ok t => t
  | .error (.wait t) => t
  | .error (.hold t va f) => (t.postFault (t.ctxWho ctx) va f).1
  | .error (.stop _) => s

/-- Put this member's bytes at its rank among the others'. -/
def atRank (l : List (List Byte)) (rank : Nat) (own : List Byte) : List (List Byte) := l.take rank ++ [own] ++ l.drop rank

/-- `ALLREDUCE`: the engine takes an all-reduce descriptor; `others` are the other members' sources in rank order (R373). -/
def execAllreduce (ctx : Nat) (others : List (List Byte)) (s : State) : Host.Outcome State Fault Refusal :=
  .next (s.settleColl ctx (s.collStart ctx 1 (fun c own =>
    if others.length + 1 = c.nmem ∧ others.all (fun b => b.length == c.bytes) then some (c.reduce (atRank others c.rank own)) else none)))

/-- `BROADCAST`: the engine takes a broadcast descriptor; `root` is rank 0's source (R372). -/
def execBroadcast (ctx : Nat) (root : List Byte) (s : State) : Host.Outcome State Fault Refusal :=
  .next (s.settleColl ctx (s.collStart ctx 2 (fun c own =>
    if c.rank = 0 then some own else if root.length = c.bytes then some root else none)))

def State.coll? (s : State) (id : Nat) : Option Collective := s.collectives.find? (fun c => c.id == id)
def State.dropColl (s : State) (id : Nat) : State := { s with collectives := s.collectives.filter (fun c => c.id ≠ id) }

/-- `COLLECTIVE_DONE`: DST is written, then BOBJ takes one arrival (R372); a stop sets ERR as R229 has it. -/
def execCollectiveDone (id : Nat) (s : State) : Host.Outcome State Fault Refusal :=
  .next (match s.coll? id with
    | none => s
    | some c =>
      let a := s.ctxWho c.ctx
      match (s.engCheck a 0 (.glob c.dst) c.result.length).bind (fun s => s.engReady a 0 (.glob c.bobj, 16)) with
      | .ok s => ((s.engWrite a 0 (.glob c.dst) c.result).landObj a 0 (some (.glob c.bobj)) 0 1 false).dropColl id
      | .error (.wait t) => t
      | .error (.hold t va f) => (t.postFault a va f).1
      | .error (.stop cause) =>
        let s := (s.dropColl id).objPut a 0 (.glob c.bobj) (.setErr false)
        match cause with
        | some (code, tval) => s.raiseAny c.gid code tval
        | none => s)

/-- `COLLECTIVE_MEMBER_LOSS`: ERR is set on BOBJ, and DST is unspecified: free values (R372, log 2). -/
def execCollectiveMemberLoss (id : Nat) (s : State) : Host.Outcome State Fault Refusal :=
  .next (match s.coll? id with
    | none => s
    | some c =>
      let a := s.ctxWho c.ctx
      let t := match s.engCheck a 0 (.glob c.dst) c.result.length with
        | .ok t => t.engWrite a 0 (.glob c.dst) ((List.range c.result.length).map (fun i => (s.free 8 i, false)))
        | .error _ => s
      (t.objPut a 0 (.glob c.bobj) (.setErr false)).dropColl id)

end Sys2Proof.Machine
end

