-- ==== Sys2Proof/Machine/Kite.lean ====
section
/-! DEFINITION. Surrogates of a fitting engine: the Kite network's arithmetic (R132 to R135), the settling of samples (R136,
R297), images, and saving and reloading them (R138, R330). -/

namespace Sys2Proof.Machine

/-! ### Configuration (R132) -/

def Kite.cfg (k : Kite) (p n : Nat) : Nat := fld k.config.toNat p n
def Kite.runthr (k : Kite) : Nat := k.cfg 96 32
def Kite.maxerr (k : Kite) : Nat := k.cfg 80 16
def Kite.obsb (k : Kite) : Nat := max 1 (k.cfg 72 8)
def Kite.samplen (k : Kite) : Nat := max 1 (k.cfg 64 8)
def Kite.batchSize (k : Kite) : Nat := if k.cfg 59 1 = 1 then 16 else 8
def Kite.nout (k : Kite) : Nat := k.cfg 56 2 + 1
def Kite.nin (k : Kite) : Nat := k.cfg 53 3 + 1
def Kite.oscale (k : Kite) : Int := sx 8 (k.cfg 40 8)
def Kite.iscale (k : Kite) : Int := sx 8 (k.cfg 32 8)
/-- S of R135. -/
def Kite.shift (k : Kite) : Nat := k.cfg 60 4 + (if k.cfg 59 1 = 1 then 4 else 3)

/-! ### The network (R133) -/

def satN (n : Nat) (x : Int) : Int := max (-(2 ^ (n - 1) : Nat)) (min ((2 ^ (n - 1) : Nat) - 1) x)

/-- Conversion of an FP32 code to Q3.12 under a scale exponent. -/
def quant (scale : Int) (x : Word32) : Int := match fmt32.decode x.toNat with
  | .fin s m e => (FVal.fin s m (e + 12 - scale)).toIntSat .rne 0 (-32768) 32767
  | v => v.toIntSat .rne 0 (-32768) 32767

def Kite.wt (k : Kite) (i : Nat) : Int := (SMap.get 0 k.weights i).toInt
def Kite.gr (k : Kite) (i : Nat) : Int := (SMap.get 0 k.grads i).toInt

/-- Places in the order of the image of R138: weights of a layer from `w`, rows of `c`; biases from `b`. -/
structure LayerAt where
  w : Nat
  b : Nat
  rows : Nat
  c : Nat
def layer1 : LayerAt := ⟨0, 448, 16, 8⟩
def layer2 : LayerAt := ⟨128, 464, 16, 16⟩
def layer3 : LayerAt := ⟨384, 480, 4, 16⟩

/-- z of one layer with inputs u. -/
def Kite.layer (k : Kite) (l : LayerAt) (u : List Int) : List Int :=
  (List.range l.rows).map (fun j =>
    satN 16 ((k.wt (l.b + j) * 4096 + ((u.zipIdx).map (fun (x, i) => k.wt (l.w + l.c * j + i) * x)).sum + 2048) / 4096))
def clampH (z : Int) : Int := max (-4096) (min 4096 z)

/-- Values of a forward pass: z1, z2, yq. -/
def Kite.forward (k : Kite) (xq : List Int) : List Int × List Int × List Int :=
  let z1 := k.layer layer1 xq
  let z2 := k.layer layer2 (z1.map clampH)
  (z1, z2, (k.layer layer3 (z2.map clampH)).take k.nout)

/-- Outputs as FP32 codes. R133 calls y = yq × 2^(OSCALE - 12) exact and gives no value for a y beyond the range of FP32: the infinity
of its sign is the model's choice (log 66). -/
def Kite.serve (k : Kite) (x : List Word32) : List Word32 :=
  (k.forward (x.map (quant k.iscale))).2.2.map (fun y =>
    BitVec.ofNat 32 (fmt32.roundWide .rne 0 (.fin (decide (y < 0)) y.natAbs (k.oscale - 12))))

/-! ### Training (R134, R135) -/

def initWeight (i : Nat) : BitVec 16 :=
  let f (l j c : Nat) : BitVec 16 := BitVec.ofInt 16 ((((7 * j + 3 * c + l) % 9 : Nat) - 4 : Int) * 64)
  if i < 128 then f 1 (i / 8) (i % 8)
  else if i < 384 then f 2 ((i - 128) / 16) (i % 16)
  else if i < 448 then f 3 ((i - 384) / 16) (i % 16)
  else 0
def toSMap {w : Nat} (l : List (BitVec w)) : SMap (BitVec w) := (l.zipIdx).foldl (fun m (x, i) => SMap.set 0 m i x) []

def openSlope (z : Int) : Int := if -4096 < z ∧ z < 4096 then 1 else 0

/-- Errors of a sample: e3, e2, e1 (R135). -/
def Kite.errors (k : Kite) (z1 z2 yq tq : List Int) : List Int × List Int × List Int :=
  let e3 := List.zipWith (fun y t => satN 16 (y - t)) yq tq
  let back (l : LayerAt) (e z : List Int) : List Int := (z.zipIdx).map (fun (zj, j) =>
    satN 16 (((((e.zipIdx).map (fun (x, i) => k.wt (l.w + l.c * i + j) * x)).sum) + 2048) / 4096) * openSlope zj)
  let e2 := back layer3 e3 z2
  (e3, e2, back layer2 e2 z1)

/-- Add one sample to the gradient sums. -/
def Kite.addSample (k : Kite) (s : List Word32 × List Word32) : Kite :=
  let xq := s.1.map (quant k.iscale)
  let (z1, z2, yq) := k.forward xq
  let (e3, e2, e1) := k.errors z1 z2 yq (s.2.map (quant k.oscale))
  let bump (i : Nat) (d : Int) (m : SMap (BitVec 32)) : SMap (BitVec 32) :=
    SMap.set 0 m i (BitVec.ofInt 32 (satN 32 ((SMap.get 0 m i).toInt + d)))
  let layer (l : LayerAt) (e u : List Int) (m : SMap (BitVec 32)) : SMap (BitVec 32) :=
    (e.zipIdx).foldl (fun m (ej, j) =>
      (u.zipIdx).foldl (fun m (ui, i) => bump (l.w + l.c * j + i) ((ej * ui + 2048) / 4096) m) (bump (l.b + j) ej m)) m
  { k with grads := layer layer3 e3 (z2.map clampH) (layer layer2 e2 (z1.map clampH) (layer layer1 e1 xq k.grads)) }

/-- The largest |e3| of a list of samples (R297). -/
def Kite.maxError (k : Kite) (l : List (List Word32 × List Word32)) : Int :=
  (l.map (fun s =>
    let (_, _, yq) := k.forward (s.1.map (quant k.iscale))
    (List.zipWith (fun y t => ((satN 16 (y - t)).natAbs : Int)) yq (s.2.map (quant k.oscale))).foldl max 0)).foldl max 0

/-- Apply the gradient sums and clear them (R135). -/
def Kite.apply (k : Kite) : Kite :=
  let r : Int := (2 ^ (k.shift - 1) : Nat)
  let step (i : Nat) : BitVec 16 := BitVec.ofInt 16 (satN 16 (k.wt i - (k.gr i + r) / (2 ^ k.shift : Nat)))
  { k with weights := toSMap ((List.range 484).map step), grads := [] }

/-- EST after an error (R136). -/
def Kite.estimate (k : Kite) (em : Int) : Kite := { k with est := BitVec.ofInt 32 (k.est.toInt + (em - k.est.toInt) / 8) }

/-- A full batch in OBSERVE: estimate, next state, gradient sums; the training step begins (R136, R297). -/
def Kite.batchFull (k : Kite) : Kite :=
  let em := k.maxError k.batch
  let k := (k.batch.foldl Kite.addSample k).estimate em
  let n := min 255 (k.batches + 1)
  let st := if k.obsb ≤ n ∧ k.est.toInt ≤ k.runthr ∧ em ≤ k.maxerr then KState.serve
    else if min (4 * k.obsb) 255 ≤ n then .fallback else .observe
  { k with batches := n, state := st, batch := [], training := true }

/-- The samples of one APXE in OBSERVE, ascending by thread (R136): a batch that fills while an earlier one of the same
APXE trains follows that training. -/
def Kite.observe (k : Kite) : List (List Word32 × List Word32) → Kite
  | [] => k
  | x :: l =>
    if k.state = .observe then
      let k := { k with batch := k.batch ++ [x] }
      if k.batch.length < k.batchSize then k.observe l
      else ((if k.training then { k.apply with training := false } else k).batchFull).observe l
    else { k with batch := [] }

/-- The comparison of a sampled execution (R136). -/
def Kite.compare (k : Kite) (l : List (List Word32 × List Word32)) : Kite :=
  if l.isEmpty then k
  else
    let em := k.maxError l
    if k.maxerr < em then { k with state := .fallback }
    else
      let k := k.estimate em
      if (k.runthr : Int) < k.est.toInt then { k with state := .fallback } else k

/-! ### Images (R137, R138) -/

def kstateCode : KState → Nat
  | .invalid => 0
  | .observe => 1
  | .serve => 2
  | .fallback => 3
def kstateOf (n : Nat) : KState := match n with
  | 0 => .invalid
  | 1 => .observe
  | 2 => .serve
  | _ => .fallback
/-- The status word (R137). -/
def Kite.status (k : Kite) : Nat :=
  kstateCode k.state * 2 ^ 62 + min k.drops 63 * 2 ^ 56 + k.batches * 2 ^ 48 + k.scnt * 2 ^ 40 + k.est.toNat
/-- The 1024 bytes of an image. -/
def Kite.image (k : Kite) : List Byte :=
  leBytes 16 k.config.toNat ++ leBytes 8 k.status ++ leBytes 8 0 ++
  ((List.range 484).map (fun i => leBytes 2 (SMap.get 0 k.weights i).toNat)).flatten ++ List.replicate 24 0
/-- The surrogate that an image holds. -/
def Kite.ofImage (k : Kite) (l : List Byte) : Kite :=
  let st := leNat ((l.drop 16).take 8)
  { k with
    config := BitVec.ofNat 128 (leNat (l.take 16)), state := kstateOf (fld st 62 2), drops := fld st 56 6, batches := fld st 48 8
    scnt := fld st 40 8, est := BitVec.ofNat 32 (fld st 0 32), batch := [], grads := [], isSaved := false, ver := none
    weights := toSMap ((List.range 484).map (fun i => BitVec.ofNat 16 (leNat ((l.drop (32 + 2 * i)).take 2)))) }

def Kite.same (k : Kite) (die cluster ctx id : Nat) : Bool := k.die == die && k.cluster == cluster && k.ctx == ctx && k.id == id
/-- Surrogates in the engine's slots: neither INVALID nor saved. -/
def Kite.resident (k : Kite) : Bool := !k.isSaved && k.state != .invalid

def State.modKite (s : State) (k : Kite) (f : Kite → Kite) : State :=
  { s with kites := s.kites.map (fun q => if q.same k.die k.cluster k.ctx k.id then f q else q) }
def State.dropKite (s : State) (k : Kite) : State := { s with kites := s.kites.filter (fun q => !q.same k.die k.cluster k.ctx k.id) }

/-- Key of a sealed surrogate in the table of R330. -/
def Kite.sealKey (k : Kite) : List Nat := [1, k.ctx, k.die, k.cluster, k.id]
/-- The nonce of R330. -/
def sealNonce (ctx : Nat) (ver : Word64) : BitVec 128 := BitVec.ofNat 128 (ctx * 2 ^ 64 + ver.toNat)

/-- Address of a surrogate's image (R138). -/
def State.kiteVa (s : State) (k : Kite) : Nat :=
  fld (s.rcbD (s.ctxRcb k.ctx) 12) 0 57 + (k.die * 64 + k.cluster) * 16384 + k.id * 1024

/-- The bytes of an image as memory holds them: sealed for a protected context (R330). -/
def State.kiteBytes (s : State) (k : Kite) (ver : Option Word64) : List Byte := match ver, s.ctx? k.ctx with
  | some v, some c => k.image.take 32 ++ (Config.sealBody c.sealKey (sealNonce k.ctx v) (k.image.take 32) (k.image.drop 32)).take 992
  | _, _ => k.image
/-- The tag of a sealed image; its first 32 bytes are the header. -/
def State.kiteTag (s : State) (k : Kite) (ver : Option Word64) : BitVec 128 := match ver, s.ctx? k.ctx with
  | some v, some c => Config.sealTag c.sealKey (sealNonce k.ctx v) (k.image.take 32) (k.image.drop 32)
  | _, _ => 0

/-- May a protected image be sealed (R330)? -/
def State.canSeal (s : State) (ctx : Nat) : Bool :=
  decide (s.seals.length < 4096) && (match s.ctx? ctx with
    | some c => c.sealver != BitVec.allOnes 64
    | none => false)
/-- Raise a context's VER and record it for a key. -/
def State.nextSeal (s : State) (ctx : Nat) (key : List Nat) : State × Word64 :=
  let v := ((s.ctx? ctx).map (·.sealver)).getD 0 + 1
  ({ s.modCtx ctx (fun c => { c with sealver := v }) with seals := (s.seals.filter (fun e => e.1 ≠ key)) ++ [(key, v)] }, v)

/-- The fitting engine as an agent: it reads and writes images at their home slices. -/
def State.kiteFate (s : State) (k : Kite) (isW : Bool) : Fate := s.fate (s.ctxWho k.ctx) (s.kiteVa k) isW

/-- Save a surrogate lazily: one that cannot be written or sealed is discarded (R138, R330). -/
def State.saveKite (s : State) (k : Kite) : State :=
  if s.ctxProt k.ctx ∧ !s.canSeal k.ctx then s.dropKite k
  else
    let (s, ver) : State × Option Word64 := if s.ctxProt k.ctx then
        let (t, v) := s.nextSeal k.ctx k.sealKey
        (t, some v)
      else (s, none)
    match s.kiteFate k true with
    | .ok x => ((s.performWrite (s.ctxWho k.ctx) x (s.kiteBytes k ver)).modKite k (fun q =>
        { q with isSaved := true, ver := ver, tag := s.kiteTag k ver, batch := [], grads := [] })).countCtx k.ctx 3
    | _ => { s with seals := s.seals.filter (fun e => e.1 ≠ k.sealKey) }.dropKite k

/-- Is the surrogate serving a group? -/
def State.serving (s : State) (k : Kite) : Bool :=
  s.groups.any (fun g =>
    let w := s.wg g.wid
    w.place.die == k.die && w.place.cluster == k.cluster && w.ctx == k.ctx && g.frags.any (fun f => match f.wait with
      | .serve id _ _ => id == k.id
      | _ => false))

/-- The surrogates in a cluster's slots. -/
def State.residentKites (s : State) (die cluster : Nat) : List Kite :=
  s.kites.filter (fun k => k.die == die && k.cluster == cluster && k.resident)
/-- The surrogate that gives up its slot to a context. Which one is a free choice (log 2). -/
def State.kiteVictim (s : State) (die cluster ctx : Nat) : Option Kite :=
  let may := (s.residentKites die cluster).filter (fun k => k.ctx ≠ ctx && !k.training && !s.serving k)
  may[(s.free 16 0).toNat % may.length]?
/-- Make room for one surrogate of a context in a cluster's engine; `none` where no slot can be freed (R138). -/
def State.kiteRoom (s : State) (die cluster ctx : Nat) : Option State :=
  if (s.residentKites die cluster).length < 64 then some s else (s.kiteVictim die cluster ctx).map s.saveKite

/-- The engine's access to an image waits for answers about its lines (R360, R361). -/
def State.imageHold (s : State) (k : Kite) (isW : Bool) : Option State := match s.kiteFate k isW with
  | .ok x => s.lineHold x 1024 isW
  | _ => none
/-- The same for the image of the surrogate that would give up its slot. -/
def State.victimHold (s : State) (die cluster ctx : Nat) : Option State :=
  if (s.residentKites die cluster).length < 64 then none else (s.kiteVictim die cluster ctx).bind (fun k => s.imageHold k true)

/-- Reload a saved surrogate into a slot; an image that cannot be read, is poisoned, or does not match its seal leaves
it INVALID (R138, R331). Where no slot can be freed, since every other context's surrogate trains or serves, it stays saved: APXB
and APXE run as without it and record nothing, and APXSTAT returns the status that was saved. That is the model's choice, for R138
does not speak of this case (log 66). -/
def State.reloadKite (s : State) (k : Kite) : State :=
  match s.kiteRoom k.die k.cluster k.ctx with
  | none => s
  | some s =>
    match s.kiteFate k false with
    | .ok x =>
      let s := s.noteRead (s.ctxWho k.ctx) x 1024
      let l := s.rdN x.pa 1024
      let good := !s.poisoned x.pa 1024 && (match k.ver with
        | none => true
        | some v => s.seals.contains (k.sealKey, v) && l == s.kiteBytes k (some v) && k.tag == s.kiteTag k (some v))
      let s := { s with seals := s.seals.filter (fun e => e.1 ≠ k.sealKey) }
      if good then s.modKite k (fun q => if k.ver.isSome then { q with isSaved := false, ver := none, tag := 0 } else q.ofImage l)
      else s.dropKite k
    | _ => s.dropKite k

end Sys2Proof.Machine
end

