-- ==== Sys2Proof/Machine/Fitting.lean ====
section
/-! DEFINITION. Major 0x31: approximable regions (R131, R136, R267 to R270, R297). -/

namespace Sys2Proof.Machine

/-- Pending joins and serial levels of a group, parked ones included (R22, R23, R267). -/
def Group.pendingIds (g : Group) : List Nat :=
  (g.frags.map (fun f => f.joins.map (·.id) ++ (f.serial.map (fun l => l.id :: l.oJoins.map (·.id))).flatten)).flatten

/-- The region record of the issuing workgroup's object (R268). -/
def State.region? (s : State) (id : Nat) : Option Region :=
  match s.images.find? (fun i => i.key == s.cw.image) with
  | some i => i.regions.find? (fun r => r.id == id)
  | none => none

/-- The issuing context's surrogate of a region in the issuing cluster, saved or not. -/
def State.kite? (s : State) (id : Nat) : Option Kite :=
  s.kites.find? (fun k => k.same s.cw.place.die s.cw.place.cluster s.cw.ctx id && k.state != .invalid)

/-- Allocate a surrogate (R132, R134, R136). `hdr` is the APXB's clause header. -/
def State.allocKite (s : State) (r : Region) (hdr : Nat) : State :=
  let p := s.cw.place
  let mine := s.kites.filter (fun k => k.die == p.die && k.cluster == p.cluster && k.ctx == s.cw.ctx && k.state != .invalid)
  if 16 ≤ mine.length then s
  else match s.kiteRoom p.die p.cluster s.cw.ctx with
    | none => s
    | some s =>
      let at_ := match s.translate s.cw.fn s.cw.ctx (hdr % 2 ^ 57) .fetch s.cw.place with
        | .ok x => (x.gpa / 65536, x.pa / 65536)
        | .error _ => (0, 0)
      let k : Kite := { die := p.die, cluster := p.cluster, ctx := s.cw.ctx, id := r.id, state := .observe, config := r.config
                        weights := if r.config.getLsbD 15 then toSMap r.weights else toSMap ((List.range 484).map initWeight)
                        code := hdr / 65536, codeGpa := at_.1, codePa := at_.2 }
      let s := s.dropKite k
      { s with kites := s.kites ++ [k] }

/-- Bringing the surrogate in waits for answers about an image's lines: of one that is saved to make room, of its own (R360,
R361). -/
def State.kiteHold (s : State) (id : Nat) (alloc : Bool) : Option State :=
  let room := s.victimHold s.cw.place.die s.cw.place.cluster s.cw.ctx
  if (s.region? id).isNone then none
  else match s.kite? id with
    | some k => if k.isSaved then room.or (s.imageHold k false) else none
    | none => if alloc then room else none

/-- Bring the surrogate in: reload a saved one, allocate where `alloc` allows it (R136, R138, R268). -/
def State.bringIn (s : State) (id : Nat) (alloc : Option Nat) : State :=
  match s.region? id with
  | none => s
  | some r =>
    let s := match s.kite? id with
      | some k => if k.isSaved then s.reloadKite k else s
      | none => s
    match s.kite? id, alloc with
    | none, some hdr => s.allocKite r hdr
    | _, _ => s

def State.bringKite (s : State) (id : Nat) (alloc : Option Nat) : Exec := match s.kiteHold id alloc.isSome with
  | some t => holdOn t .snoop
  | none => .ok (s.bringIn id alloc)

/-- Fields of APXB and APXE (R267). -/
def apxId (f : FmtP) : Nat := f.aux.toNat % 16
def apxOuts (f : FmtP) : Nat := fld f.aux.toNat 4 2 + 1
def apxIns (f : FmtP) : Nat := f.sc.enc % 8 + 1

/-- The values of `n` consecutive vector registers of a thread. -/
def regsOf (g : Group) (x : Sel) (n t : Nat) : List Word32 := (List.range n).map (fun i => g.vreg (x.enc + i) t)

/-- APXB (R268): a served execution leaves for the matching APXE clause once the Kite has written; any other runs truly. -/
def apxbBody (f : FmtP) (s : State) : Exec :=
  (s.rangeCheck f.sa (apxIns f)).bind fun s =>
  (s.rangeCheck f.sb (apxOuts f)).bind fun s =>
  let id := apxId f
  let m := s.gmask f.g
  let hdr := s.curHdr
  (s.bringKite id (some hdr.toNat)).bind fun s =>
  let k? := if (s.region? id).isSome then (s.kite? id).filter (fun k => !k.isSaved) else none
  let start (sampled record : Bool) (s : State) : State :=
    let g := s.cg
    let ins := if record then (threads m).foldl (fun (l : SMap Word32) t =>
        ((regsOf g f.sa (apxIns f) t).zipIdx).foldl (fun l (x, i) => SMap.set 0 l (8 * t + i) x) l) [] else []
    let a : ApxOpen := { region := id, sampled := sampled, record := record, mask := m, inputs := ins, joins := g.pendingIds }
    s.modCg (fun g => { g with apx := some a })
  match k? with
  | none => .ok (start false false s)
  | some k =>
    if k.training then holdOn s .kite
    else if k.nin ≠ apxIns f ∨ k.nout ≠ apxOuts f then .ok (start false false s)
    else match k.state with
      | .serve =>
        if k.scnt ≠ k.samplen - 1 then
          let g := s.cg
          let words := ((threads m).map (fun t => ((k.serve (regsOf g f.sa k.nin t)).zipIdx).map (fun (y, j) =>
            (32 * (f.sb.enc + j) + t, y)))).flatten
          let s := (s.modKite k (fun k => { k with scnt := k.scnt + 1 })).countCtx k.ctx 2
          holdOn s (.serve id words (va57 (hdr.toNat + 4 * f.skip.toNat)))
        else .ok (start true true (s.modKite k (fun k => { k with scnt := 0 })))
      | .fallback => .ok (start false false s)
      | _ => .ok (start false true s)

/-- APXE (R269). -/
def apxeBody (f : FmtP) (s : State) : Exec :=
  match s.cg.apx with
  | none => .ok s
  | some a =>
    if a.region ≠ apxId f ∨ s.cg.pendingIds.any (fun i => !a.joins.contains i) then trapAt s cApx s.instrAddr
    else
      (s.rangeCheck f.sb (apxOuts f)).bind fun s =>
      let m := s.gmask f.g &&& a.mask
      (if a.record then s.bringKite a.region none else .ok s).bind fun s =>
      let s := s.modCg (fun g => { g with apx := none })
      if !a.record then .ok s
      else match (s.kite? a.region).filter (fun k => !k.isSaved) with
        | none => .ok s
        | some k =>
          let g := s.cg
          let l := (threads m).map (fun t => ((List.range k.nin).map (fun i => SMap.get 0 a.inputs (8 * t + i)), regsOf g f.sb k.nout t))
          if k.training then .ok (s.modKite k (fun k => { k with drops := min 63 (k.drops + l.length) }))
          else if a.sampled then .ok (if k.state = .serve then s.modKite k (fun k => k.compare l) else s)
          else .ok (if k.state = .observe then s.modKite k (fun k => k.observe l) else s)

/-- The region operand of APXINV and APXSTAT (R270). -/
def State.regionOperand (s : State) (i : Instr) (f : FmtV) : Except Stop (State × Nat) :=
  (s.prepAll i [0] [⟨1, f.sa, .n64⟩]).bind fun (s, os) =>
  let a := (os.getD 0 (.const 0)).value
  if 16 ≤ a.toNat then trapAt s cIllegal a else .ok (s, a.toNat)

def apxinvBody (f : FmtV) (s : State) : Exec :=
  (s.regionOperand (.apxinv f) f).map fun (s, id) =>
  let gone := s.kites.filter (fun k => k.ctx == s.cw.ctx && k.id == id)
  { s with kites := s.kites.filter (fun k => !(k.ctx == s.cw.ctx && k.id == id))
           seals := s.seals.filter (fun e => !(gone.any (fun k => k.sealKey == e.1))) }

def apxstatBody (f : FmtV) (s : State) : Exec :=
  (s.regionOperand (.apxstat f) f).bind fun (s, id) =>
  (s.bringKite id none).map fun s =>
  let x := if (s.region? id).isSome then ((s.kite? id).map Kite.status).getD 0 else 0
  match f.vd with
  | .s r => s.setS r.val (n64 x)
  | _ => s

/-- `APXB`: open a region (R268). -/
def execApxb (f : FmtP) (s : State) : Host.Outcome State Fault Refusal := issue (.apxb f) s (apxbBody f)

/-- `APXE`: close a true execution (R269). -/
def execApxe (f : FmtP) (s : State) : Host.Outcome State Fault Refusal := issue (.apxe f) s (apxeBody f)

/-- `APXINV`: a region's surrogates become INVALID (R270). -/
def execApxinv (f : FmtV) (s : State) : Host.Outcome State Fault Refusal := issue (.apxinv f) s (apxinvBody f)

/-- `APXSTAT`: a surrogate's status word (R270). -/
def execApxstat (f : FmtV) (s : State) : Host.Outcome State Fault Refusal := issue (.apxstat f) s (apxstatBody f)

/-- `KITE_SERVE_DONE`: the Kite's outputs are written and the fragment goes on at the APXE clause (R268). -/
def execKiteServeDone (gid : Nat) (s : State) : Host.Outcome State Fault Refusal :=
  .next (s.modGroup gid (fun g => match g.frags.find? (fun f => match f.wait with
    | .serve _ _ _ => true
    | _ => false) with
    | some f => match f.wait with
      | .serve _ words target =>
        { g with vregs := words.foldl (fun (m : SMap Word32) (e : Nat × Word32) => SMap.set 0 m e.1 e.2) g.vregs }.modFrag f.fid (fun f => f.goto target)
      | _ => g
    | none => g))

/-- `KITE_TRAINING_END`: a training step ends with its weights written (R135, R297). -/
def execKiteTrainingEnd (die cluster ctx id : Nat) (s : State) : Host.Outcome State Fault Refusal :=
  .next { s with kites := s.kites.map (fun k => if k.same die cluster ctx id && k.training then { k.apply with training := false } else k) }

end Sys2Proof.Machine
end

