-- ==== Sys2Proof/Machine/Heap.lean ====
section
/-! DEFINITION. Major 0x30: the load barrier (R122 to R126), assisted copies (R128), pinning (R130) and the heap instructions
(R263 to R266). -/

namespace Sys2Proof.Machine

/-! ### References (R122) -/

def refAddr (r : Word64) : Nat := fld r.toNat 0 57
/-- Reserved bits are zero and the address is a multiple of 8. -/
def refOk (r : Word64) : Bool := fld r.toNat 57 4 == 0 && refAddr r % 8 == 0
/-- The reference register that a field names. -/
def hIdx (x : Sel) : Nat := x.enc % 16

/-- The reference that the barrier makes of `r` at a new address, under the group's GOOD (R126). -/
def goodRef (g : Group) (r : Word64) (new : Nat) : Word64 :=
  n64 (g.good.toNat * 2 ^ 62 + b2n (bitN r.toNat 61) * 2 ^ 61 + new)

/-- CLAIMER of a group (R125). -/
def claimerOf (w : Workgroup) (g : Group) : Nat :=
  0x8000 + w.place.die * 2 ^ 13 + w.place.cluster % 64 * 2 ^ 7 + w.place.core % 4 * 2 ^ 5 + g.part % 4 * 2 ^ 3 + g.gidx / 4

/-! ### The barrier (R126) -/

/-- What the barrier makes of one reference. -/
inductive Bar where
  | good (r : Word64)
  /-- HEAP_REF, HEAP_FWD -/
  | badRef
  | badFwd
  | stop (va : Nat) (f : Fate)
  /-- answers about the line of a page word or of the table are awaited (R360, R361) -/
  | busy (x : Xlat) (n : Nat) (isW : Bool)
  /-- the entry is FREE or CLAIMED -/
  | unclaimed (table slot : Nat)
  | claimed (va : Nat)
  deriving DecidableEq, Repr

/-- A page word that is read, or written too: what stops the access, or none (R124, R370, R375). -/
def State.wordStop (s : State) (addr : Nat) (x : Xlat) (isW : Bool) : Option Bar := match s.fateAt s.cw.who x.word addr isW with
  | .ok w => if s.lineBusy w 8 isW then some (.busy w 8 isW) else if s.poisoned w.pa 8 then some (.stop addr .poison) else none
  | f => some (.stop addr f)

def FwdStop.bar : FwdStop → Bar
  | .fate va f => .stop va f
  | .busy x => .busy x 16 false

/-- Address of the forwarding table that a page word names (R124). -/
def wordTable (pw : Nat) : Nat := fld pw 15 49 * 2 ^ 8

/-- The slow path from the page word on: `addr` lies on a managed page (R126). -/
def State.barSlow (s : State) (r : Word64) (addr : Nat) (x : Xlat) : Bar := match s.wordStop addr x false with
  | some b => b
  | none =>
    let pw := s.rd x.pw 8
    if !bitN pw 12 then .good (goodRef s.cg r addr)
    else match s.lookupFwd s.cw.who (wordTable pw) (x.pageOf addr) addr with
      | .bad => .badFwd
      | .absent => .good (goodRef s.cg r addr)
      | .stop w => w.bar
      | .found slot e =>
        if e.state = 1 then .unclaimed (wordTable pw) slot
        else if e.state = 2 then .claimed (fwdVa (wordTable pw) slot)
        else .good (goodRef s.cg r e.newAddr)

/-- The translation that tells whether an address lies on a managed page. -/
def State.onManaged (s : State) (addr : Nat) : Except XFault Xlat := s.translate s.cw.who.fn s.cw.who.ctx addr .read s.cw.place

/-- The barrier on one reference (R126). -/
def State.barOne (s : State) (r : Word64) : Bar :=
  if r = 0 then .good 0
  else if !refOk r then .badRef
  else if fld r.toNat 62 2 = s.cg.good.toNat ∧ s.cg.good ≠ 0 then .good r
  else match s.onManaged (refAddr r) with
    | .error f => .stop (refAddr r) (.fault f)
    | .ok x => if x.mg then s.barSlow r (refAddr r) x else .badRef

/-- A reference that a thread uses; `field` marks one through which a field is reached. -/
structure Ref where
  t : Nat
  r : Word64
  field : Bool
  deriving DecidableEq, Repr

/-- Does the barrier take its slow path for the reference (R126)? -/
def State.slowRef (s : State) (r : Word64) : Bool := r != 0 && !(fld r.toNat 62 2 == s.cg.good.toNat && s.cg.good != 0)

/-- What the barrier has read of tables for a reference (R126): the page word, and the entries probed. -/
def State.noteBar (s : State) (r : Word64) : State :=
  if !s.slowRef r then s
  else match s.onManaged (refAddr r) with
    | .ok x =>
      if !x.mg then s
      else
        let t := s.noteRead s.cw.who.atHome x.word 8
        let pw := s.rd x.pw 8
        if bitN pw 12 then t.noteLookup s.cw.who (wordTable pw) (x.pageOf (refAddr r)) (refAddr r) else t
    | .error _ => s

/-- Begin an assisted copy: the claim, then the hold (R128). -/
def State.assist (s : State) (table slot : Nat) : Stop :=
  match s.claimBusy s.cw.who (fwdVa table slot) with
  | some t => .hold t .snoop
  | none =>
  match s.claimFwd s.cw.who (fwdVa table slot) (claimerOf s.cw s.cg) with
  | .ok t => .hold t (.copying table slot none)
  | .error e => s.fateStop (fwdVa table slot) e

/-- What stops an instruction among its barriers, kind by kind over the threads (R264): HEAP_REF, HEAP_FWD, accesses of
the slow path, those that are dropped first (R370), then answers that are awaited, FREE and CLAIMED entries. `l` is in ascending
thread order. -/
def State.barStop (s : State) (l : List (Ref × Bar)) : Exec :=
  match l.find? (fun e => e.2 == .badRef || (e.1.field && e.1.r == 0)) with
  | some e => trapThr s cHeapRef e.1.r e.1.t
  | none =>
  match l.find? (fun e => e.2 == .badFwd) with
  | some e => trapThr s cHeapFwd e.1.r e.1.t
  | none =>
  match firstSome (fun (e : Ref × Bar) => match e.2 with
      | .stop va (.dropped c) => some (s.fateStop va (.dropped c))
      | _ => none) l with
  | some e => .error e
  | none =>
  match firstSome (fun (e : Ref × Bar) => match e.2 with
      | .stop va f => some (s.fateStop va f)
      | .busy x n isW => some (.hold (s.askFor x n isW) .snoop)
      | _ => none) l with
  | some e => .error e
  | none =>
  match firstSome (fun (e : Ref × Bar) => match e.2 with
      | .unclaimed t k => some (t, k)
      | _ => none) l with
  | some (t, k) => .error (s.assist t k)
  | none =>
  match firstSome (fun (e : Ref × Bar) => match e.2 with
      | .claimed va => some va
      | _ => none) l with
  | some va => holdOn s (.claimed va)
  | none => .ok s

/-- The barrier over the references of an instruction: the good references, in the order of the list. -/
def State.barAll (s : State) (l : List Ref) : Except Stop (State × List (Nat × Word64)) :=
  let res := l.map (fun e => (e, s.barOne e.r))
  (s.barStop res).map fun s => (l.foldl (fun (s : State) e => s.noteBar e.r) s, res.map (fun e => (e.1.t, match e.2 with
    | .good r => r
    | _ => 0)))

/-- Heal the slots of references that took the slow path, by CAS, relaxed at .dev; a failure is ignored (R126). Everything
that stops one of them comes before the first. Entries: thread, slot, the reference loaded, its good form. -/
def State.healSlots (s : State) (l : List (Nat × Word64 × Word64 × Word64)) : Exec :=
  let l := l.filter (fun e => s.slowRef e.2.2.1)
  let eas := l.map (fun e => (⟨e.1, e.2.1⟩ : Ea))
  (s.writeClaims .global 8 true false eas).bind fun (s, fs) =>
  .ok (l.foldl (fun (t : State) e => match fateOf fs e.1 with
    | some (.ok x) => if t.rd x.pa 8 = e.2.2.1.toNat then t.performWrite s.cw.who x (leBytes 8 e.2.2.2.toNat) else t
    | some .peerConf => t.raise s.cur.gid cConf e.2.1
    | _ => t) s)

/-- Field addresses behind the barrier: HEAP_REF where one leaves the managed page of its reference (R264). -/
def State.fieldRange (s : State) (l : List (Nat × Word64)) (off n : Nat) : Exec :=
  let chk := l.map (fun e => (e, s.onManaged (refAddr e.2)))
  match firstSome (fun (e : (Nat × Word64) × Except XFault Xlat) => match e.2 with
      | .error f => some (e.1, f)
      | _ => none) chk with
  | some (e, f) => .error (s.faultStop (refAddr e.2) f (some e.1))
  | none =>
  match firstSome (fun (e : (Nat × Word64) × Except XFault Xlat) => match e.2 with
      | .ok x => if x.mg && decide (refAddr e.1.2 + off + n ≤ x.pageOf (refAddr e.1.2) + x.pageSize) then none else some e.1
      | _ => none) chk with
  | some e => trapThr s cHeapRef e.2 e.1
  | none => .ok s

/-- Register values of the active threads as references. -/
def State.refsOf (s : State) (h : Nat) (field : Bool) (ts : List Nat) : List Ref := ts.map (fun t => ⟨t, s.cg.href h t, field⟩)
def Group.putRefs (g : Group) (h : Nat) (l : List (Nat × Word64)) : Group := l.foldl (fun g e => g.setH h e.1 e.2) g
def fieldEas (l : List (Nat × Word64)) (off : Nat) : List Ea := l.map (fun e => ⟨e.1, n64 (refAddr e.2 + off)⟩)

/-- Field offset of R263. -/
def fieldOffset (f : FmtM) : Nat := f.off.toNat % 2 ^ 20
/-- Predicate field of R263. -/
def offPred (f : FmtM) : Nat := f.off.toNat % 8

/-! ### Loads -/

/-- HLD: slots loaded, their references healed (R264). `back` rewrites the base register of a field form. -/
def hldFinish (f : FmtM) (pinned : Bool) (eas : List Ea) (back : Group → Group) (s : State) : Exec :=
  (s.counterRoom 0).bind fun s =>
  let ext := s.loadExt .global eas
  (s.loadThreads .global 8 8 pinned eas).bind fun (s, vs) =>
  let refs := vs.map (fun v => (⟨v.1, n64 (leNat v.2), false⟩ : Ref))
  (s.barAll refs).bind fun (s, good) =>
  (s.healSlots ((eas.zip (refs.zip good)).map (fun e => (e.1.t, e.1.ea, e.2.1.r, e.2.2.2)))).bind fun s =>
  .ok (s.modCg (fun g => (((back g).putRefs (hIdx f.vd) good)).fly { path := 0, kind := .load, ext := ext }))

def hldSlotBody (f : FmtM) (s : State) : Exec :=
  let ts := threads (s.gmask f.g)
  let src := baseSrc f true
  (s.prepAll (.hldSlot f) ts [src]).bind fun (s, os) =>
  hldFinish f false (eaList s.cg (os.getD 0 (.const 0)) src (offsetOf f) ts) id s

def hldFieldBody (f : FmtM) (s : State) : Exec :=
  let ts := threads (s.gmask f.g)
  (s.barAll (s.refsOf (hIdx f.addr) true ts)).bind fun (s, base) =>
  (s.fieldRange base (fieldOffset f) 8).bind fun s =>
  hldFinish f true (fieldEas base (fieldOffset f)) (fun g => g.putRefs (hIdx f.addr) base) s

/-- HFLD (R264). -/
def hfldBody (f : FmtM) (s : State) : Exec :=
  let ts := threads (s.gmask f.g)
  let n := accessBytes f
  (s.rangeCheck f.vd (accessRegs f)).bind fun s =>
  (s.barAll (s.refsOf (hIdx f.addr) true ts)).bind fun (s, base) =>
  (s.fieldRange base (fieldOffset f) n).bind fun s =>
  (s.counterRoom 0).bind fun s =>
  let ext := s.loadExt .global (fieldEas base (fieldOffset f))
  (s.loadThreads .global n n true (fieldEas base (fieldOffset f))).bind fun (s, vs) =>
  .ok (((s.modCg (fun g => g.putRefs (hIdx f.addr) base)).putLoads f vs).modCg (fun g => g.fly { path := 0, kind := .load, ext := ext }))

/-! ### Stores -/

/-- Stores of the threads in the order in which the lane visits them; no heap store enters the side log (R266). -/
def heapStore (f : FmtM) (pinned : Bool) (n : Nat) (eas : List Ea) (data : Nat → List Byte) (s : State) : Exec :=
  let m := s.gmask f.g
  let l := (s.visit m).filterMap (fun t => (eas.find? (fun e => e.t == t)).map (fun e => (⟨t, e.ea, data t⟩ : St)))
  s.storeThreads .global n f.scope.enc 1 false pinned false l

def thrOf (l : List (Nat × Word64)) (t : Nat) : Word64 := ((l.find? (fun e => e.1 == t)).map Prod.snd).getD 0

def hstSlotBody (f : FmtM) (s : State) : Exec :=
  let ts := threads (s.gmask f.g)
  let src := baseSrc f true
  (s.prepAll (.hstSlot f) ts [src]).bind fun (s, os) =>
  let eas := eaList s.cg (os.getD 0 (.const 0)) src (offsetOf f) ts
  (s.barAll (s.refsOf (hIdx f.vd) false ts)).bind fun (s, val) =>
  (s.releaseWait (isRel f.ord)).bind fun s =>
  (heapStore f false 8 eas (fun t => leBytes 8 (thrOf val t).toNat) s).bind fun s =>
  .ok (s.modCg (fun g => g.putRefs (hIdx f.vd) val))

def hstFieldBody (f : FmtM) (s : State) : Exec :=
  let ts := threads (s.gmask f.g)
  let both := (ts.map (fun t => [(⟨t, s.cg.href (hIdx f.addr) t, true⟩ : Ref), ⟨t, s.cg.href (hIdx f.vd) t, false⟩])).flatten
  (s.barAll both).bind fun (s, _) =>
  (s.barAll (s.refsOf (hIdx f.addr) true ts)).bind fun (s, base) =>
  (s.barAll (s.refsOf (hIdx f.vd) false ts)).bind fun (s, val) =>
  (s.fieldRange base (fieldOffset f) 8).bind fun s =>
  (s.releaseWait (isRel f.ord)).bind fun s =>
  (heapStore f true 8 (fieldEas base (fieldOffset f)) (fun t => leBytes 8 (thrOf val t).toNat) s).bind fun s =>
  .ok (s.modCg (fun g => (g.putRefs (hIdx f.addr) base).putRefs (hIdx f.vd) val))

/-- HSTR (R264). -/
def hstrBody (f : FmtM) (s : State) : Exec :=
  let ts := threads (s.gmask f.g)
  let n := accessBytes f
  (s.rangeCheck f.vd (accessRegs f)).bind fun s =>
  (s.prepAll (.hstr f) ts [⟨0, f.vd, f.ty⟩]).bind fun (s, os) =>
  (s.barAll (s.refsOf (hIdx f.addr) true ts)).bind fun (s, base) =>
  (s.fieldRange base (fieldOffset f) n).bind fun s =>
  (s.releaseWait (isRel f.ord)).bind fun s =>
  let g := s.cg
  (heapStore f true n (fieldEas base (fieldOffset f)) (fun t => storeData f (os.getD 0 (.const 0)) g t) s).bind fun s =>
  .ok (s.modCg (fun g => g.putRefs (hIdx f.addr) base))

/-! ### Pins (R130) -/

/-- What HPIN makes of one good reference: nothing pinned, or a page word as a place and the address. -/
inductive Pin where
  | no
  | page (w : Xlat) (addr : Nat)
  | bar (r : Word64) (b : Bar)
  deriving DecidableEq, Repr

/-- The loop of R130. -/
def State.pinOne (s : State) : Nat → Word64 → Pin
  | 0, r => .bar r (.claimed (refAddr r))
  | n + 1, r =>
    match s.onManaged (refAddr r) with
      | .error f => .bar r (.stop (refAddr r) (.fault f))
      | .ok x =>
        if !x.mg then .bar r .badRef
        else match s.wordStop (refAddr r) x false with
          | some b => .bar r b
          | none =>
            let pw := s.rd x.pw 8
            if bitN pw 12 then
              match s.lookupFwd s.cw.who (wordTable pw) (x.pageOf (refAddr r)) (refAddr r) with
              | .absent => .no
              | _ => match s.barSlow r (refAddr r) x with
                | .good r => s.pinOne n r
                | b => .bar r b
            else match s.wordStop (refAddr r) x true with
              | some b => .bar r b
              | none => .page x.word (refAddr r)

/-- Write a page word (R124, R130). -/
def State.putWord (s : State) (w : Xlat) (v : Nat) : State := s.performWrite s.cw.who.atHome w (leBytes 8 v)

/-- HPIN (R130, R265): every hold and trap of every thread comes before the first pin. -/
def hpinBody (f : FmtM) (s : State) : Exec :=
  let m := s.gmask f.g
  (s.rangeCheck f.vd 2).bind fun s =>
  (s.barAll (s.refsOf (hIdx f.addr) false (threads m))).bind fun (s, refs) =>
  let pins := refs.map (fun e => (e, s.pinOne 16 e.2))
  (s.barStop (pins.map (fun e => match e.2 with
    | .bar r b => (⟨e.1.1, r, false⟩, b)
    | _ => (⟨e.1.1, e.1.2, false⟩, .good e.1.2)))).bind fun s =>
  (s.releaseWait true).bind fun s =>
  (s.counterRoom 0).bind fun s =>
  let (s, res) := pins.foldl (fun (a : State × List (Nat × Word64 × Bool)) e =>
    match e.2 with
    | .page x addr =>
      let w := a.1.rd x.pa 8
      if fld w 0 12 = 4095 then (a.1, a.2 ++ [(e.1.1, 0, false)])
      else (a.1.putWord x (w + 1), a.2 ++ [(e.1.1, n64 addr, true)])
    | _ => (a.1, a.2 ++ [(e.1.1, 0, false)])) (s, [])
  let s := s.writePred (offPred f) m (res.map (fun e => (e.1, e.2.2)))
  match f.vd with
  | .v r => .ok (s.modCg (fun g => (g.putV r.val true (res.map (fun e => (e.1, e.2.1)))).fly { path := 0, kind := .load }))
  | _ => .ok s

/-- The page word under an address that HUNPIN names, as a place. -/
def State.unpinWord (s : State) (e : Ea) : Bar × Option Xlat := match s.onManaged e.ea.toNat with
  | .error f => (.stop e.ea.toNat (.fault f), none)
  | .ok x =>
    if !x.mg then (.good 0, none)
    else match s.wordStop e.ea.toNat x true with
      | some b => (b, none)
      | none => (.good 0, some x.word)

/-- HUNPIN (R130, R265): the counts of all threads are checked before the first is lowered. -/
def hunpinBody (f : FmtM) (s : State) : Exec :=
  let ts := threads (s.gmask f.g)
  let src := baseSrc f true
  (s.prepAll (.hunpin f) ts [src]).bind fun (s, os) =>
  let eas := eaList s.cg (os.getD 0 (.const 0)) src (offsetOf f) ts
  (s.addressCheck .global eas 1 false true).bind fun s =>
  let ws := eas.map (fun e => (e, s.unpinWord e))
  (s.barStop (ws.map (fun e => (⟨e.1.t, e.1.ea, false⟩, e.2.1)))).bind fun s =>
  (s.releaseWait true).bind fun s =>
  (s.counterRoom 1).bind fun s =>
  (foldE (fun (a : State) (e : Ea × Bar × Option Xlat) => match e.2.2 with
    | none => trapThr s cHeapPin e.1.ea e.1.t
    | some x =>
      let w := a.rd x.pa 8
      if fld w 0 12 == 0 then trapThr s cHeapPin e.1.ea e.1.t else .ok (a.putWord x (w - 1))) s ws).bind fun t =>
  .ok (t.modCg (fun g => g.fly { path := 1, kind := .store }))

/-! ### Tests and moves (R265) -/

def htnullBody (f : FmtM) (s : State) : Exec :=
  let m := s.gmask f.g
  .ok (s.writePred (offPred f) m ((threads m).map (fun t => (t, s.cg.href (hIdx f.addr) t == 0))))

def hteqBody (f : FmtM) (s : State) : Exec :=
  let m := s.gmask f.g
  let ts := threads m
  let both := (ts.map (fun t => [(⟨t, s.cg.href (hIdx f.vd) t, false⟩ : Ref), ⟨t, s.cg.href (hIdx f.addr) t, false⟩])).flatten
  (s.barAll both).bind fun (s, _) =>
  (s.barAll (s.refsOf (hIdx f.vd) false ts)).bind fun (s, a) =>
  (s.barAll (s.refsOf (hIdx f.addr) false ts)).bind fun (s, b) =>
  let s := s.modCg (fun g => (g.putRefs (hIdx f.vd) a).putRefs (hIdx f.addr) b)
  .ok (s.writePred (offPred f) m (ts.map (fun t => (t, refAddr (thrOf a t) == refAddr (thrOf b t)))))

def hmovRefBody (f : FmtM) (s : State) : Exec :=
  let g := s.cg
  .ok (s.modCg (fun h => h.putRefs (hIdx f.vd) ((threads (s.gmask f.g)).map (fun t => (t, g.href (hIdx f.addr) t)))))

def hmovToRefBody (f : FmtM) (s : State) : Exec :=
  let ts := threads (s.gmask f.g)
  (s.prepAll (.hmovToRef f) ts [⟨1, f.addr, .n64⟩]).bind fun (s, os) =>
  let vals := ts.map (fun t => (t, n64 ((os.getD 0 (.const 0)).read s.cg .n64 t)))
  match vals.find? (fun e => e.2 != 0 && !refOk e.2) with
  | some e => trapThr s cHeapRef e.2 e.1
  | none => .ok (s.modCg (fun g => g.putRefs (hIdx f.vd) vals))

def hmovFromRefBody (f : FmtM) (s : State) : Exec :=
  (s.rangeCheck f.vd 2).bind fun s =>
  s.writeDst f.vd true ((threads (s.gmask f.g)).map (fun t => (t, s.cg.href (hIdx f.addr) t)))

/-- `HLD`: a reference from a raw slot (R264). -/
def execHldSlot (f : FmtM) (s : State) : Host.Outcome State Fault Refusal := issue (.hldSlot f) s (hldSlotBody f)

/-- `HLD`: a reference from an object field (R264). -/
def execHldField (f : FmtM) (s : State) : Host.Outcome State Fault Refusal := issue (.hldField f) s (hldFieldBody f)

/-- `HST`: a reference to a raw slot (R264). -/
def execHstSlot (f : FmtM) (s : State) : Host.Outcome State Fault Refusal := issue (.hstSlot f) s (hstSlotBody f)

/-- `HST`: a reference to an object field (R264). -/
def execHstField (f : FmtM) (s : State) : Host.Outcome State Fault Refusal := issue (.hstField f) s (hstFieldBody f)

/-- `HFLD`: an object field (R264). -/
def execHfld (f : FmtM) (s : State) : Host.Outcome State Fault Refusal := issue (.hfld f) s (hfldBody f)

/-- `HSTR`: store to an object field (R264). -/
def execHstr (f : FmtM) (s : State) : Host.Outcome State Fault Refusal := issue (.hstr f) s (hstrBody f)

/-- `HPIN`: pin and raw address (R130, R265). -/
def execHpin (f : FmtM) (s : State) : Host.Outcome State Fault Refusal := issue (.hpin f) s (hpinBody f)

/-- `HUNPIN`: lower a page's PIN (R130, R265). -/
def execHunpin (f : FmtM) (s : State) : Host.Outcome State Fault Refusal := issue (.hunpin f) s (hunpinBody f)

/-- `HTNULL`: test for null, without the barrier (R265). -/
def execHtnull (f : FmtM) (s : State) : Host.Outcome State Fault Refusal := issue (.htnull f) s (htnullBody f)

/-- `HTEQ`: equality behind the barrier (R265). -/
def execHteq (f : FmtM) (s : State) : Host.Outcome State Fault Refusal := issue (.hteq f) s (hteqBody f)

/-- `HMOV`: mode 0: a reference register (R265). -/
def execHmovRef (f : FmtM) (s : State) : Host.Outcome State Fault Refusal := issue (.hmovRef f) s (hmovRefBody f)

/-- `HMOV`: mode 1: 64 bits to a reference register (R265). -/
def execHmovToRef (f : FmtM) (s : State) : Host.Outcome State Fault Refusal := issue (.hmovToRef f) s (hmovToRefBody f)

/-- `HMOV`: mode 2: a reference to a vector pair (R265). -/
def execHmovFromRef (f : FmtM) (s : State) : Host.Outcome State Fault Refusal := issue (.hmovFromRef f) s (hmovFromRefBody f)

end Sys2Proof.Machine
end

