-- ==== Sys2Proof/Machine/Matrix.lean ====
section
/-! DEFINITION. Major 0x20: matrix operations and accumulator copies (R101 to R113, R241, R242, R259 to R262). A matrix
operation is computed at issue and stays counted until its sequencer time ends (log 3). -/

namespace Sys2Proof.Machine

/-! ### Operands (R106, R107) -/

/-- Window offsets of the 8-byte units of row `r` of tile `t` under the pair `d0`, `d1` (R107), of `u8` units. -/
def rowUnits (d0 d1 u8 t r : Nat) : List Nat :=
  (List.range u8).map (fun u => (fld d0 0 20 + t * fld d1 0 20 + r * fld d0 20 20 + (u + r * fld d0 40 3) % u8 * 8) % 2 ^ 20)

/-- Is the descriptor pair valid (R107, R110)? -/
def pairOk (d0 d1 : Nat) : Bool :=
  fld d0 43 21 == 0 && fld d1 20 44 == 0 && d0 % 8 == 0 && fld d0 20 20 % 8 == 0 && d1 % 8 == 0

/-- One operand of a matrix operation: matrix registers from `op`, or the descriptor pair in `d0`, `d1`. -/
structure MatSrc where
  pair : Bool
  op : Nat
  d0 : Nat
  d1 : Nat
  /-- bytes of a row of A or a column of B -/
  rb : Nat
  deriving DecidableEq, Repr

/-- Offsets of the units that row or column `r` of a scratchpad operand names; columns 32 to 63 lie in tile 1. -/
def MatSrc.units (x : MatSrc) (r : Nat) : List Nat := if x.pair then rowUnits x.d0 x.d1 (x.rb / 8) (r / 32) (r % 32) else []
/-- The bytes of row or column `r` (R106, R107). -/
def MatSrc.bytes (x : MatSrc) (g : Group) (w : Workgroup) (r : Nat) : List Nat :=
  if x.pair then ((x.units r).map (fun o => (w.winN o 8).map BitVec.toNat)).flatten
  else (List.range x.rb).map (fun i => (g.mbyte (x.op + (x.rb * r + i) / 2048) ((x.rb * r + i) % 2048)).toNat)

def State.matSrc (s : State) (pair : Bool) (op : Fin 64) (rb : Nat) : MatSrc :=
  ⟨pair, op.val, if pair then (s.cg.sreg op.val).toNat else 0, if pair then (s.cg.sreg (op.val + 1)).toNat else 0, rb⟩

/-- REGISTER_RANGE of an operand of `n` registers (R33). -/
def MatSrc.rangeCheck (x : MatSrc) (n : Nat) (s : State) : Exec :=
  if !x.pair && decide (s.cg.mside < x.op + n) then trapAt s cRegister (n64 (max x.op s.cg.mside)) else .ok s
/-- MATRIX_DESC of an operand's pair (R111). -/
def MatSrc.pairCheck (x : MatSrc) (s : State) : Exec :=
  if x.pair && !pairOk x.d0 x.d1 then trapAt s cMatrixDesc (n64 x.op) else .ok s
/-- ACC_RANGE (R46). -/
def State.tileCheck (s : State) (n : Nat) : Exec := if s.cg.tiles ≤ n then trapAt s cAcc (n64 n) else .ok s
/-- SCRATCH_RANGE with the lowest of the offending offsets (R111). -/
def State.lowestCheck (s : State) (bad : List Nat) : Exec := match bad with
  | [] => .ok s
  | o :: l => trapAt s cScratch (n64 (l.foldl min o))

/-! ### Formats (R109) -/

/-- Format block: codes of A and B, BLK, scale bases and pitches. -/
structure FmtBlock where
  af : Nat
  bf : Nat
  blk : Bool
  ascale : Nat
  bscale : Nat
  aspitch : Nat
  bspitch : Nat
  deriving DecidableEq, Repr

def fmtBlock (a b : Nat) : FmtBlock :=
  ⟨fld a 60 4, fld a 56 4, fld a 54 2 == 1, fld a 0 20, fld a 20 20, fld b 0 20, fld b 20 20⟩

/-- Codes of the width classes (R104, R109). -/
def classHas (wcls code : Nat) : Bool := match wcls with
  | 0 => code < 2
  | 1 => 2 ≤ code && code ≤ 4
  | _ => code == 5 || code == 6

/-- The checks of R110 on the format block. -/
def fmtBlockOk (wcls a b : Nat) : Bool :=
  let f := fmtBlock a b
  let blk := fld a 54 2
  fld a 40 14 == 0 && fld b 40 24 == 0 && classHas wcls f.af && classHas wcls f.bf && (f.af == 4) == (f.bf == 4) && decide (blk < 2) &&
  !(blk == 1 && (wcls == 0 || f.af == 4)) && !(blk == 0 && (f.af == 6 || f.bf == 6))

/-- The type of a format code; `.i8` is handled apart. -/
def matTy : Nat → Ty
  | 0 => .bf16
  | 1 => .f16
  | 2 => .e4m3
  | 3 => .e5m2
  | 4 => .i8
  | 5 => .e2m1
  | _ => .o4

/-- Pairs of a byte list as 16-bit words. -/
def halfWords : List Nat → List Nat
  | a :: b :: l => (a + 256 * b) :: halfWords l
  | _ => []

/-- Elements of a row in ascending k, scaled by one BS8 byte per four (R96, R106, R109). -/
def decodeRow (code : Nat) (bytes : List Nat) (scales : Option (List Nat)) : List FVal :=
  let vs := match code with
    | 0 => (halfWords bytes).map fmtBf.decode
    | 1 => (halfWords bytes).map fmt16.decode
    | 2 => bytes.map fmtE4.decode
    | 3 => bytes.map fmtE5.decode
    | 4 => bytes.map (fun b => ofIntF (sx 8 b))
    | 5 => (bytes.map (fun b => [fmtE2.decode (b % 16), fmtE2.decode (b / 16)])).flatten
    | _ => ((halfWords bytes).map o4Values).flatten
  match scales with
  | none => vs
  | some l => (vs.zipIdx).map (fun (v, k) => scaled (matTy code) v (l.getD (k / 4) 255))

/-! ### Arithmetic (R101, R102) -/

/-- Exact sum of products (k, a) × b[k]; none for an empty chunk. A sum that is exactly zero is −0 only where every product is
−0, else +0: the model's choice, for R101 gives no sign (log 36). -/
def chunkSum (b : List FVal) : List (Nat × FVal) → Option FVal
  | [] => none
  | (k, x) :: l =>
    let p := x.mul (b.getD k .nan)
    match chunkSum b l with
    | none => some p
    | some q => some (p.add q)

/-- One element of a floating-point result over chunks in ascending order (R101). -/
def fpElem (b : List FVal) : List (List (Nat × FVal)) → Nat → Nat
  | [], acc => acc
  | c :: l, acc => fpElem b l (match chunkSum b c with
    | none => acc
    | some p => fmt32.roundWide .rne 0 ((fmt32.decode acc).add (fmt32.decode (fmt32.roundWide .rne 0 p))))

/-- The integer of an exact value. -/
def FVal.toI : FVal → Int
  | .fin s m e => unitsAt s m e 0
  | _ => 0
/-- One element of an INT32 result (R101). -/
def intElem (b : List FVal) (a : List (Nat × FVal)) (acc : Nat) : Nat :=
  (((acc : Int) + (a.map (fun (k, x) => x.toI * (b.getD k (.fin false 0 0)).toI)).sum) % (2 ^ 32 : Nat)).toNat

/-- A compressed row with its metadata, by expanded position (R112). -/
def expandRow (row : List FVal) (entries : List (List Byte)) (t : Nat) : List (Nat × FVal) :=
  ((entries.zipIdx).map (fun (e, s) =>
    let md := leNat ((e.drop (8 * t)).take 8)
    ((List.range 16).map (fun g =>
      let nib := fld md (4 * g) 4
      [(64 * s + 4 * g + nib % 4, row.getD (32 * s + 2 * g) .nan), (64 * s + 4 * g + nib / 4, row.getD (32 * s + 2 * g + 1) .nan)])).flatten)).flatten

/-- Products grouped by chunks of `c` positions. -/
def chunksOf (c n : Nat) (a : List (Nat × FVal)) : List (List (Nat × FVal)) :=
  (List.range n).map (fun i => a.filter (fun (k, _) => k / c == i))

/-- Offsets among those read whose unit has the poison mark. -/
def Workgroup.marked (w : Workgroup) (l : List Nat) : List Nat := l.filter (fun o => w.winPoison.contains (o / 8))

/-- Key of an accumulator word. -/
def accKey (tile row col : Nat) : Nat := (32 * tile + row) * 64 + col
def Group.putAcc (g : Group) (l : List (Nat × Word32)) : Group :=
  { g with acc := l.foldl (fun m e => SMap.set 0 m e.1 e.2) g.acc }

/-- MMA and MMAS (R111, R260). -/
def mmaBody (f : FmtX) (sparse : Bool) (s : State) : Exec :=
  let wc := f.wcls.val
  let K := 32 * 2 ^ wc
  let ne := if sparse then 2 * K else K
  let a := s.matSrc f.sA f.aop 64
  let b := s.matSrc f.sB f.bop (if sparse then 128 else 64)
  let f0 := (s.cg.sreg f.fbp.val).toNat
  let f1 := (s.cg.sreg (f.fbp.val + 1)).toNat
  let fb := fmtBlock f0 f1
  (a.rangeCheck 1 s).bind fun s =>
  (b.rangeCheck (if sparse then 4 else 2) s).bind fun s =>
  (s.tileCheck f.acc.val).bind fun s =>
  (a.pairCheck s).bind fun s =>
  (b.pairCheck s).bind fun s =>
  if !fmtBlockOk wc f0 f1 then trapAt s cMatrixDesc (n64 f.fbp.val)
  else
    let ts := threads (s.gmask f.g)
    let W := s.cw.winSize
    let cols := List.range 64
    let aScale (t : Nat) : List Nat := if fb.blk then (List.range (K / 4)).map (fun i => fb.ascale + t * fb.aspitch + i) else []
    let bScale (j : Nat) : List Nat := if fb.blk then (List.range (ne / 4)).map (fun i => fb.bscale + j * fb.bspitch + i) else []
    let aOffs (t : Nat) : List Nat := a.units t ++ aScale t
    let bOffs := (cols.map (fun j => b.units j ++ bScale j)).flatten
    (s.lowestCheck (((ts.map aOffs).flatten ++ bOffs).filter (fun o => decide (W ≤ o)))).bind fun s =>
    let n := if sparse then 2 ^ wc else 0
    if sparse && !s.cg.sparse then trapAt s cSpq 0
    else if s.cg.spq.length < n then holdOn s .supply
    else
      let entries := s.cg.spq.take n
      let s := s.modCg (fun g => { g with spq := g.spq.drop n })
      if ts.isEmpty then .ok s
      else
        let g := s.cg
        let w := s.cw
        let sc (l : List Nat) : Option (List Nat) := if fb.blk then some (l.map (fun o => (w.winByte o).toNat)) else none
        let bcols := cols.map (fun j => decodeRow fb.bf (b.bytes g w j) (sc (bScale j)))
        let bMarks := w.marked bOffs
        let marks := w.marked ((ts.map aOffs).flatten) ++ bMarks
        let c := 8 * 2 ^ wc
        let rows := ts.map (fun t =>
          let row := decodeRow fb.af (a.bytes g w t) (sc (aScale t))
          let prods := if sparse then expandRow row entries t else row.zipIdx.map (fun (x, k) => (k, x))
          let chunks := chunksOf c (ne / c) prods
          let free := !bMarks.isEmpty || !(w.marked (aOffs t)).isEmpty
          (bcols.zipIdx).map (fun (bc, j) =>
            let d := (g.accWord f.acc.val t j).toNat
            (accKey f.acc.val t j,
              if free then s.free 32 (64 * t + j)
              else BitVec.ofNat 32 (if fb.af = 4 then intElem bc prods d else fpElem bc chunks d))))
        let low := match marks with
          | [] => none
          | o :: l => some (n64 (l.foldl min o))
        .ok (s.modCg (fun g => { g.putAcc rows.flatten with matrix := g.matrix ++ [{ poison := low }] }))

/-- An FP64 subnormal (R102). -/
def sub64 (x : Nat) : Bool := fld x 52 11 == 0 && fld x 0 52 != 0

/-- The fused steps of one FP64 element, and whether one needs the assist (R102). -/
def dmmaSteps : List (Nat × Nat) → Nat → Bool → Nat × Bool
  | [], acc, z => (acc, z)
  | (a, b) :: l, acc, z =>
    let r := fmt64.roundWide .rne 0 (((fmt64.decode a).mul (fmt64.decode b)).add (fmt64.decode acc))
    dmmaSteps l r (z || sub64 a || sub64 b || sub64 r)

/-- The four doubles of a row. -/
def doubles (bytes : List Nat) : List Nat :=
  (List.range 4).map (fun k => (((bytes.drop (8 * k)).take 8).foldr (fun b n => b + 256 * n) 0))

/-- DMMA (R102, R104, R261). -/
def dmmaBody (f : FmtX) (s : State) : Exec :=
  let a := s.matSrc f.sA f.aop 32
  let b := s.matSrc f.sB f.bop 32
  (a.rangeCheck 1 s).bind fun s =>
  (b.rangeCheck 1 s).bind fun s =>
  (s.tileCheck f.acc.val).bind fun s =>
  (s.tileCheck (f.acc.val + 1)).bind fun s =>
  (a.pairCheck s).bind fun s =>
  (b.pairCheck s).bind fun s =>
  let ts := threads (s.gmask f.g)
  let W := s.cw.winSize
  let cols := List.range 64
  let aOffs := (ts.map a.units).flatten
  let bOffs := (cols.map b.units).flatten
  (s.lowestCheck ((aOffs ++ bOffs).filter (fun o => decide (W ≤ o)))).bind fun s =>
  if ts.isEmpty then .ok s
  else
    let g := s.cg
    let w := s.cw
    let bcols := cols.map (fun j => doubles (b.bytes g w j))
    let bMarks := w.marked bOffs
    let marks := w.marked aOffs ++ bMarks
    let res := (ts.map (fun t =>
      let row := doubles (a.bytes g w t)
      let free := !bMarks.isEmpty || !(w.marked (a.units t)).isEmpty
      (bcols.zipIdx).map (fun (bc, j) =>
        let tile := f.acc.val + j / 32
        let col := 2 * (j % 32)
        let d := (g.accWord tile t (col + 1) ++ g.accWord tile t col).toNat
        let (r, z) := dmmaSteps (row.zip bc) d (sub64 d)
        let r : Word64 := if free then s.free 64 (64 * t + j) else n64 r
        ([(accKey tile t col, r.setWidth 32), (accKey tile t (col + 1), (r >>> 32).setWidth 32)], z)))).flatten
    let words := (res.map Prod.fst).flatten
    let low := match marks with
      | [] => none
      | o :: l => some (n64 (l.foldl min o))
    if res.any Prod.snd then .ok (s.modCg (fun g => { g with matrix := g.matrix ++ [{ poison := low, assist := some words }] }))
    else .ok (s.modCg (fun g => { g.putAcc words with matrix := g.matrix ++ [{ poison := low }] }))

/-! ### Accumulator copies (R241, R242) -/

/-- The row of a tile as 256 bytes. -/
def accRow (g : Group) (tile t : Nat) : List Byte := ((List.range 64).map (fun c => leBytes 4 (g.accWord tile t c).toNat)).flatten

/-- Fill the map blocks that 256-byte window rows touch (R44, R242). -/
def State.touchRows (s : State) (offs : List Nat) : Exec :=
  s.touchAll .window ((offs.map (fun o => [o, o + 255])).flatten.map (fun o => ⟨0, n64 o⟩))

/-- ACCRD and ACCWR: the checks of R242, the rows of the active threads. -/
def accCopyBody (f : FmtX) (toWindow : Bool) (s : State) : Exec :=
  (s.tileCheck f.acc.val).bind fun s =>
  let d := (s.cg.sreg f.bop.val).toNat
  if fld d 40 24 ≠ 0 ∨ d % 8 ≠ 0 ∨ fld d 20 20 % 8 ≠ 0 then trapAt s cMatrixDesc (n64 f.bop.val)
  else
    let row (t : Nat) : Nat := fld d 0 20 + t * fld d 20 20
    let ts := threads (s.gmask f.g)
    let W := s.cw.winSize
    let bad := ts.filterMap (fun t => if W < row t + 256 then some (max (row t) W) else none)
    let shut := ts.filterMap (fun t => ((List.range 256).find? (fun i => toWindow && s.cw.readOnly (row t + i))).map (fun i => row t + i))
    (s.lowestCheck bad).bind fun s =>
    (s.lowestCheck shut).bind fun s =>
    (s.counterRoom 3).bind fun s =>
    (s.touchRows (ts.map row)).bind fun s =>
    match (if toWindow then none else ts.find? (fun t => s.cw.winPoisoned (row t) 256)) with
    | some t => trapThr s cPoison (n64 (row t)) t
    | none =>
      let old := if toWindow then (ts.map (fun t => s.oldBytes .window ⟨t, n64 (row t), accRow s.cg f.acc.val t⟩ none)).flatten else []
      let s := if toWindow then
          ts.foldl (fun s t => s.modCw (fun w => w.storeWin (row t) (accRow s.cg f.acc.val t))) s
        else s.modCg (fun g => g.putAcc ((ts.map (fun t => (List.range 64).map (fun c =>
          (accKey f.acc.val t c, BitVec.ofNat 32 (leNat (s.cw.winN (row t + 4 * c) 4)))))).flatten))
      .ok (s.modCg (fun g => g.fly { path := 3, kind := .copy, old := old }))

def accMoveBody (f : FmtX) (s : State) : Exec :=
  (s.tileCheck f.acc.val).bind fun s =>
  (s.tileCheck f.aop.val).bind fun s =>
  (s.counterRoom 3).bind fun s =>
  let g := s.cg
  .ok (s.modCg (fun h => (h.putAcc (((threads (s.gmask f.g)).map (fun t => (List.range 64).map (fun c =>
    (accKey f.aop.val t c, g.accWord f.acc.val t c)))).flatten)).fly { path := 3, kind := .copy }))

/-- ACCCLR (R261). -/
def accClearBody (f : FmtX) (s : State) : Exec :=
  (s.tileCheck f.acc.val).bind fun s =>
  .ok (s.modCg (fun h => h.putAcc (((threads (s.gmask f.g)).map (fun t => (List.range 64).map (fun c =>
    (accKey f.acc.val t c, (0 : Word32))))).flatten)))

/-- `MMA`: dense multiply-accumulate (R260). -/
def execMma (f : FmtX) (s : State) : Host.Outcome State Fault Refusal := issue (.mma f) s (mmaBody f false)

/-- `MMAS`: two-of-four sparse multiply-accumulate (R112, R260). -/
def execMmas (f : FmtX) (s : State) : Host.Outcome State Fault Refusal := issue (.mmas f) s (mmaBody f true)

/-- `DMMA`: FP64 multiply-accumulate (R261). -/
def execDmma (f : FmtX) (s : State) : Host.Outcome State Fault Refusal := issue (.dmma f) s (dmmaBody f)

/-- `ACCCLR`: rows of a tile to zero (R261). -/
def execAccclr (f : FmtX) (s : State) : Host.Outcome State Fault Refusal := issue (.accclr f) s (accClearBody f)

/-- `ACCRD`: rows of a tile to the window (R242). -/
def execAccrd (f : FmtX) (s : State) : Host.Outcome State Fault Refusal := issue (.accrd f) s (accCopyBody f true)

/-- `ACCWR`: rows of a tile from the window (R242). -/
def execAccwr (f : FmtX) (s : State) : Host.Outcome State Fault Refusal := issue (.accwr f) s (accCopyBody f false)

/-- `ACCMV`: rows of a tile to another tile (R242). -/
def execAccmv (f : FmtX) (s : State) : Host.Outcome State Fault Refusal := issue (.accmv f) s (accMoveBody f)

end Sys2Proof.Machine
end

