-- ==== Sys2Proof/Machine/Paging.lean ====
section
/-! DEFINITION. Translation, paging and dirty logging as events: walks (R341), the driver's answers to faults (R343, R344,
R369), invalidations (R340, R342), MRESUME (R347), appends and promotions (R348 to R350), function-level reset (R355). -/

namespace Sys2Proof.Machine

/-! ### Walks and invalidations -/

/-- Do two ranges meet? -/
def meets (a n b k : Nat) : Bool := a < b + k && b < a + n

/-- A translation comes into a TLB of so many entries: it replaces that TLB's entries of its range, or, where the TLB is full,
the oldest (R341, log 9). -/
def tlbAdd (e : TlbEntry) (size : Nat) (l : List TlbEntry) : List TlbEntry :=
  let mine (x : TlbEntry) : Bool := x.die == e.die && x.core == e.core
  let l := l.filter (fun x => !(mine x && x.ctx == e.ctx && x.machine == e.machine && meets x.base x.leafSize e.base e.leafSize))
  if l.length < size then e :: l
  else match (l.filter mine).getLast? with
    | some v => if (l.filter mine).length < size then e :: l else e :: l.filter (· ≠ v)
    | none => e :: l

/-- The entry of a translation. -/
def Xlat.entry (x : Xlat) (ctx m v : Nat) : TlbEntry :=
  let off := v % x.leafSize
  { ctx := ctx, machine := m, vpage := (v - off) / 65536, gpage := (x.gpa - off) / 65536, ppage := (x.pa - off) / 65536, w := x.w, x := x.x
    sh := x.sh, mg := x.mg, pw := x.pw, leafSize := x.leafSize, pageSize := x.pageSize, dirty := x.dirty.isNone }

/-- A walk's result comes into the shared TLB of a die and the TLB of a core of it (R341). -/
def State.fillTlb (s : State) (p : Place) (e : TlbEntry) : State :=
  let e := { e with die := p.die }
  { s with tlb := tlbAdd { e with core := some (p.cluster, p.core) } 256 (tlbAdd e 32768 s.tlb) }

/-- `PAGE_WALK`: the misses of a die to one page are walked once; the translation found is held from then on in the die's
shared TLB and in that of the core (R341). A walk that faults leaves neither. -/
def execPageWalk (walker : Walker) (va : Word64) (acc : Acc) (s : State) : Host.Outcome State Fault Refusal :=
  .next (
    let ctx := walker.ctx
    let fn := s.ctxFn ctx
    let m := s.machOf fn
    let v := va.toNat % 2 ^ 57
    match s.walkBoth fn ctx v acc with
    | .ok x => s.fillTlb walker.place (x.entry ctx m v)
    | .error _ =>
      { s with tlb := s.tlb.filter (fun e => !(e.ctx == ctx && e.machine == m && e.covers v && e.seenBy walker.place)) })

/-- An INVCTL write is in progress (R340). -/
def State.startInv (s : State) (fn scope : Nat) (value : Word64) : State :=
  if fld value.toNat 0 2 = scope then { s with invPending := s.invPending ++ [(fn, value, s.barReg fn 0x30)] } else s

/-- `INVALIDATE_PAGE`: a write of INVCTL with scope 0 (R340). -/
def execInvalidatePage (fn : Nat) (value : Word64) (s : State) : Host.Outcome State Fault Refusal := .next (s.startInv fn 0 value)
/-- `INVALIDATE_CONTEXT`: a write of INVCTL with scope 1 (R340). -/
def execInvalidateContext (fn : Nat) (value : Word64) (s : State) : Host.Outcome State Fault Refusal := .next (s.startInv fn 1 value)
/-- `INVALIDATE_MACHINE`: a write of INVCTL with scope 2, ignored from a virtual function (R340). -/
def execInvalidateMachine (fn : Nat) (value : Word64) (s : State) : Host.Outcome State Fault Refusal :=
  .next (if fn = physFn then s.startInv fn 2 value else s)

/-- Bytes that a size code of INVCTL covers (R340). -/
def invSize (value : Nat) : Nat := leafBytes (fld value 4 2)

/-- The first GPA that a TLB entry serves. -/
def TlbEntry.gpaBase (e : TlbEntry) : Nat := 65536 * e.gpage

/-- No TLB holds a translation that the invalidation covers: of a page by VA, of a context, of a machine's page by GPA;
surrogates whose code it covers become INVALID (R136, R340, R342). -/
def State.invalidate (s : State) (value addr : Nat) : State :=
  let who := fld value 48 16
  let n := invSize value
  let base := addr / n * n
  let t (e : TlbEntry) : Bool := match fld value 0 2 with
    | 0 => e.ctx == who && meets e.base e.leafSize base n
    | 1 => e.ctx == who
    | _ => e.machine == who && meets e.gpaBase e.leafSize base n
  let c (k : Kite) : Bool := match fld value 0 2 with
    | 0 => k.ctx == who && meets (65536 * k.code) 65536 base n
    | 1 => k.ctx == who
    | _ => s.machOf (s.ctxFn k.ctx) == who && meets (65536 * k.codeGpa) 65536 base n
  { s with tlb := s.tlb.filter (fun e => !t e), kites := s.kites.map (fun k => if c k then { k with state := .invalid, batch := [] } else k) }

/-- `INVALIDATION_COMPLETE`: the function's oldest invalidation is complete and its read count is raised (R340, R342). -/
def execInvalidationComplete (fn : Nat) (s : State) : Host.Outcome State Fault Refusal :=
  .next (match s.invPending.find? (fun e => e.1 == fn) with
    | none => s
    | some (_, v, a) =>
      let s := s.invalidate v.toNat a.toNat
      let n := (SMap.get 0 s.invDone fn + 1) &&& 0xFFFFFFFF
      { s with invPending := s.invPending.eraseP (fun e => e.1 == fn), invDone := SMap.set 0 s.invDone fn n })

/-! ### Answers to faults -/

/-- Change every group, resident or saved. -/
def State.mapGroups (s : State) (f : Group → Group) : State :=
  { s with groups := s.groups.map f
           saved := s.saved.map (fun (i : Saved) => { i with groups := i.groups.map f }) }

/-- Is a held access joined to the record `k`? -/
def joined (k : Nat × Nat) (f : Option (Nat × Nat × Word64)) : Option Word64 := match f with
  | some (a, b, va) => if (a, b) = k then some va else none
  | none => none

/-- Does an access of the group wait for the answer? -/
def Group.awaits (k : Nat × Nat) (g : Group) : Bool :=
  g.bank1.posted == some k || g.bank2.posted == some k || g.sideLog.any (fun e => e.tag == some k) ||
  g.mule.any (fun m => m.fault == some k) || g.frags.any (fun f => match f.wait with
    | .fault fn tag _ _ => (fn, tag) == k
    | .copying _ _ (some q) => q == k
    | _ => false)

/-- Does any access that is joined to the record still wait (R352)? -/
def State.awaits (s : State) (k : Nat × Nat) : Bool :=
  s.groups.any (Group.awaits k) || s.saved.any (fun i => i.groups.any (Group.awaits k)) || s.cmds.any (fun c => (joined k c.fault).isSome) ||
  s.wgs.any (fun w => w.subs.any (fun b => (joined k b.fault).isSome)) || s.ctxs.any (fun c => c.held == some k)

/-- The accesses of a group that wait for an answer walk again (R344); of a saved group, the access that it posted from a handler
level walks when it is restored (R352). -/
def Group.retried (r : FaultRec) (isSaved : Bool) (g : Group) : Group :=
  let k := (r.fn, r.tag)
  let b (x : TrapBank) : TrapBank := if x.posted = some k then { x with posted := none, again := if isSaved then some (r.va, r.acc) else none } else x
  { g with
    bank1 := b g.bank1
    bank2 := b g.bank2
    sideLog := g.sideLog.map (fun (e : LogEntry) => if e.tag = some k then { e with tag := none } else e)
    mule := g.mule.map (fun (m : Mule) => if m.fault = some k then { m with fault := none } else m)
    frags := g.frags.map (fun (f : Frag) => match f.wait with
      | .fault fn tag _ _ => if (fn, tag) = k then { f with wait := .none } else f
      | .copying t sl (some q) => if q = k then { f with wait := .copying t sl none } else f
      | _ => f) }

/-- An access posted from a handler level walks the posted address again: its translation is left in the TLBs, or its new
fault is posted (R344, R352). -/
def State.rewalk (s : State) (va : Word64) (acc : Acc) (gid n : Nat) : State :=
  let w := (s.wg (s.group gid).wid).who
  match s.walkBoth w.fn w.ctx va.toNat acc with
  | .ok x => s.fillTlb w.place (x.entry w.ctx (s.machOf w.fn) va.toNat)
  | .error f =>
    let (t, k) := s.postFault w va.toNat f
    t.modGroup gid (fun g => g.setBank n { g.bank n with posted := some k })

/-- Answers that came while a group was saved take effect once it is resident again (R352): a RETRY walks the posted address, a
DECLINE kills the fault domain for reason 7, unless the handler has cleared DRV. -/
def State.lateAnswers (s : State) (gid : Nat) : State :=
  let s := [1, 2].foldl (fun (s : State) n => match ((s.group gid).bank n).again with
    | some (va, acc) => (s.modGroup gid (fun g => g.setBank n { g.bank n with again := none })).rewalk va acc gid n
    | none => s) s
  let g := s.group gid
  match [1, 2].find? (fun n => (g.bank n).posted.map Prod.snd == some 0 && bitN (g.bank n).cause.toNat 9) with
  | some n => s.killDomain (s.wg g.wid).ctx (s.wg g.wid).fdom 7 n 0 0 0
  | none => s

/-- Every access joined to a record, which is out of the list by now, is tried again. -/
def State.retryAll (s : State) (r : FaultRec) : State :=
  let k := (r.fn, r.tag)
  let posted := ((s.groups.map (fun g => [(g, 1), (g, 2)])).flatten).filter (fun e => (e.1.bank e.2).posted == some k)
  let s := { s with groups := s.groups.map (Group.retried r false)
                    saved := s.saved.map (fun (i : Saved) => { i with groups := i.groups.map (Group.retried r true) }) }
  let s := { s with
    cmds := s.cmds.map (fun (c : Cmd) => if (joined k c.fault).isSome then { c with fault := none } else c)
    wgs := s.wgs.map (fun (w : Workgroup) => { w with subs := w.subs.map (fun (b : Sub) => if (joined k b.fault).isSome then { b with fault := none } else b) })
    ctxs := s.ctxs.map (fun (c : Ctx) => if c.held = some k then { c with held := none } else c) }
  posted.foldl (fun (s : State) e => s.rewalk r.va r.acc e.1.gid e.2) s

/-- Address of the instruction, or the clause header, at which a Mule stands. -/
def Mule.pc (m : Mule) : Word64 := if m.clause.isSome then wordAddr m.hdr m.widx else m.hdr

/-- The accesses of a group that wait for an answer are invalid (R85, R115, R322, R344). -/
def Group.declined (k : Nat × Nat) (g : Group) : Group :=
  let b (x : TrapBank) : TrapBank := if x.posted = some k then { x with posted := some (k.1, 0) } else x
  let lost := g.sideLog.filter (fun e => e.tag == some k)
  let g := { g with
    bank1 := b g.bank1
    bank2 := b g.bank2
    sideLog := g.sideLog.filter (fun e => e.tag != some k)
    frags := g.frags.map (fun (f : Frag) => match f.wait with
      | .fault fn tag va thr => if (fn, tag) = k then { f with wait := .trap cTranslation va thr f.clause.isNone false none } else f
      | .copying _ _ (some q) => if q = k then { f with wait := .none } else f
      | _ => f) }
  let g := lost.foldl (fun (g : Group) e => g.raise cTranslation (n64 (e.line.toNat * 128))) g
  match g.mule with
  | some m => if m.fault = some k then { g with mule := some { m with ended := true, fault := none } }.raise cMule m.pc else g
  | none => g

/-- Does an assisted copy of the group wait for this answer (R128)? -/
def Group.copyWaits (g : Group) (k : Nat × Nat) : Bool := g.frags.any (fun f => match f.wait with
  | .copying _ _ (some q) => q == k
  | _ => false)

/-- The kills that a DECLINE brings: of the domain of an assisted copy (R128), and of a resident group that posted the fault
from a handler level and has not cleared DRV (R322, R352). -/
def State.declineKills (s : State) (k : Nat × Nat) (g : Group) : List Kill :=
  let w := s.wg g.wid
  (if g.copyWaits k then [Kill.domain w.ctx w.fdom 8 g.tlevel (n64 cHeapFwd) 0 0] else []) ++
  [1, 2].filterMap (fun n =>
    let b := g.bank n
    if b.posted = some k ∧ bitN b.cause.toNat 9 then some (.domain w.ctx w.fdom 7 n 0 0 0) else none)

/-- Every access joined to a record is declared invalid (R344). Fault domains are killed last. -/
def State.declineAll (s : State) (k : Nat × Nat) : State :=
  let kills := (s.groups.map (s.declineKills k)).flatten ++
    (s.cmds.filter (fun c => c.kind == .reloc && (joined k c.fault).isSome)).map (fun c => Kill.domain c.ctx c.fdom 8 0 (n64 cHeapFwd) 0 0)
  let s := s.mapGroups (Group.declined k)
  let s := (s.cmds.filter (fun c => c.kind != .reloc)).foldl (fun (s : State) c => match joined k c.fault with
    | some va => s.stopCmd c (some (cTranslation, va))
    | none => s) s
  let s := s.wgs.foldl (fun (s : State) w => w.subs.foldl (fun (s : State) b => match joined k b.fault with
    | some va => s.stopSub w.wid b (some (cTranslation, va))
    | none => s) s) s
  let s := { s with ctxs := s.ctxs.map (fun (c : Ctx) => if c.held = some k then { c with held := some (k.1, 0) } else c) }
  (kills.foldl (fun (l : List Kill) e => if l.any e.again then l else l ++ [e]) []).foldl State.beginKill s.settleKills

/-- The copy of a declined stage-2 record that goes to the owner's event ring (R344). -/
def FaultRec.evrCopy (r : FaultRec) : List Byte := leBytes 8 (3 * 2 ^ 56) ++ r.bytes.drop 8

def State.dropRecord (s : State) (r : FaultRec) : State := { s with faults := s.faults.filter (fun q => !(q.fn == r.fn && q.tag == r.tag)) }

/-- DECLINE of a record. Where all its accesses belonged to killed work, nothing is posted for it (R352). -/
def State.declineRecord (s : State) (r : FaultRec) : State :=
  let tell := r.stage = 2 ∧ s.awaits (r.fn, r.tag)
  let s := (s.dropRecord r).declineAll (r.fn, r.tag)
  let s := if tell then s.postEvent r.owner r.evrCopy else s
  s.postWaiting r.fn s.faults

/-- Does a retried translation fail the world check of R369? -/
def State.worldFails (s : State) (r : FaultRec) : Bool :=
  match s.translate r.owner r.ctx r.va.toNat r.acc noPlace with
  | .ok x =>
    let (pw, ws) := s.pageWorld r.owner x.pa
    paTarget x.pa < 2 && !ws && pw != s.ctxWorld r.ctx && ((r.acc == .write && s.ctxProt r.ctx) || s.worldProtected pw)
  | .error _ => false

/-- RETRY of a record (R344); one that fails the world check acts as a DECLINE (R369). -/
def State.retryRecord (s : State) (r : FaultRec) : State :=
  if s.worldFails r then s.declineRecord r
  else
    let s := (s.dropRecord r).retryAll r
    s.postWaiting r.fn s.faults

/-- The outstanding record that an answer names. -/
def State.answered (s : State) (fn tag : Nat) : Option FaultRec :=
  s.faults.find? (fun r => r.fn == fn && r.tag == tag && r.isPosted && !r.paused)

/-- `RETRY`: the driver answers a fault with RETRY (R344). -/
def execRetry (fn tag : Nat) (s : State) : Host.Outcome State Fault Refusal :=
  .next (match s.answered fn tag with
    | some r => s.retryRecord r
    | none => s)

/-- `DECLINE`: the driver answers a fault with DECLINE (R344). -/
def execDecline (fn tag : Nat) (s : State) : Host.Outcome State Fault Refusal :=
  .next (match s.answered fn tag with
    | some r => s.declineRecord r
    | none => s)

/-- `FQ_HEAD_RAISE`: faults that waited in the walkers for room in a queue are posted (R343). -/
def execFqHeadRaise (fn : Nat) (s : State) : Host.Outcome State Fault Refusal := .next (s.postWaiting fn s.faults)

/-- `MRESUME`: PAUSED is cleared, and the machine's held writes walk again (R347). -/
def execMresume (value : Word64) (s : State) : Host.Outcome State Fault Refusal :=
  .next (
    let m := fld value.toNat 0 6
    let a := s.machBlock m + 24
    let s := s.wr a 8 (putFld (s.rd a 8) 0 1 0)
    ((s.faults.filter (fun r => r.paused && r.stage == 2 && s.machOf r.owner == m)).foldl State.retryRecord s).settleLate)

/-! ### Appends and promotions -/

/-- The GPA of the level-0 table that maps a page, from a table of a level down, where there is one. -/
def State.tableBelow (s : State) (mach va : Nat) : Nat → Nat → Except XFault (Option Nat)
  | 0, t => .ok (some t)
  | l + 1, t => (s.stage2 mach (t + 8 * tableIndex va (l + 1) 9) .read).bind fun x =>
    let e := s.rd x.pa 8
    if bitN e 0 && !entLeaf e && !malformed e (l + 1) true then s.tableBelow mach va l (nextTable e) else .ok none

/-- The level-0 leaf of a page, in an existing table: its physical address and its GPA. -/
def State.leafSlot (s : State) (fn ctx va : Nat) : Except XFault (Option (Nat × Nat)) :=
  let b0 := s.rd (s.ctxBlock fn ctx) 8
  if !bitN b0 0 then .ok none
  else (s.tableBelow (s.machOf fn) va 4 (fld b0 12 40 * 2 ^ 12)).bind fun t => match t with
    | none => .ok none
    | some t => (s.stage2 (s.machOf fn) (t + 8 * tableIndex va 0 9) .read).map (fun x => some (x.pa, t + 8 * tableIndex va 0 9))

/-- A paging request (R348). -/
structure PageReq where
  slot : Nat
  op : Nat
  npg : Nat
  va : Nat
  hgaddr : Nat
  hgen : Nat
  deriving DecidableEq, Repr

def State.prq (s : State) (ctx : Nat) : Nat := s.ctxBlock (s.ctxFn ctx) ctx + 16

/-- The request in the slot at HEAD, once it is VALID. -/
def State.prqHead (s : State) (ctx : Nat) : Option PageReq :=
  let r := s.ring (s.prq ctx)
  let a := r.base + 32 * (r.head % 2 ^ r.logn)
  let d0 := s.rd a 8
  if r.used = 0 ∨ r.logn < 4 ∨ !bitN d0 0 then none
  else some ⟨a, fld d0 56 8, fld d0 40 8, s.rd (a + 8) 8, s.rd (a + 16) 8, s.rd (a + 24) 8⟩

/-- Write STATUS, then raise HEAD. -/
def State.prqDone (s : State) (ctx : Nat) (q : PageReq) (status : Nat) : State :=
  let s := s.wr q.slot 8 (putFld (s.rd q.slot 8) 48 8 status)
  s.wr (s.prq ctx + 12) 4 ((s.ring (s.prq ctx)).head + 1)

/-- A well-formed range of pages. A request with another OP, no pages or more than 32 (or than 1, for a promotion), a misaligned VA
or VA bits [63:57] set ends with BADREQ: the model's choice, for R348 gives BADREQ for a wrong leaf only (log 65). -/
def PageReq.ok (q : PageReq) : Bool := 1 ≤ q.npg && q.npg ≤ 32 && q.va % 65536 == 0 && q.va + 65536 * q.npg ≤ 2 ^ 57

/-- Used pages of a function, and its quota (R339). -/
def State.usedPages (s : State) (fn : Nat) : Nat := s.rd (s.fnBlock fn + 20) 4
def State.setUsed (s : State) (fn n : Nat) : State := s.wr (s.fnBlock fn + 20) 4 n
def State.quota (s : State) (fn : Nat) : Nat := s.rd (s.fnBlock fn + 12) 4
def State.pool (s : State) (fn : Nat) : Nat := fld (s.rd (s.fnBlock fn + 24) 8) 0 57
def State.poolCount (s : State) (fn : Nat) : Nat := s.rd (s.pool fn) 8

/-- Pop the top page of the pool. -/
def State.poolPop (s : State) (fn : Nat) : State × Nat :=
  let k := s.poolCount fn
  (s.wr (s.pool fn) 8 (k - 1), s.rd (s.pool fn + 8 * k) 8)
def State.poolPush (s : State) (fn page : Nat) : State :=
  let k := s.poolCount fn
  (s.wr (s.pool fn + 8 + 8 * k) 8 page).wr (s.pool fn) 8 (k + 1)

/-- QUOTA or NOPAGE for `n` pages (R349). -/
def State.pageStatus (s : State) (fn n : Nat) : Option Nat :=
  if s.quota fn < s.usedPages fn + n then some 2 else if s.poolCount fn < n then some 3 else none

/-- A stage-2 fault of the paging service is posted, and the request waits for the answer (R343). -/
def State.serviceHold (s : State) (ctx va : Nat) (f : XFault) : State :=
  let (t, k) := s.postFault (s.ctxWho ctx) va f
  t.modCtx ctx (fun c => { c with held := some k })

/-- How a stage-2 access of the service ends the event when it does not succeed. -/
def State.serviceStop (s : State) (ctx va : Nat) : EStop → State
  | .hold t _ f => t.serviceHold ctx va f
  | .stop _ => s
  | .wait t => t

/-- What stage 2 makes of a GPA that the service accesses, as the access of a context (R336, R345, R347). -/
def State.gpaXlat (s : State) (fn gpa : Nat) (acc : Acc) : Eng Xlat :=
  match s.stage2 (s.machOf fn) gpa acc with
  | .error f => .error (.hold s gpa f)
  | .ok t =>
    if acc = .write ∧ t.log.any (fun e => !e.2) ∧ !s.dlrRoom (s.machOf fn) then .error (.hold s gpa ⟨2, 2, 0, gpa, .write, true⟩)
    else .ok { pa := t.pa, gpa := gpa, w := t.w, x := t.x, sh := t.sh, mg := false, pw := 0, leafBase := gpa / t.size * t.size, leafSize := t.size
               dirty := match t.log with
                 | some (a, false) => some (a, gpa / 65536 * 65536 + t.level)
                 | _ => none }

/-- `n` bytes at a GPA are ready to be written by the service: mapped, logged dirty, held by no agent outside. -/
def State.serviceReady (s : State) (fn ctx gpa n : Nat) : Eng State :=
  (s.gpaXlat fn gpa .write).bind fun x =>
  if s.snoopBusy x.pa n true then .error (.wait (s.sendSnoops x.pa n true)) else .ok (s.logDirty (s.ctxWho ctx) x)

/-- Write a page by GPA; every line is written whole (R215), and no cache holds it. -/
def State.pageWrite (s : State) (fn gpa : Nat) (l : List Byte) : State :=
  match s.stage2 (s.machOf fn) gpa .write with
  | .ok x =>
    { (s.uncacheRange (x.pa / 128) (l.length / 128)).wrBig x.pa l with
      poison := s.poison.filter (fun k => !(x.pa / 128 ≤ k && k < (x.pa + l.length) / 128)) }
  | .error _ => s

/-- Map one page more of an APPEND at the leaf at `leaf`. -/
def State.appendPage (s : State) (fn leaf : Nat) : State :=
  let (s, page) := s.poolPop fn
  (s.pageWrite fn page (List.replicate 65536 0)).wr leaf 8 (page + 7)

/-- The leaves of an APPEND, each an invalid one of level 0 in an existing table; none where one is not (R349). -/
def State.appendLeaves (s : State) (fn ctx : Nat) : List Nat → Except XFault (Option (List (Nat × Nat)))
  | [] => .ok (some [])
  | va :: l => (s.leafSlot fn ctx va).bind fun e => match e with
    | some a => if bitN (s.rd a.1 8) 0 then .ok none else (s.appendLeaves fn ctx l).map (fun r => r.map (a :: ·))
    | none => .ok none

/-- The pages on top of the pool, in the order in which they are popped. -/
def State.poolTop (s : State) (fn n : Nat) : List Nat := (List.range n).map (fun i => s.rd (s.pool fn + 8 * (s.poolCount fn - i)) 8)

/-- `APPEND`: the request at HEAD is served (R348, R349). A stage-2 fault that the service meets holds it; a declined one ends it
with BADREQ (log 49). -/
def execAppend (ctx : Nat) (s : State) : Host.Outcome State Fault Refusal :=
  .next (
    let fn := s.ctxFn ctx
    match s.prqHead ctx, s.ctx? ctx with
    | some q, some c =>
      if q.op = 2 then s
      else match c.held with
        | some (_, 0) => (s.modCtx ctx (fun c => { c with held := none })).prqDone ctx q 4
        | some _ => s
        | none =>
          if q.op ≠ 1 ∨ !q.ok then s.prqDone ctx q 4
          else match s.appendLeaves fn ctx ((List.range q.npg).map (fun i => q.va + 65536 * i)) with
            | .error f => s.serviceHold ctx q.va f
            | .ok none => s.prqDone ctx q 4
            | .ok (some leaves) => match s.pageStatus fn q.npg with
              | some st => (if st = 2 then s.count fn 5 1 else s).prqDone ctx q st
              | none =>
                match (foldE (fun (s : State) a => s.serviceReady fn ctx a 8) s (leaves.map Prod.snd)).bind
                    (fun s => foldE (fun (s : State) p => s.serviceReady fn ctx p 65536) s (s.poolTop fn q.npg)) with
                | .error e => s.serviceStop ctx q.va e
                | .ok s =>
                  let s := s.setUsed fn (s.usedPages fn + q.npg)
                  (leaves.foldl (fun (s : State) a => s.appendPage fn a.1) s).prqDone ctx q 1
    | _, _ => s)

/-- No TLB of the device holds the page. -/
def State.dropPage (s : State) (ctx va : Nat) : State := s.invalidate (ctx * 2 ^ 48) va

/-- The generation word of a promotion: its value, or why it has none. -/
def State.hintGen (s : State) (ctx : Nat) (q : PageReq) : Except Fate Nat :=
  match s.fate (s.ctxWho ctx) q.hgaddr false with
  | .ok x => if s.poisoned x.pa 8 then .error .poison else .ok (s.rd x.pa 8)
  | f => .error f

/-- Does the generation word hold the request's value? A fault holds the request; one that cannot be read does not. -/
def State.hintHolds (s : State) (ctx : Nat) (q : PageReq) : Except XFault Bool := match s.hintGen ctx q with
  | .ok v => .ok (v == q.hgen)
  | .error (.fault f) => .error f
  | .error _ => .ok false

/-- The service clears W of the leaf that it protects, and the copy begins. -/
def State.startCopy (s : State) (fn ctx : Nat) (q : PageReq) (leaf : Nat × Nat) : Eng State :=
  (s.serviceReady fn ctx leaf.2 8).map fun s =>
  let e := s.rd leaf.1 8
  let (s, page) := s.poolPop fn
  let s := (s.setUsed fn (s.usedPages fn + 1)).wr leaf.1 8 (putFld e 2 1 0)
  (s.dropPage ctx q.va).modCtx ctx (fun c => { c with promote := some ⟨q.va, page, leaf.1, leaf.2, e⟩ })

/-- `PROMOTE`: the request at HEAD is started: the page is write-protected and its copy begins (R350). A fault holds the request;
a declined one ends it with STALE (log 49). -/
def execPromote (ctx : Nat) (s : State) : Host.Outcome State Fault Refusal :=
  .next (
    let fn := s.ctxFn ctx
    match s.prqHead ctx, s.ctx? ctx with
    | some q, some c =>
      if q.op ≠ 2 ∨ c.promote.isSome then s
      else match c.held with
        | some (_, 0) => (s.modCtx ctx (fun c => { c with held := none })).prqDone ctx q 5
        | some _ => s
        | none => match s.leafSlot fn ctx q.va with
          | .error f => s.serviceHold ctx q.va f
          | .ok none => s.prqDone ctx q 4
          | .ok (some leaf) =>
            let e := s.rd leaf.1 8
            if q.npg ≠ 1 ∨ !q.ok ∨ !bitN e 0 ∨ malformed e 0 true then s.prqDone ctx q 4
            else match s.hintHolds ctx q with
              | .error f => s.serviceHold ctx q.hgaddr f
              | .ok false => s.prqDone ctx q 5
              | .ok true => match s.pageStatus fn 1 with
                | some st => s.prqDone ctx q st
                | none => match s.startCopy fn ctx q leaf with
                  | .ok t => t
                  | .error e => s.serviceStop ctx q.va e
    | _, _ => s)

/-- Copy a page between two GPAs, with the poison marks of its lines (R228). -/
def State.pageCopy (s : State) (fn ctx src dst : Nat) : Eng State :=
  (s.gpaXlat fn src .read).bind fun x =>
  (s.gpaXlat fn dst .write).bind fun y =>
  if s.snoopBusy x.pa 65536 false then .error (.wait (s.sendSnoops x.pa 65536 false))
  else (s.serviceReady fn ctx dst 65536).map fun s =>
    let bad := (List.range 512).filter (fun i => s.poisonedLine (x.pa / 128 + i))
    bad.foldl (fun (t : State) i => t.poisonLine (y.pa / 128 + i)) (s.pageWrite fn dst (s.rdN x.pa 65536))

/-- The service settles the writes that it held (R350). -/
def State.serviceEnd (s : State) (ctx va : Nat) : State :=
  let s := (s.modCtx ctx (fun c => { c with promote := none, held := none })).dropPage ctx va
  (s.faults.filter (fun r => r.paused && r.stage == 1 && r.ctx == ctx && r.va.toNat / 65536 == va / 65536)).foldl State.retryRecord s

/-- The promotion is discarded: the page goes back to the pool, the leaf's W is restored, STATUS is STALE. -/
def State.promoteStale (s : State) (fn ctx : Nat) (q : PageReq) (p : Promotion) : State :=
  let now := s.rd p.leaf 8
  let s := (s.poolPush fn p.new).setUsed fn (s.usedPages fn - 1)
  let s := s.wr p.leaf 8 (putFld now 2 1 (fld p.was 2 1))
  ((s.count fn 4 1).prqDone ctx q 5).serviceEnd ctx p.va

/-- The compare-and-swap of the leaf succeeded: the page is the new copy. -/
def State.promoteDone (s : State) (ctx : Nat) (q : PageReq) (p : Promotion) : State :=
  let now := s.rd p.leaf 8
  let s := (s.wr p.leaf 8 (putFld (putFld now 16 36 (p.new / 65536)) 2 1 1)).wr (q.slot + 24) 8 (leafAddr p.was)
  (s.prqDone ctx q 1).serviceEnd ctx p.va

/-- `PROMOTE_COPY_DONE`: the copy is complete; the generation word is read again, and the promotion is committed or discarded
(R350). -/
def execPromoteCopyDone (ctx : Nat) (s : State) : Host.Outcome State Fault Refusal :=
  .next (
    let fn := s.ctxFn ctx
    match s.prqHead ctx, (s.ctx? ctx).bind (fun c => c.promote.map (fun p => (p, c.held))) with
    | some q, some (p, held) => match held with
      | some (_, 0) => s.promoteStale fn ctx q p
      | some _ => s
      | none => match s.pageCopy fn ctx (leafAddr p.was) p.new with
        | .error e => s.serviceStop ctx p.va e
        | .ok s => match s.hintHolds ctx q with
          | .error f => s.serviceHold ctx q.hgaddr f
          | .ok good => match s.serviceReady fn ctx p.slot 8 with
            | .error e => s.serviceStop ctx p.va e
            | .ok s => if good && s.rd p.leaf 8 == putFld p.was 2 1 0 then s.promoteDone ctx q p else s.promoteStale fn ctx q p
    | _, _ => s)

/-! ### Function-level reset -/

/-- Kill every fault domain of a context that has work, for reason 4. -/
def State.killContext (s : State) (ctx : Nat) : State :=
  (((s.work.filter (fun w => w.ctx == ctx)).map (·.fdom) ++ (s.wgs.filter (fun w => w.ctx == ctx)).map (·.fdom)).eraseDups).foldl (fun (s : State) d => s.killDomain ctx d 4 0 0 0 0) s

/-- `FUNCTION_LEVEL_RESET`: every context of a virtual function is killed as by KILL (R355). -/
def execFunctionLevelReset (fn : Nat) (s : State) : Host.Outcome State Fault Refusal :=
  .next (if fn < 64 then (s.ctxsOf fn).foldl State.killContext s else s)

end Sys2Proof.Machine
end

