-- ==== Sys2Proof/Machine/SaveImage.lean ====
section
/-! DEFINITION. The bytes of a workgroup's save image (R327): what the masks of R281 keep, the parts in the rule's order,
the header. The layout inside a part is the model's own where the spec gives none (log 10). -/

namespace Sys2Proof.Machine

/-! ### What is kept (R281, R326) -/

/-- Live granules and registers. -/
structure Masks where
  v : BitVec 12
  h : BitVec 16
  m : BitVec 32
  acc : BitVec 32
  deriving DecidableEq, Repr

/-- The whole of an allocation. -/
def Masks.whole : Masks := ⟨BitVec.allOnes 12, BitVec.allOnes 16, BitVec.allOnes 32, BitVec.allOnes 32⟩
/-- The union of the masks of side-table entries. -/
def Masks.union (l : List SideEntry) : Masks :=
  l.foldl (fun k e => ⟨k.v ||| e.vmask, k.h ||| e.hmask, k.m ||| e.mmask, k.acc ||| e.accmask⟩) ⟨0, 0, 0, 0⟩

/-- The side-table entry of a point (R281). -/
def Image.entry (i : Image) (hdr : Word64) (widx : Nat) : Option SideEntry :=
  i.side.find? (fun e => e.widx == widx && va57 (i.text.toNat + 4 * e.hoff) == hdr)
def State.entryOf (s : State) (g : Group) (f : Frag) : Option SideEntry :=
  (s.image? (s.wg g.wid).image).bind (fun i => i.entry f.hdr f.widx)

/-- What a group's image keeps: with a Mule, or a fragment that waits for a fusion, the whole allocation; else the union of
the masks of the entries of the fragments that no trap level stops (R322, R326). -/
def State.liveMasks (s : State) (g : Group) : Masks :=
  if g.mule.isSome || g.frags.any (fun f => f.wait == .fuse) then Masks.whole
  else Masks.union ((g.frags.filter (fun f => !g.stopped f)).filterMap (s.entryOf g))

/-- Everything else is restored as zero (R281, R327). -/
def Group.masked (g : Group) (k : Masks) : Group :=
  { g with
    vregs := g.vregs.filter (fun e => k.v.getLsbD (e.1 / 32 / 16))
    hregs := g.hregs.filter (fun e => k.h.getLsbD (e.1 / 32))
    mregs := g.mregs.filter (fun e => k.m.getLsbD (e.1 / 2048))
    acc := g.acc.filter (fun e => k.acc.getLsbD (e.1 / 64 / 32)) }

/-- A fragment as it is saved: the instruction that it stands at is issued again (R184); one that has arrived at a barrier
stays counted (R28). -/
def Frag.forSave (f : Frag) : Frag :=
  { f with
    clause := none
    aged := false
    arrived := (match f.wait with
      | .bar n => some (.bar n)
      | .gang n => some (.gang n)
      | _ => f.arrived)
    wait := (match f.wait with
      | .fuse => .fuse
      | .trap c v t h d p => .trap c v t h d p
      | _ => .none) }

/-- A group as it is saved (R49, R117, R138, R326, R327). -/
def State.groupSaved (s : State) (g : Group) : Group :=
  { g.masked (s.liveMasks g) with
    frags := g.frags.map Frag.forSave
    apx := none
    streams := g.streams.map (fun (w : Stream) => { w with ahead := [] })
    mule := g.mule.map (fun (m : Mule) => { m with clause := none, fault := none, counter := false }) }

/-! ### Bytes -/

/-- Numbers as doublewords. -/
def dwords (l : List Nat) : List Byte := (l.map (leBytes 8)).flatten
/-- A list of records behind its length. -/
def counted {α : Type} (f : α → List Nat) (l : List α) : List Nat := l.length :: (l.map f).flatten

def waitCode : Wait → Nat
  | .none => 1
  | .bar n => 2 + n
  | .gang n => 32 + n
  | .fuse => 64
  | .trap _ _ _ _ _ _ => 65
  | _ => 0
def optWait : Option Wait → Nat
  | some w => waitCode w
  | none => 0
/-- A trap that waits. -/
def trapWords : Wait → List Nat
  | .trap c v t h d p => [c, v.toNat, b2n t.isSome, t.getD 0, b2n h, b2n d, b2n p.isSome, (p.getD (0, 0)).1, (p.getD (0, 0)).2]
  | _ => []
def Join.words (j : Join) : List Nat := [j.id, j.addr.toNat, j.depth.toNat]
def SLevel.words (l : SLevel) : List Nat :=
  [l.id, l.recon.toNat, l.depth.toNat, l.oMask.toNat, l.oHdr.toNat, l.oWidx, l.oDepth.toNat, (match l.oState with
    | .running => 0
    | .arrived => 1
    | .exited => 2), waitCode l.oWait, l.jbase] ++ counted (fun n => [n]) l.oChain ++ counted Join.words l.oJoins
def Frag.words (f : Frag) : List Nat :=
  [f.fid, f.mask.toNat, f.hdr.toNat, f.widx, f.depth.toNat, f.level, f.age, waitCode f.wait, optWait f.arrived] ++ trapWords f.wait ++
  counted Join.words f.joins ++ counted (fun n => [n]) f.chain ++ counted SLevel.words f.serial
def TrapBank.words (b : TrapBank) : List Nat := [b.cause.toNat, b.ret.toNat, b.val.toNat, b.save.toNat, b.spill.toNat, b.frag]
def Mule.words (m : Mule) : List Nat :=
  [m.hdr.toNat, m.widx, m.depth.toNat, m.preds.toNat, b2n m.ended] ++ (List.range 32).map (fun i => (SMap.get 0 m.sregs i).toNat)

/-- The granules and registers that the masks keep, of those that the group holds (R281). -/
def Group.liveBytes (g : Group) (k : Masks) : List Byte :=
  let pick (n : Nat) (p : Nat → Bool) : List Nat := (List.range n).filter p
  ((pick (min 12 g.vside) (fun i => k.v.getLsbD i)).map (fun i =>
    ((List.range 512).map (fun j => leBytes 4 (g.vreg (16 * i + j / 32) (j % 32)).toNat)).flatten)).flatten ++
  ((pick (min 32 g.mside) (fun i => k.m.getLsbD i)).map (fun i => (List.range 2048).map (g.mbyte i))).flatten ++
  ((pick 16 (fun i => k.h.getLsbD i)).map (fun i => dwords ((List.range 32).map (fun t => (g.href i t).toNat)))).flatten ++
  ((pick (min 32 g.tiles) (fun i => k.acc.getLsbD i)).map (fun i =>
    ((List.range 2048).map (fun j => leBytes 4 (g.accWord i (j / 64) (j % 64)).toNat)).flatten)).flatten

/-- The part of one group (R327). -/
def Group.imageBytes (g : Group) (k : Masks) : List Byte :=
  dwords (counted Frag.words g.frags) ++
  dwords ([g.tlevel] ++ g.bank1.words ++ g.bank2.words ++ [g.tvec.toNat]) ++
  dwords (counted (fun e => match e.2 with
    | some v => [e.1, 1, v.toNat]
    | none => [e.1, 0, 0]) g.pending) ++
  dwords ((List.range 48).map (fun i => (g.sreg i).toNat)) ++ dwords ((List.range 7).map (fun i => (g.pred i).toNat)) ++
  dwords [g.vside, g.mside, g.tiles, g.srstate.toNat, g.cvstate.toNat, g.seq.toNat] ++
  (g.streams.map (fun w => leBytes 64 (encodeStream w))).flatten ++
  g.liveBytes k ++
  dwords (counted Mule.words g.mule.toList) ++ dwords (counted (counted (fun (x : Word64) => [x.toNat])) g.queues)

/-- A side-log entry in the layout of R82. -/
def LogEntry.imageBytes (e : LogEntry) : List Byte :=
  leBytes 160 ((e.bytes.map (fun b => b.2.toNat * 2 ^ (256 + 8 * b.1))).sum + (e.bytes.map (fun b => 2 ^ (128 + b.1))).sum + e.line.toNat * 2 ^ 78 +
    e.seq.toNat * 2 ^ 48 + e.op * 2 ^ 44 + e.ty * 2 ^ 40 + e.scope * 2 ^ 36)

def Barrier.words (b : Barrier) : List Nat := [b.arrived, b.start.toNat, b2n b.isOpen, b.exp, b2n b.stalled]
def Twin.words (t : Twin) : List Nat := [t.base0.toNat, t.base1.toNat, t.size.toNat, t.gen.toNat, t.pend.toNat, b2n t.flipping, b2n t.live]
def WMap.words (m : WMap) : List Nat := [m.gbase.toNat, m.nblk, b2n m.wr, m.wblk] ++ counted (fun b => match b with
  | Block.empty => [0]
  | .clean => [1]
  | .dirty => [2]) m.blocks

/-- The part of the workgroup (R327). -/
def Workgroup.imageBytes (w : Workgroup) (gs : List Group) : List Byte :=
  w.winN 0 w.winSize ++
  dwords (counted (fun e => match e.2 with
    | some m => e.1 :: m.words
    | none => [e.1]) w.maps) ++
  dwords (counted (fun e => e.1 :: e.2.words) w.twins) ++ dwords (counted (fun e => e.1 :: e.2.words) w.bars) ++
  dwords (counted (fun (b : Sub) => [b.idx, b.next]) w.subs) ++
  (gs.map (fun g => dwords [g.spq.length] ++ g.spq.flatten)).flatten ++ dwords (counted (fun l => [l]) w.locks)

/-- The body of an image: the groups, their side log in SEQ order, the workgroup (R327). -/
def State.imageBody (s : State) (w : Workgroup) (gs : List Group) : List Byte :=
  (gs.map (fun g => (s.groupSaved g).imageBytes (s.liveMasks g))).flatten ++ ((gs.map (·.sideLog)).flatten.map LogEntry.imageBytes).flatten ++
  w.imageBytes gs

/-- The 32-byte header of an image (R327). -/
def imageHeader (w : Workgroup) (len : Nat) (isSealed : Bool) (ver : Nat) : List Byte :=
  leBytes 32 (len * 2 ^ 192 + ver * 2 ^ 128 + w.rcb * 2 ^ 71 + w.wgx % 2 ^ 32 * 2 ^ 32 + w.ctx % 2 ^ 16 * 2 ^ 16 + w.ngrp % 256 * 2 + b2n isSealed)

/-- Bytes of a workgroup's image in the save pool. -/
def State.imageLen (s : State) (w : Workgroup) : Nat := 48 + (s.imageBody w (s.groupsOf w.wid)).length

end Sys2Proof.Machine
end

