-- ==== Sys2Proof/Machine/Place.lean ====
section
/-! DEFINITION. Placement (R309 to R313), the start of workgroups (R13 to R15, R93, R114), pre-emption (R281, R313, R326 to
R328), sealing (R330, R331) and restore (R329). -/

namespace Sys2Proof.Machine

/-! ### What fits where (R40, R310, R312) -/

/-- A workgroup with its groups, as it will be resident: a new one, or one that is restored. -/
structure StartUnit where
  wg : Workgroup
  groups : List Group
  fresh : Bool := false

/-- Free granules, tiles, Mules of partition `p` of a core, and whether its sparsity queue is free (R32, R45, R113, R114). A
Mule that has ended stays its group's until the group ends: the model's choice, for R114 does not say when it is free
(log 51). -/
def State.partRoom (s : State) (pl : Place) (p : Nat) : Nat × Nat × Nat × Bool :=
  let gs := s.groups.filter (fun g => g.part == p && sameCore (s.wg g.wid).place pl)
  (128 - (gs.map (fun g => g.vside + g.mside)).sum, 32 - (gs.map (·.tiles)).sum, 8 - (gs.filter (fun g => g.mule.isSome)).length,
    !gs.any (·.sparse))

/-- Do the groups fit the partitions of a core with this P0? -/
def State.partsFit (s : State) (u : StartUnit) (pl : Place) : Bool := (List.range 4).all (fun p =>
  let gs := u.groups.filter (fun g => (pl.p0 + g.gidx) % 4 == p)
  let (gran, tiles, mules, spq) := s.partRoom pl p
  decide ((gs.map (fun g => g.vside + g.mside)).sum ≤ gran) && decide ((gs.map (·.tiles)).sum ≤ tiles) &&
  decide ((gs.filter (fun g => g.mule.isSome)).length ≤ mules) && decide ((gs.filter (·.sparse)).length ≤ (if spq then 1 else 0)))

/-- The lowest place for `n` bytes among ranges in use, below `limit`. -/
def firstHole (used : List (Nat × Nat)) (lo limit n : Nat) : Option Nat :=
  let ok (b : Nat) : Bool := decide (lo ≤ b) && decide (b + n ≤ limit) && used.all (fun e => e.2 == 0 || decide (b + n ≤ e.1) || decide (e.1 + e.2 ≤ b))
  ((lo :: used.map (fun e => e.1 + e.2)).filter ok).foldl (fun (r : Option Nat) b => match r with
    | none => some b
    | some c => some (min b c)) none

/-- Workgroups whose windows lie in a cluster. -/
def State.clusterWgs (s : State) (pl : Place) : List Workgroup := s.wgs.filter (fun w => w.place.die == pl.die && w.place.cluster == pl.cluster)
/-- A window of the cluster's 1 MiB pool (R40), contiguous as R310 says. Of several holes the lowest that is large enough is
taken: the model's choice, for the spec does not say where a window lies in the pool (log 51). -/
def State.windowHole (s : State) (pl : Place) (n : Nat) : Option Nat :=
  firstHole ((s.clusterWgs pl).map (fun w => (w.winBase, w.winSize))) 0 (2 ^ 20) n
def State.freeScratch (s : State) (pl : Place) : Nat := 2 ^ 20 - ((s.clusterWgs pl).map (·.winSize)).sum

/-- Does CORES of every node on the path allow the core (R10, R299)? -/
def State.coresOk (s : State) (rcb : Nat) (pl : Place) : Bool := (s.nodesOf rcb).all (fun n =>
  let l := pl :: (s.wgs.filter (fun w => s.inSubtree n w.rcb)).map (·.place)
  decide ((coresOf l).length ≤ (s.budget n).cores))

/-- The global number of a core. -/
def coreNum (pl : Place) : Nat := pl.die * 256 + pl.cluster * 4 + pl.core

/-- A core that a reservation of another gang keeps from work of this priority (R312). -/
def State.isReserved (s : State) (rcb prio : Nat) (pl : Place) : Bool := s.reserved.any (fun e =>
  e.2.1 != rcb && e.2.2.1.any (fun q => sameCore q pl) && (match s.workOf e.2.1 with
    | some w => decide (prio ≤ w.prio)
    | none => false))

/-- The scheduler has placed no unit on the core within 64 cycles (R309). -/
def State.coreReady (s : State) (pl : Place) : Bool :=
  let t := SMap.get 0 s.lastStart (coreNum pl)
  t == 0 || decide (64 ≤ (s.clock + 1 - t).toNat)

/-- The unit fits a core with a P0: where its window will lie (R310). -/
def State.fitAt (s : State) (u : StartUnit) (pl : Place) : Option Nat :=
  if pl.die < s.dies ∧ pl.cluster < 64 ∧ pl.core < 4 ∧ pl.p0 < 4 ∧ s.coreReady pl ∧ s.coresOk u.wg.rcb pl ∧
      !s.isReserved u.wg.rcb u.wg.prio pl ∧ s.clusterDomain (gcluster pl) = s.ctxDomain u.wg.ctx ∧ (u.groups.map (fun g => g.sideLog.length)).sum ≤ s.sideFree pl ∧ s.partsFit u pl then
    s.windowHole pl u.wg.winSize
  else none

/-- The lowest P0 with which the unit fits a core. -/
def State.fitCore (s : State) (u : StartUnit) (pl : Place) : Option Place :=
  ((List.range 4).map (fun p => ({ pl with p0 := p } : Place))).find? (fun q => (s.fitAt u q).isSome)

/-- Every core of the device. -/
def State.allCores (s : State) : List Place := ((List.range s.dies).map (fun d => (List.range 256).map (coreOf d))).flatten

/-- Of two fitting places: the lowest P0, then most free scratchpad, then the lowest core number (R310). -/
def State.betterPlace (s : State) (a b : Place) : Bool :=
  if a.p0 ≠ b.p0 then a.p0 < b.p0
  else if s.freeScratch a ≠ s.freeScratch b then s.freeScratch b < s.freeScratch a
  else coreNum a < coreNum b

/-- The scheduler's choice for one workgroup (R310). -/
def State.bestPlace (s : State) (u : StartUnit) : Option Place :=
  (s.allCores.filterMap (s.fitCore u)).foldl (fun (b : Option Place) x => match b with
    | none => some x
    | some y => if s.betterPlace x y then some x else b) none

/-! ### Becoming resident -/

/-- The lines of a lock list that can be locked again (R199): each against the locks of the others and those of the list
before it. -/
def State.relock (s : State) (l : List Nat) : List Nat :=
  l.foldl (fun kept line =>
    let ways := (((s.wgs.map (·.locks)).flatten ++ kept).eraseDups).filter (fun k => k != line && s.sameSet line k)
    if ways.length < 8 then kept ++ [line] else kept) []

/-- What remains of released bytes outside a window, and what of them a context's window takes in (R333). -/
def Left.outside (cluster base n : Nat) (e : Left) : List Left :=
  if e.cluster ≠ cluster then [e]
  else
    let low := min (e.base + e.size) base
    let high := max e.base (base + n)
    [{ e with size := low - e.base }, { e with base := high, size := e.base + e.size - high }].filter (fun x => x.size != 0)
def Left.inside (cluster ctx base n : Nat) (e : Left) : Option (Nat × Nat) :=
  let low := max e.base base
  let high := min (e.base + e.size) (base + n)
  if e.cluster = cluster ∧ e.ctx = ctx ∧ low < high then some (low - base, high - low) else none

/-- A unit becomes resident at a place where it fits. Bytes that another context released read as zero in a new window; those
of the same context, where it is not protected, may still be there (R333). -/
def State.seat (s : State) (u : StartUnit) (pl : Place) : Option State :=
  match s.fitAt u pl with
  | none => none
  | some base =>
    let c := gcluster pl
    let w := { u.wg with place := pl, winBase := base, locks := s.relock u.wg.locks }
    let w := if u.fresh ∧ !w.prot then { w with left := s.leftovers.filterMap (Left.inside c w.ctx base w.winSize) } else w
    let t := { s with
      wgs := s.wgs ++ [w]
      groups := s.groups ++ u.groups.map (fun (g : Group) => { g with part := (pl.p0 + g.gidx) % 4, since := s.clock.toNat, frags := g.frags.map (fun (f : Frag) => { f with last := s.clock }) })
      leftovers := (s.leftovers.map (Left.outside c base w.winSize)).flatten
      lastStart := SMap.set 0 s.lastStart (coreNum pl) (s.clock + 1) }
    some ((w.locks.foldl State.fillL2 t).writeHeld u.wg.rcb)

/-- Every unit at its place, or none. -/
def State.seatAll (s : State) : List (StartUnit × Place) → Option State
  | [] => some s
  | (u, pl) :: l => (s.seat u pl).bind (fun t => t.seatAll l)

/-- Places of a gang: distinct cores of one die in connected clusters (R15). -/
def reachable (all : List Nat) : Nat → List Nat → List Nat
  | 0, l => l
  | n + 1, l => reachable all n (all.filter (fun c => l.any (fun d => meshNear c d)))
def gangPlaces (l : List Place) : Bool :=
  let cl := (l.map (·.cluster)).eraseDups
  (l.map (·.die)).eraseDups.length ≤ 1 && (coresOf l).length == l.length &&
  (reachable cl cl.length (cl.take 1)).length == cl.length

/-- Every way to take one element of a list. -/
def picks {α : Type} : List α → List (α × List α)
  | [] => []
  | a :: l => (a, l) :: (picks l).map (fun e => (e.1, a :: e.2))

/-- Places found one after the other from a first cluster on, each next one in a cluster that is near one in use; every
choice of the next workgroup and core is tried before the search gives up. `n` is the number of workgroups. -/
def State.growGang (s : State) (die first : Nat) (used : List (Nat × Place)) (us : List (Nat × StartUnit)) : Nat → Option (List (Nat × Place))
  | 0 => some used
  | n + 1 =>
    let near := (List.range 64).filter (fun c => if used.isEmpty then c == first else used.any (fun p => meshNear c p.2.cluster))
    let cores := ((near.map (fun c => (List.range 4).map (fun k => coreOf die (4 * c + k)))).flatten).filter (fun p => !used.any (fun q => sameCore p q.2))
    firstSome (fun (e : (Nat × StartUnit) × List (Nat × StartUnit)) =>
      firstSome (fun core => (s.fitCore e.1.2 core).bind (fun pl => (s.seat e.1.2 pl).bind (fun t =>
        t.growGang die first ((e.1.1, pl) :: used) e.2 n))) cores) (picks us)

/-- The places of a gang in the order of its workgroups. -/
def inOrder (l : List (Nat × Place)) : List Place := (List.range l.length).filterMap (fun i => (l.find? (fun e => e.1 == i)).map Prod.snd)

/-- Places for a unit of the decision procedure: one workgroup or a gang (R309). `hint` names a gang's places, or those of a
restore; without it the model looks for them itself. -/
def State.placesFor (s : State) (isGang : Bool) (us : List StartUnit) (hint : List Place) : Option (List Place) :=
  match us with
  | [] => none
  | u :: _ =>
    if !isGang then (s.bestPlace u).map (fun p => [p])
    else if !hint.isEmpty then (if hint.length = us.length ∧ gangPlaces hint then some hint else none)
    else firstSome (fun d => firstSome (fun c => (s.growGang d c [] (us.zipIdx.map Prod.swap) us.length).map inOrder) (List.range 64)) (List.range s.dies)

/-! ### The unit of a candidate (R309) -/

/-- The footprint of a workgroup of a launch or wave: groups, vector and matrix granules, KiB, tiles (R186, R282). -/
def State.footOf (s : State) (rcb : Nat) : Wave := match s.waves.find? (fun w => w.rcb == rcb) with
  | some w => w
  | none => match s.imageOf rcb with
    | some i => ⟨rcb, i.ngrp, i.vgran, i.mgran, i.scrk, i.acct⟩
    | none => ⟨rcb, 1, 0, 0, 0, 0⟩

/-- SRSTATE at a workgroup's start (R93). -/
def srSeed (seed wgx gidx : Nat) : BitVec 32 :=
  let x := BitVec.ofNat 32 seed ^^^ BitVec.ofNat 32 (wgx * 0x9E3779B9) ^^^ BitVec.ofNat 32 gidx
  if x = 0 then 1 else x

/-- Group `g` of a workgroup as it starts (R13, R93, R114, R309). -/
def State.newGroup (s : State) (ctx rcb wid wgx g : Nat) (f : Wave) : Group :=
  let img := (s.imageOf rcb)
  let arg := n64 (s.rcbD rcb 10)
  let sregs := SMap.set 0 [] 0 arg
  { gid := wid + 1 + g, wid := wid, gidx := g, sregs := sregs, vside := f.vgran, mside := f.mgran, tiles := f.acct
    role := (match img with
      | some i => i.roles.getD g .none
      | none => .none)
    srstate := srSeed (fld (s.rcbD (s.ctxRcb ctx) 8) 32 32) wgx g
    good := s.ctxGood ctx
    prev := s.ctxPrev ctx
    sparse := (match img with
      | some i => i.sparse.getLsbD g
      | none => false)
    mule := (match img with
      | some i => (i.mules.find? (fun m => m.1 == g)).map (fun m => { hdr := m.2, sregs := sregs })
      | none => none)
    frags := [{ fid := 0, mask := BitVec.allOnes 32, hdr := va57 (fld (s.rcbD rcb 8) 0 57) }] }

/-- Workgroup `wgx` of a launch or wave as it starts (R309). -/
def State.newUnit (s : State) (k : Work) (wid wgx size : Nat) : StartUnit :=
  let rcb := k.rcb
  let root := s.rcbD (s.ctxRcb k.ctx) 8
  let f := s.footOf rcb
  let prot := bitN root 2
  { wg := { blankWg with
      wid := wid, rcb := rcb, wgx := wgx, ctx := k.ctx, lnum := fld (s.rcbD rcb 11) 16 16
      gang := if k.gang < 2 then wgx else wgx / k.gang
      gangSize := size, ngrp := f.ngrp, fn := s.ctxFn k.ctx, fdom := k.fdom, world := s.ctxWorld k.ctx, prot := prot
      priv := bitN root 1, divtrap := bitN root 0, prio := k.prio, bwe := k.bwe, depth := s.rcbDepth rcb
      image := fld (s.rcbD rcb 9) 0 57, winSize := f.scrk * 1024 }
    fresh := true
    groups := (List.range f.ngrp).map (fun g => s.newGroup k.ctx rcb wid wgx g f) }

def State.nextWg (s : State) (rcb : Nat) : Nat := fld (s.rcbD rcb 14) 32 32
def State.nwg (s : State) (rcb : Nat) : Nat := fld (s.rcbD rcb 11) 32 32

/-- Workgroups of the next unit: one, or a gang (R15). -/
def State.unitSize (s : State) (k : Work) : Nat :=
  let left := s.nwg k.rcb - s.nextWg k.rcb
  if k.gang < 2 then min 1 left else min k.gang left

/-- Ids that a workgroup takes: its own, and one for each group. -/
def State.idStep (s : State) (rcb : Nat) : Nat := (s.footOf rcb).ngrp + 1

def State.freshUnits (s : State) (k : Work) : List StartUnit :=
  (List.range (s.unitSize k)).map (fun i => s.newUnit k (s.nextId + i * s.idStep k.rcb) (s.nextWg k.rcb + i) (if k.gang < 2 then 1 else s.unitSize k))

/-- Resources of units. -/
def unitRes (us : List StartUnit) : Res :=
  { gran := (us.map (fun u => (u.groups.map (fun g => g.vside + g.mside)).sum)).sum
    scrk := (us.map (fun u => u.wg.winSize / 1024)).sum
    acct := (us.map (fun u => (u.groups.map (·.tiles)).sum)).sum }

/-- A unit of the candidate can never be placed: FAIL (R309, R312, R314). -/
def State.neverFail (s : State) (k : Work) : Option Nat :=
  let f := s.footOf k.rcb
  let wgNever := neverFits f.ngrp f.vgran f.mgran f.acct || decide (1024 < f.scrk)
  let gangNever := wgNever || decide (256 < k.gang) || (s.nodesOf k.rcb).any (fun n => decide ((s.budget n).cores < k.gang))
  if 2 ≤ k.gang then (if gangNever then some 3 else none) else if wgNever then some 2 else none

/-- STATE of a candidate after placing: 3 while something of it is left to place, else 4 (R309, R313). -/
def State.afterPlace (s : State) (rcb : Nat) : State :=
  if s.nextWg rcb < s.nwg rcb ∨ s.saved.any (fun i => i.wg.rcb == rcb) then s.setRcbStateOnly rcb 3
  else { s.setRcbStateOnly rcb 4 with
    candidates := s.candidates.filter (· ≠ rcb), gangWait := SMap.set 0 s.gangWait rcb 0
    reserved := s.reserved.filter (fun e => e.2.1 ≠ rcb) }

/-- Do the CORES budgets on the path leave a unit enough cores: those not yet held, and those held on which it fits (R10,
R309)? -/
def State.coresRoom (s : State) (rcb : Nat) (us : List StartUnit) : Bool := (s.nodesOf rcb).all (fun n =>
  let l := coresOf ((s.wgs.filter (fun w => s.inSubtree n w.rcb)).map (·.place))
  let again := l.filter (fun (c : Nat × Nat × Nat) => us.any (fun u => (s.fitCore u (coreOf c.1 (4 * c.2.1 + c.2.2))).isSome))
  let b := (s.budget n).cores
  decide (l.length ≤ b) && decide (us.length ≤ (b - l.length) + again.length))

/-- The budgets on the path hold the unit (R309). -/
def State.pathRoom (s : State) (rcb : Nat) (us : List StartUnit) : Bool := s.budgetRoom rcb (unitRes us) && s.coresRoom rcb us

/-- A gang of a launch becomes resident, new or restored: its reservation is over, and it has not waited (R312). -/
def State.endReservation (s : State) (rcb : Nat) : State :=
  { s with reserved := s.reserved.filter (fun e => e.2.1 ≠ rcb), gangWait := SMap.set 0 s.gangWait rcb 0 }

/-- Start the next unit of a candidate, if its budgets and the cores allow (R309). -/
def State.tryStart (s : State) (k : Work) (hint : List Place) : Option State :=
  let us := s.freshUnits k
  if s.machPaused k.ctx ∨ us.isEmpty ∨ !s.pathRoom k.rcb us then none
  else match s.placesFor (2 ≤ k.gang) us hint with
    | none => none
    | some ps => (s.seatAll (us.zip ps)).map (fun t =>
        let d := t.rcbD k.rcb 14
        let t := { t with nextId := s.nextId + us.length * s.idStep k.rcb }.setRcbD k.rcb 14 (putFld d 32 32 (fld d 32 32 + us.length))
        (t.endReservation k.rcb).afterPlace k.rcb)

/-! ### Restore (R329, R331) -/

/-- The saved workgroups that are restored with one: a gang is restored whole (R313). -/
def State.savedUnit (s : State) (i : Saved) : List Saved :=
  if 2 ≤ i.wg.gangSize then s.saved.filter (fun j => j.wg.rcb == i.wg.rcb && j.wg.gang == i.wg.gang) else [i]

/-- CLOCK at which a saved watchdog count started, seen from now (R28). -/
def Barrier.shift (b : Barrier) (d : Word64) : Barrier := if b.isOpen then { b with start := d - b.start } else b

/-- A saved workgroup as it becomes resident again (R28, R123, R199, R329). -/
def State.savedAs (s : State) (i : Saved) : StartUnit :=
  { wg := { i.wg with
      bars := i.wg.bars.map (fun (n, b) => (n, b.shift s.clock)), stopping := false
      prio := (s.workOf i.wg.rcb).elim i.wg.prio (·.prio), bwe := (s.workOf i.wg.rcb).elim i.wg.bwe (·.bwe) }
    groups := i.groups.map (fun (g : Group) => { g with good := s.ctxGood i.wg.ctx, prev := s.ctxPrev i.wg.ctx }) }

/-- The engine's checks of a sealed image: the bytes are those that it sealed, and VER is the table's (R331, log 10). -/
def State.unsealOk (s : State) (i : Saved) : Bool :=
  !i.isSealed || (s.rdN i.addr i.written.length == i.written && s.seals.contains (sealKeyOf i.wg, i.ver))

/-- Barriers of a gang with their watchdogs running again, or held. -/
def State.shiftGang (s : State) (rcb num : Nat) : State :=
  { s with gangs := s.gangs.map (fun (g : Gang) => if g.rcb = rcb ∧ g.num = num then { g with bars := g.bars.map (fun (n, b) => (n, b.shift s.clock)) } else g) }

/-- Restore a unit, if it fits (R329); each of its lock lists is locked again as far as R199 allows. Answers that came while it was
saved take effect (R352). -/
def State.tryRestore (s : State) (i : Saved) (hint : List Place) : Option State :=
  let is := s.savedUnit i
  let us := is.map s.savedAs
  if !s.pathRoom i.wg.rcb us then none
  else
    let ps := match us, hint with
      | [u], [p] => if (s.fitAt u p).isSome then some [p] else none
      | _, _ => s.placesFor (2 ≤ i.wg.gangSize) us hint
    match ps with
    | none => none
    | some ps => (s.seatAll (us.zip ps)).map (fun t =>
        let t := t.shiftGang i.wg.rcb i.wg.gang
        let t : State := { t with saved := t.saved.filter (fun j => !is.any (fun k => k.id == j.id))
                                  seals := t.seals.filter (fun e => !is.any (fun k => k.isSealed && e == (sealKeyOf k.wg, k.ver))) }
        ((us.map (fun u => u.groups.map (·.gid))).flatten).foldl State.lateAnswers ((t.endReservation i.wg.rcb).afterPlace i.wg.rcb))

/-! ### Candidates (R309, R311) -/

/-- UCORES and CORES of a context. -/
def State.ctxShare (s : State) (ctx : Nat) : Nat × Nat := (fld (s.rcbD (s.ctxRcb ctx) 6) 48 16, (s.budget (s.ctxRcb ctx)).cores)

/-- Candidates with their place in the order in which they reached STATE 1; pre-emption does not change it. -/
def State.ranked (s : State) : List (Work × Nat) :=
  s.candidates.filterMap (fun r => (s.workOf r).map (fun w => (w, s.reached.idxOf r)))

def State.isWave (s : State) (w : Work) : Bool := s.rcbKind w.rcb == 4

/-- The place of a candidate among those of other contexts: a launch comes behind the waves of its context and priority
(items 3 and 4 of R311 as one order, log 51). -/
def State.candPlace (s : State) (l : List (Work × Nat)) (a : Work × Nat) : Nat :=
  if s.isWave a.1 then a.2
  else (l.filter (fun e => e.1.ctx == a.1.ctx && e.1.prio == a.1.prio && s.isWave e.1)).foldl (fun m e => max m e.2) a.2

/-- Does candidate `a` of the list come before `b` (R311)? -/
def State.candBefore (s : State) (l : List (Work × Nat)) (a b : Work × Nat) : Bool :=
  let (ua, ca) := s.ctxShare a.1.ctx
  let (ub, cb) := s.ctxShare b.1.ctx
  if a.1.prio ≠ b.1.prio then b.1.prio < a.1.prio
  else if ua * cb ≠ ub * ca then ua * cb < ub * ca
  else if a.1.ctx ≠ b.1.ctx then s.candPlace l a < s.candPlace l b
  else if s.isWave a.1 ≠ s.isWave b.1 then s.isWave a.1
  else a.2 < b.2

/-- A unit of the candidate could become resident now. -/
def State.canPlace (s : State) (k : Work) : Bool :=
  (s.tryStart k []).isSome || (s.saved.filter (fun i => i.wg.rcb == k.rcb)).any (fun i => (s.tryRestore i []).isSome)

/-- The candidates that come before `k`. -/
def State.earlier (s : State) (k : Work) : List Work :=
  let l := s.ranked
  match l.find? (fun e => e.1.rcb == k.rcb) with
  | none => []
  | some e => (l.filter (fun d => d.1.rcb != k.rcb && s.candBefore l d e)).map Prod.fst

/-- It is the candidate's turn: it is one, no kill waits to end it, and none before it can be placed (R309). -/
def State.turn (s : State) (k : Work) : Bool :=
  s.running && s.candidates.contains k.rcb && !s.doomed k.ctx k.fdom k.rcb &&
  (s.earlier k).all (fun w => (s.neverFail w).isSome || s.doomed w.ctx w.fdom w.rcb || !s.canPlace w)

/-- `WORKGROUP_START`: the next unit of a candidate starts, whole or not at all (R309). `places` are those of a gang; one
workgroup goes where R310 puts it. -/
def execWorkgroupStart (rcb : Nat) (places : List Place) (s : State) : Host.Outcome State Fault Refusal :=
  .next (match s.workOf rcb with
    | none => s
    | some k =>
      if !s.turn k ∨ s.nwg rcb ≤ s.nextWg rcb then s
      else match s.neverFail k with
        | some f => (s.rcbEnd rcb 7 f).recheckOrders
        | none => (s.tryStart k places).getD s)

/-- `WORKGROUP_RESTORE`: a saved workgroup is restored on a core (R329); a sealed image that fails its check kills its fault
domain for reason 6 (R331). -/
def execWorkgroupRestore (img : Nat) (place : Place) (s : State) : Host.Outcome State Fault Refusal :=
  .next (match s.saved.find? (fun i => i.id == img) with
    | none => s
    | some i => match s.workOf i.wg.rcb with
      | none => s
      | some k =>
        if !s.turn k then s
        else if !(s.savedUnit i).all s.unsealOk then s.killDomain i.wg.ctx k.fdom 6 0 0 0 0
        else (s.tryRestore i (if 2 ≤ i.wg.gangSize then [] else [place])).getD s)

/-! ### Pre-emption (R313, R326) -/

/-- A wait that is a pre-emption point (R29, R142, R184). One for answers about lines or for a counter to fall is not: it ends
by itself, and the instruction that stands there may have an entry of its own. -/
def Wait.isPoint : Wait → Bool
  | .none | .snoop | .full | .copying _ _ _ | .serve _ _ _ | .assist | .kite => false
  | _ => true

/-- A fragment at which the group may be saved: held at a pre-emption point, stopped by a trap, or before an instruction with
an entry. An assisted copy, a serving Kite and a training step come to their end first (R128, R138, R297); once the step has ended
the fragment is as one that nothing holds. -/
def State.atPoint (s : State) (g : Group) (f : Frag) : Bool := match f.wait with
  | .copying _ _ _ | .serve _ _ _ => false
  | .kite => !s.kites.any (fun k => k.training && k.ctx == (s.wg g.wid).ctx && k.die == (s.wg g.wid).place.die && k.cluster == (s.wg g.wid).place.cluster) &&
    (g.stopped f || (s.entryOf g f).isSome)
  | .none | .snoop | .full => g.stopped f || (s.entryOf g f).isSome
  | w => g.stopped f || w.isPoint

/-- A fragment that stays where it is: of a victim (R326), or of work that a waiting kill will end (R128). -/
def State.parked (s : State) (g : Group) (f : Frag) : Bool :=
  let w := s.wg g.wid
  (w.stopping && s.atPoint g f) || s.doomedWg w

/-- A command reads or writes the window of its workgroup, or lands on an object in it (R230). -/
def Cmd.usesWindow (c : Cmd) : Bool := c.readsWindow || c.writesWindow || (match c.src, c.object with
  | .win _, _ => true
  | _, some (.win _) => true
  | _, _ => false)

/-- Nothing of the workgroup is in flight (R326). -/
def State.drained (s : State) (wid : Nat) : Bool :=
  (s.groupsOf wid).all (fun g => g.flights.isEmpty && g.matrix.isEmpty && g.frags.all (s.atPoint g)) &&
  !s.cmds.any (fun c => c.wid == wid && c.usesWindow)

/-- The members of a workgroup's gang; a gang is saved whole (R313). -/
def State.gangOf (s : State) (w : Workgroup) : List Workgroup :=
  if 2 ≤ w.gangSize then s.wgs.filter (fun v => v.rcb == w.rcb && v.gang == w.gang) else [w]

/-- Where an image of `n` bytes goes in its function's save pool, beside the saved ones and `more` (R328). -/
def State.poolHole (s : State) (more : List (Nat × Nat × Nat)) (fn n : Nat) : Option Nat :=
  let base := (s.barReg fn 0x20).toNat
  let used := s.saved.map (fun i => (i.fn, i.addr, i.written.length)) ++ more
  firstHole ((used.filter (fun e => e.1 == fn)).map Prod.snd) base (base + (s.barReg fn 0x28).toNat) n

/-- The images of all of these fit the free pools together. -/
def State.imagesFit (s : State) (more : List (Nat × Nat × Nat)) : List Workgroup → Bool
  | [] => true
  | w :: l =>
    let n := s.imageLen w
    match s.poolHole more w.fn n with
    | none => false
    | some a => s.imagesFit (more ++ [(w.fn, a, n)]) l
def State.poolFits (s : State) (w : Workgroup) : Bool := s.imagesFit [] (s.gangOf w)

/-- The engine can seal the images of the workgroup's gang (R330). -/
def State.sealable (s : State) (w : Workgroup) : Bool :=
  let n := (s.gangOf w).length
  !w.prot || (decide (s.seals.length + n ≤ 4096) && (match s.ctx? w.ctx with
    | some c => decide (c.sealver.toNat + n < 2 ^ 64)
    | none => false))

/-- A workgroup is saved and leaves its core (R86, R326 to R328, R330). -/
def State.saveWg (s : State) (wid : Nat) : State :=
  let w := s.wg wid
  let gs := s.groupsOf wid
  let body := s.imageBody w gs
  let len := body.length
  match s.poolHole [] w.fn (48 + len) with
  | none => s
  | some addr =>
    let s := if w.prot then s.modCtx w.ctx (fun c => { c with sealver := c.sealver + 1 }) else s
    let (ver, key) := match s.ctx? w.ctx with
      | some c => (if w.prot then c.sealver else 0, c.sealKey)
      | none => (0, 0)
    let head := imageHeader w len w.prot ver.toNat
    let nonce := BitVec.ofNat 128 (w.ctx * 2 ^ 64 + ver.toNat)
    let bytes := if w.prot then head ++ leBytes 16 (Config.sealTag key nonce head body).toNat ++ (Config.sealBody key nonce head body).take len
      else head ++ leBytes 16 0 ++ body
    let kept : Saved := { id := s.nextId, fn := w.fn, addr := addr, written := bytes, isSealed := w.prot, ver := ver
                          wg := { w with bars := w.bars.map (fun (n, b) => (n, b.shift s.clock)), subs := w.subs.map (fun (b : Sub) => { b with fault := none }) }
                          groups := gs.map s.groupSaved }
    let s := { s.wrBig addr bytes with
      saved := s.saved ++ [kept], nextId := s.nextId + 1
      seals := if w.prot then s.seals.filter (fun (e : List Nat × Word64) => e.1 ≠ sealKeyOf w) ++ [(sealKeyOf w, ver)] else s.seals
      candidates := if s.candidates.contains w.rcb then s.candidates else s.candidates ++ [w.rcb] }
    ((((s.removeGroups wid).removeWg wid).setRcbStateOnly w.rcb 3).countCtx w.ctx 1)

/-- The state without workgroups, as their release would leave it. -/
def State.without (s : State) (l : List Nat) : State :=
  { s with wgs := s.wgs.filter (fun w => !l.contains w.wid), groups := s.groups.filter (fun g => !l.contains g.wid) }

/-- Resident work that a candidate of this priority may pre-empt: lowest priority first, then youngest (R313). -/
def insertVictim (s : State) (w : Workgroup) : List Workgroup → List Workgroup
  | [] => [w]
  | v :: l =>
    let age (x : Workgroup) : Nat := ((s.groupsOf x.wid).map (·.since)).headD 0
    if w.prio < v.prio ∨ (w.prio = v.prio ∧ age v ≤ age w) then w :: v :: l else v :: insertVictim s w l
def State.victimOrder (s : State) (prio : Nat) : List Workgroup :=
  (s.wgs.filter (fun w => !w.ending && !w.stopping && decide (w.prio + 4 ≤ prio) && s.poolFits w && s.sealable w)).foldl
    (fun l w => insertVictim s w l) []

/-- Victims in order until the candidate fits; those whose release is not needed stay (R313). `gone` are those that are on their way
out already. -/
def State.victims (s : State) (k : Work) (gone : List Nat) : List Nat → List Workgroup → List Nat
  | _, [] => []
  | acc, w :: l =>
    let more := if acc.contains w.wid then acc else acc ++ (s.gangOf w).map (·.wid)
    if (s.without (gone ++ more)).canPlace k then
      more.foldl (fun (keep : List Nat) v =>
        let less := keep.filter (fun x => !((s.gangOf (s.wg v)).map (·.wid)).contains x)
        if !less.isEmpty && (s.without (gone ++ less)).canPlace k then less else keep) more
    else s.victims k gone more l

/-- The state in which no core is kept back for 64 cycles: a core that may take no unit yet still has room for one (R309, R313). -/
def State.unpaced (s : State) : State := { s with lastStart := [] }

/-- The units of which a candidate may place one next: its next new one, and its saved ones. -/
def State.nextUnits (s : State) (k : Work) : List (List StartUnit) :=
  (s.freshUnits k :: (s.saved.filter (fun i => i.wg.rcb == k.rcb)).map (fun i => (s.savedUnit i).map s.savedAs)).filter (fun us => !us.isEmpty)

/-- The workgroups that some candidate which fits nowhere pre-empts, beside the victims that are being saved already (R309, R313). -/
def State.chosen (s : State) : List Nat :=
  let s := s.unpaced
  let gone := (s.wgs.filter (·.stopping)).map (·.wid)
  let ks := (s.candidates.filterMap s.workOf).filter (fun k =>
    (s.neverFail k).isNone && !s.machPaused k.ctx && !s.doomed k.ctx k.fdom k.rcb && (s.nextUnits k).any (s.pathRoom k.rcb) && !(s.without gone).canPlace k)
  (ks.map (fun k => s.victims k gone [] (s.victimOrder k.prio))).flatten

/-- The members of a workgroup's gang are victims, or are none any more. -/
def State.setStopping (s : State) (w : Workgroup) (b : Bool) : State :=
  let l := (s.gangOf w).map (·.wid)
  { s with wgs := s.wgs.map (fun (v : Workgroup) => if l.contains v.wid then { v with stopping := b } else v) }

/-- `PREEMPT_SAVE`: a workgroup is chosen as a victim; once its gang has run on to save points and has drained, all of it is
saved (R313, R326). One whose image does not fit, or no longer fits, is refused and counted (R328). -/
def execPreemptSave (wid : Nat) (s : State) : Host.Outcome State Fault Refusal :=
  .next (match s.wg? wid with
    | none => s
    | some w =>
      if !s.running ∨ s.doomedWg w then s
      else if w.stopping then
        if !(s.gangOf w).all (fun v => s.drained v.wid) then s
        else if s.poolFits w ∧ s.sealable w then (s.gangOf w).foldl (fun (s : State) v => s.saveWg v.wid) (s.shiftGang w.rcb w.gang)
        else (s.setStopping w false).count w.fn 3 1
      else if s.chosen.contains wid then s.setStopping w true
      else if !s.poolFits w ∧ (s.candidates.filterMap s.workOf).any (fun k => decide (w.prio + 4 ≤ k.prio) && !s.unpaced.canPlace k) then s.count w.fn 3 1
      else s)

end Sys2Proof.Machine
end

