-- ==== Sys2Proof/Machine/Progress.lean ====
section
/-! DEFINITION. Events inside a core: aging (R314), returns and completions of counted operations (R51, R52, R102, R105), the
replay of the side log (R82 to R85), fetch-ahead of streams (R49, R50). -/

namespace Sys2Proof.Machine

/-- The fragment has not issued for 65,536 cycles (R314). -/
def Frag.overdue (f : Frag) (now : Word64) : Bool := decide (65536 ≤ (now - f.last).toNat)

/-- A wait that ends by an event, not by issuing again. -/
def Wait.external : Wait → Bool
  | .bar _ | .gang _ | .fuse | .fault _ _ _ _ | .grow _ _ | .copying _ _ _ | .serve _ _ _ => true
  | _ => false

/-- `ISSUE_AGING_EXPIRY`: a fragment that has not issued for 65,536 cycles issues next, as soon as nothing holds it (R314). -/
def execIssueAgingExpiry (gid fid : Nat) (s : State) : Host.Outcome State Fault Refusal :=
  .next (s.modGroup gid (fun g => g.modFrag fid (fun f =>
    if !g.stopped f && !f.wait.external && f.overdue s.clock then { f with aged := true } else f)))

/-- While the draw is held below demand, a context's issues are counted (R390). -/
def State.countIssue (s : State) (gid : Nat) : State :=
  let c := (s.wg (s.group gid).wid).ctx
  if s.power.paced then { s with power := { s.power with issues := SMap.set 0 s.power.issues c (SMap.get 0 s.power.issues c + 1) } } else s

/-- A fragment issues: its aging begins anew (R314). -/
def State.noteIssue (s : State) (gid fid : Nat) : State :=
  (s.modGroup gid (fun g => g.modFrag fid (fun f => { f with last := s.clock, turn := s.freeCtr, aged := false }))).countIssue gid

/-- Lower a path's counter: its oldest operation, if it is of the kind and `ready` (R52). -/
def Group.lower (g : Group) (path : Nat) (kind : FlightKind) (ready : Flight → Bool) : Group :=
  match g.flights.find? (fun f => f.path == path) with
  | some f => if f.kind == kind && ready f then { g with flights := landFirst (fun f => f.path == path) g.flights } else g
  | none => g

/-- `LOAD_RETURN`: the oldest load of a path has its value, and its counter is lowered (R51). -/
def execLoadReturn (gid path : Nat) (s : State) : Host.Outcome State Fault Refusal :=
  .next (s.modGroup gid (fun g => g.lower path .load (fun _ => true)))

/-- `STORE_PERFORMED`: the oldest store of a path is performed at device scope, and its counter is lowered (R51). -/
def execStorePerformed (gid path : Nat) (s : State) : Host.Outcome State Fault Refusal :=
  .next (s.modGroup gid (fun g => g.lower path .store (fun f => !f.lines.any s.lineWaits)))

/-- `ACC_COPY_COMPLETE`: an accumulator copy is complete, behind the matrix operations before it (R51, R242). -/
def execAccCopyComplete (gid : Nat) (s : State) : Host.Outcome State Fault Refusal :=
  .next (s.modGroup gid (fun g => if g.matrix.isEmpty then g.lower 3 .copy (fun _ => true) else g))

/-- `MATRIX_OP_COMPLETE`: the oldest matrix operation's sequencer time ends; poison that its reads met is raised (R105,
R108). -/
def execMatrixOpComplete (gid : Nat) (s : State) : Host.Outcome State Fault Refusal :=
  .next (match (s.group gid).matrix with
    | m :: l =>
      if m.assist.isSome then s
      else
        let s := s.modGroup gid (fun g => { g with matrix := l })
        match m.poison with
        | some v => s.raise gid cPoison v
        | none => s
    | [] => s)

/-- `DMMA_ASSIST_DONE`: the control core writes the recomputed tile, and the group goes on (R102). -/
def execDmmaAssistDone (gid : Nat) (s : State) : Host.Outcome State Fault Refusal :=
  .next (match (s.group gid).matrix.find? (fun m => m.assist.isSome) with
    | some m => match m.assist with
      | some words =>
        (s.modGroup gid (fun g => { g.putAcc words with matrix := g.matrix.map (fun m => { m with assist := none }) })).countCtx
          (s.wg (s.group gid).wid).ctx 0
      | none => s
    | none => s)

/-! ### Side-log replay (R83) -/

/-- Virtual address of an entry's line. -/
def LogEntry.va (e : LogEntry) : Nat := e.line.toNat * 128

/-- Write the bytes of a store entry at its line's translation; a whole-line store clears the mark (R215). -/
def State.replayStore (s : State) (a : Who) (x : Xlat) (e : LogEntry) : State :=
  let t := e.bytes.foldl (fun s b => s.performWrite a { x with pa := x.pa + b.1, dirty := if b.1 = (e.bytes.headD (0, 0)).1 then x.dirty else none } [b.2]) s
  if e.clear then t.cleanLine (x.pa / 128) else t

/-- Elements of a reduction entry: offset in the line and operand. -/
def redElems (n : Nat) : Nat → List (Nat × Byte) → List (Nat × Nat)
  | 0, _ => []
  | k + 1, l => match l with
    | [] => []
    | b :: _ => (b.1, leNat ((l.take n).map Prod.snd)) :: redElems n k (l.drop n)

/-- Perform a reduction entry; a poisoned line takes DATA_POISON and writes nothing (R219). -/
def State.replayRed (s : State) (gid : Nat) (a : Who) (x : Xlat) (e : LogEntry) : State :=
  let ty := Ty.dec e.ty
  let n := ty.bytes
  let els := redElems n 32 e.bytes
  if s.poisoned x.pa 1 then (s.notePoison a e.va).raise gid cPoison (n64 (e.va + (els.headD (0, 0)).1))
  else els.foldl (fun s d =>
    let y : Xlat := { x with pa := x.pa + d.1, dirty := if d.1 = (els.headD (0, 0)).1 then x.dirty else none }
    match (AtomOp.ofCode e.op).new ty (s.rd y.pa n) d.2 0 with
    | some v => s.performWrite a y (leBytes n v)
    | none => s) s

/-- The oldest entry of a group is gone. -/
def State.popLog (s : State) (gid : Nat) : State := s.modGroup gid (fun g => { g with sideLog := g.sideLog.drop 1 })
/-- The oldest entry waits for an answer. -/
def State.tagLog (s : State) (gid : Nat) (k : Nat × Nat) : State :=
  s.modGroup gid (fun g => match g.sideLog with
    | e :: l => { g with sideLog := { e with tag := some k } :: l }
    | [] => g)

/-- Replay of the oldest entry of a group, once its page is mapped (R82, R83, R369, R370, R375). -/
def State.replayLog (s : State) (g : Group) : State := match g.sideLog with
  | [] => s
  | e :: _ =>
    if e.tag.isSome then s
    else
      let a := (s.wg g.wid).who
      match s.fate a e.va true with
      | .fault f =>
        let (t, k) := s.postFault a e.va f
        t.tagLog g.gid k
      | .conf => (s.popLog g.gid).raise g.gid cTranslation (n64 e.va)
      | .peerConf => (s.popLog g.gid).raise g.gid cConf (n64 e.va)
      | .dropped c => (s.popLog g.gid).raiseOpt g.gid c
      | .reject => ((s.popLog g.gid).notePoison a e.va).raise g.gid cPoison (n64 e.va)
      | .ok x =>
        if x.mg && s.pin x == 0 then (s.popLog g.gid).raise g.gid cHeapPin (n64 e.va)
        else if s.lineBusy x 128 true then s.askFor x 128 true
        else if e.op = 0 then (s.replayStore a x e).popLog g.gid
        else (s.replayRed g.gid a x e).popLog g.gid
      | _ => s.popLog g.gid

/-- `SIDE_LOG_REPLAY`: the oldest entry of a group's side log is replayed (R83). -/
def execSideLogReplay (gid : Nat) (s : State) : Host.Outcome State Fault Refusal :=
  .next (match s.group? gid with
    | some g => s.replayLog g
    | none => s)

/-! ### Fetch-ahead (R49, R50) -/

/-- The descriptor after `k` advances. -/
def Stream.after (w : Stream) : Nat → Stream
  | 0 => w
  | k + 1 => w.advance.after k

/-- One element read ahead; none where the fetch-ahead is discarded. -/
def State.aheadElem (s : State) (g : Group) (w : Stream) (t : Nat) : Option Word64 :=
  let wg := s.wg g.wid
  let ea := w.addr t
  let n := w.size
  if ea % n ≠ 0 then none
  else if w.space then
    (if wg.winSize ≤ ea ∨ wg.emptyAt ea ∨ wg.winPoisoned ea n then none else some (n64 (leNat (wg.winN ea n))))
  else if g.loggedByte ea n then none
  else match s.fate wg.who ea false with
    | .ok x => if x.mg || s.poisoned x.pa n || s.lineBusy x n false then none else some (n64 (s.rd x.pa n))
    | _ => none

/-- The lines of an element read ahead. -/
def State.noteAhead (s : State) (g : Group) (w : Stream) (t : Nat) : State :=
  if w.space then s
  else match s.fate (s.wg g.wid).who (w.addr t) false with
    | .ok x => s.noteRead (s.wg g.wid).who x w.size
    | _ => s

/-- `STREAM_FETCH_AHEAD`: a read stream fetches its next element of every thread ahead of use; a fetch that would fault, or
meets poison or a managed page, is discarded (R50). -/
def execStreamFetchAhead (gid w : Nat) (s : State) : Host.Outcome State Fault Refusal :=
  .next (match s.group? gid with
    | some g =>
      let x := g.streams.getD w {}
      let at_ := x.after x.ahead.length
      let els := (List.range 32).map (s.aheadElem g at_)
      if !x.bound || x.dir || els.any Option.isNone then s
      else ((List.range 32).foldl (fun (s : State) t => s.noteAhead g at_ t) s).modGroup gid (fun g => { g with streams := g.streams.set w { x with ahead := x.ahead ++ [els.filterMap id] } })
    | none => s)

end Sys2Proof.Machine
end

