-- ==== Sys2Proof/Machine/Dispatch.lean ====
section
/-! DEFINITION. One arm per instruction: the call of its meaning. -/

namespace Sys2Proof.Machine

def exec (i : Instr) (s : State) : Host.Outcome State Fault Refusal :=
  match i with
  | .sadd f => Sys2Proof.Machine.execSadd f s
  | .ssub f => Sys2Proof.Machine.execSsub f s
  | .smul f => Sys2Proof.Machine.execSmul f s
  | .smulhs f => Sys2Proof.Machine.execSmulhs f s
  | .smulhu f => Sys2Proof.Machine.execSmulhu f s
  | .sdivs f => Sys2Proof.Machine.execSdivs f s
  | .sdivu f => Sys2Proof.Machine.execSdivu f s
  | .srems f => Sys2Proof.Machine.execSrems f s
  | .sremu f => Sys2Proof.Machine.execSremu f s
  | .smins f => Sys2Proof.Machine.execSmins f s
  | .sminu f => Sys2Proof.Machine.execSminu f s
  | .smaxs f => Sys2Proof.Machine.execSmaxs f s
  | .smaxu f => Sys2Proof.Machine.execSmaxu f s
  | .sand f => Sys2Proof.Machine.execSand f s
  | .sor f => Sys2Proof.Machine.execSor f s
  | .sxor f => Sys2Proof.Machine.execSxor f s
  | .sandn f => Sys2Proof.Machine.execSandn f s
  | .sshl f => Sys2Proof.Machine.execSshl f s
  | .sshr f => Sys2Proof.Machine.execSshr f s
  | .ssra f => Sys2Proof.Machine.execSsra f s
  | .srol f => Sys2Proof.Machine.execSrol f s
  | .spopc f => Sys2Proof.Machine.execSpopc f s
  | .sclz f => Sys2Proof.Machine.execSclz f s
  | .sctz f => Sys2Proof.Machine.execSctz f s
  | .sbrev f => Sys2Proof.Machine.execSbrev f s
  | .sbfx f => Sys2Proof.Machine.execSbfx f s
  | .sbfxs f => Sys2Proof.Machine.execSbfxs f s
  | .sbfi f => Sys2Proof.Machine.execSbfi f s
  | .smov f => Sys2Proof.Machine.execSmov f s
  | .sseq f => Sys2Proof.Machine.execSseq f s
  | .ssne f => Sys2Proof.Machine.execSsne f s
  | .sslts f => Sys2Proof.Machine.execSslts f s
  | .ssltu f => Sys2Proof.Machine.execSsltu f s
  | .ssles f => Sys2Proof.Machine.execSsles f s
  | .ssleu f => Sys2Proof.Machine.execSsleu f s
  | .iadd f => Sys2Proof.Machine.execIadd f s
  | .isub f => Sys2Proof.Machine.execIsub f s
  | .imul f => Sys2Proof.Machine.execImul f s
  | .imulhi f => Sys2Proof.Machine.execImulhi f s
  | .imad f => Sys2Proof.Machine.execImad f s
  | .idiv f => Sys2Proof.Machine.execIdiv f s
  | .irem f => Sys2Proof.Machine.execIrem f s
  | .imin f => Sys2Proof.Machine.execImin f s
  | .imax f => Sys2Proof.Machine.execImax f s
  | .iabs f => Sys2Proof.Machine.execIabs f s
  | .ineg f => Sys2Proof.Machine.execIneg f s
  | .isad f => Sys2Proof.Machine.execIsad f s
  | .and f => Sys2Proof.Machine.execAnd f s
  | .or f => Sys2Proof.Machine.execOr f s
  | .xor f => Sys2Proof.Machine.execXor f s
  | .not f => Sys2Proof.Machine.execNot f s
  | .shl f => Sys2Proof.Machine.execShl f s
  | .shr f => Sys2Proof.Machine.execShr f s
  | .rol f => Sys2Proof.Machine.execRol f s
  | .popc f => Sys2Proof.Machine.execPopc f s
  | .clz f => Sys2Proof.Machine.execClz f s
  | .brev f => Sys2Proof.Machine.execBrev f s
  | .bfx f => Sys2Proof.Machine.execBfx f s
  | .bfi f => Sys2Proof.Machine.execBfi f s
  | .lop3 f => Sys2Proof.Machine.execLop3 f s
  | .fadd f => Sys2Proof.Machine.execFadd f s
  | .fsub f => Sys2Proof.Machine.execFsub f s
  | .fmul f => Sys2Proof.Machine.execFmul f s
  | .ffma f => Sys2Proof.Machine.execFfma f s
  | .fmin f => Sys2Proof.Machine.execFmin f s
  | .fmax f => Sys2Proof.Machine.execFmax f s
  | .fabs f => Sys2Proof.Machine.execFabs f s
  | .fneg f => Sys2Proof.Machine.execFneg f s
  | .fdiv f => Sys2Proof.Machine.execFdiv f s
  | .fsqrt f => Sys2Proof.Machine.execFsqrt f s
  | .frint f => Sys2Proof.Machine.execFrint f s
  | .fexp2 f => Sys2Proof.Machine.execFexp2 f s
  | .flog2 f => Sys2Proof.Machine.execFlog2 f s
  | .frcp f => Sys2Proof.Machine.execFrcp f s
  | .frsq f => Sys2Proof.Machine.execFrsq f s
  | .fsin f => Sys2Proof.Machine.execFsin f s
  | .fcos f => Sys2Proof.Machine.execFcos f s
  | .ftanh f => Sys2Proof.Machine.execFtanh f s
  | .icmp f => Sys2Proof.Machine.execIcmp f s
  | .fcmp f => Sys2Proof.Machine.execFcmp f s
  | .plop f => Sys2Proof.Machine.execPlop f s
  | .sel f => Sys2Proof.Machine.execSel f s
  | .voteany f => Sys2Proof.Machine.execVoteany f s
  | .voteall f => Sys2Proof.Machine.execVoteall f s
  | .ballot f => Sys2Proof.Machine.execBallot f s
  | .fclass f => Sys2Proof.Machine.execFclass f s
  | .cvt f => Sys2Proof.Machine.execCvt f s
  | .cvts f => Sys2Proof.Machine.execCvts f s
  | .mov f => Sys2Proof.Machine.execMov f s
  | .ptov f => Sys2Proof.Machine.execPtov f s
  | .vtop f => Sys2Proof.Machine.execVtop f s
  | .shfl f => Sys2Proof.Machine.execShfl f s
  | .shflup f => Sys2Proof.Machine.execShflup f s
  | .shfldn f => Sys2Proof.Machine.execShfldn f s
  | .shflx f => Sys2Proof.Machine.execShflx f s
  | .redadd f => Sys2Proof.Machine.execRedadd f s
  | .redmin f => Sys2Proof.Machine.execRedmin f s
  | .redmax f => Sys2Proof.Machine.execRedmax f s
  | .redand f => Sys2Proof.Machine.execRedand f s
  | .redor f => Sys2Proof.Machine.execRedor f s
  | .scanadd f => Sys2Proof.Machine.execScanadd f s
  | .scanaddx f => Sys2Proof.Machine.execScanaddx f s
  | .scanmax f => Sys2Proof.Machine.execScanmax f s
  | .bcast f => Sys2Proof.Machine.execBcast f s
  | .merge f => Sys2Proof.Machine.execMerge f s
  | .ld f => Sys2Proof.Machine.execLd f s
  | .ldg f => Sys2Proof.Machine.execLdg f s
  | .lds f => Sys2Proof.Machine.execLds f s
  | .ldt f => Sys2Proof.Machine.execLdt f s
  | .pref f => Sys2Proof.Machine.execPref f s
  | .stbind f => Sys2Proof.Machine.execStbind f s
  | .stsave f => Sys2Proof.Machine.execStsave f s
  | .ldu f => Sys2Proof.Machine.execLdu f s
  | .mapset f => Sys2Proof.Machine.execMapset f s
  | .mapflush f => Sys2Proof.Machine.execMapflush f s
  | .mapclr f => Sys2Proof.Machine.execMapclr f s
  | .st f => Sys2Proof.Machine.execSt f s
  | .stg f => Sys2Proof.Machine.execStg f s
  | .sts f => Sys2Proof.Machine.execSts f s
  | .stt f => Sys2Proof.Machine.execStt f s
  | .stl f => Sys2Proof.Machine.execStl f s
  | .aadd f => Sys2Proof.Machine.execAadd f s
  | .amin f => Sys2Proof.Machine.execAmin f s
  | .amax f => Sys2Proof.Machine.execAmax f s
  | .aand f => Sys2Proof.Machine.execAand f s
  | .aor f => Sys2Proof.Machine.execAor f s
  | .axor f => Sys2Proof.Machine.execAxor f s
  | .axchg f => Sys2Proof.Machine.execAxchg f s
  | .acas f => Sys2Proof.Machine.execAcas f s
  | .radd f => Sys2Proof.Machine.execRadd f s
  | .rmin f => Sys2Proof.Machine.execRmin f s
  | .rmax f => Sys2Proof.Machine.execRmax f s
  | .rand f => Sys2Proof.Machine.execRand f s
  | .ror f => Sys2Proof.Machine.execRor f s
  | .rxor f => Sys2Proof.Machine.execRxor f s
  | .fence f => Sys2Proof.Machine.execFence f s
  | .boinit f => Sys2Proof.Machine.execBoinit f s
  | .mma f => Sys2Proof.Machine.execMma f s
  | .mmas f => Sys2Proof.Machine.execMmas f s
  | .dmma f => Sys2Proof.Machine.execDmma f s
  | .accclr f => Sys2Proof.Machine.execAccclr f s
  | .accrd f => Sys2Proof.Machine.execAccrd f s
  | .accwr f => Sys2Proof.Machine.execAccwr f s
  | .accmv f => Sys2Proof.Machine.execAccmv f s
  | .cpy f => Sys2Proof.Machine.execCpy f s
  | .cpych f => Sys2Proof.Machine.execCpych f s
  | .cpyrel f => Sys2Proof.Machine.execCpyrel f s
  | .spqfill f => Sys2Proof.Machine.execSpqfill f s
  | .twcpy f => Sys2Proof.Machine.execTwcpy f s
  | .subscr f => Sys2Proof.Machine.execSubscr f s
  | .slotrel f => Sys2Proof.Machine.execSlotrel f s
  | .twflip f => Sys2Proof.Machine.execTwflip f s
  | .twset f => Sys2Proof.Machine.execTwset f s
  | .twclr f => Sys2Proof.Machine.execTwclr f s
  | .bra f => Sys2Proof.Machine.execBra f s
  | .brs f => Sys2Proof.Machine.execBrs f s
  | .brz f => Sys2Proof.Machine.execBrz f s
  | .breod f => Sys2Proof.Machine.execBreod f s
  | .brneod f => Sys2Proof.Machine.execBrneod f s
  | .call f => Sys2Proof.Machine.execCall f s
  | .ret f => Sys2Proof.Machine.execRet f s
  | .exit f => Sys2Proof.Machine.execExit f s
  | .bar f => Sys2Proof.Machine.execBar f s
  | .bargang f => Sys2Proof.Machine.execBargang f s
  | .wait f => Sys2Proof.Machine.execWait f s
  | .yield f => Sys2Proof.Machine.execYield f s
  | .spawn f => Sys2Proof.Machine.execSpawn f s
  | .grow f => Sys2Proof.Machine.execGrow f s
  | .shrink f => Sys2Proof.Machine.execShrink f s
  | .boarv f => Sys2Proof.Machine.execBoarv f s
  | .bowait f => Sys2Proof.Machine.execBowait f s
  | .qpush f => Sys2Proof.Machine.execQpush f s
  | .qpop f => Sys2Proof.Machine.execQpop f s
  | .qcreate f => Sys2Proof.Machine.execQcreate f s
  | .nop f => Sys2Proof.Machine.execNop f s
  | .crrd f => Sys2Proof.Machine.execCrrd f s
  | .crwr f => Sys2Proof.Machine.execCrwr f s
  | .trap f => Sys2Proof.Machine.execTrap f s
  | .tret f => Sys2Proof.Machine.execTret f s
  | .lkline f => Sys2Proof.Machine.execLkline f s
  | .ulkline f => Sys2Proof.Machine.execUlkline f s
  | .clrpois f => Sys2Proof.Machine.execClrpois f s
  | .clwb f => Sys2Proof.Machine.execClwb f s
  | .clinv f => Sys2Proof.Machine.execClinv f s
  | .hldSlot f => Sys2Proof.Machine.execHldSlot f s
  | .hldField f => Sys2Proof.Machine.execHldField f s
  | .hstSlot f => Sys2Proof.Machine.execHstSlot f s
  | .hstField f => Sys2Proof.Machine.execHstField f s
  | .hfld f => Sys2Proof.Machine.execHfld f s
  | .hstr f => Sys2Proof.Machine.execHstr f s
  | .hpin f => Sys2Proof.Machine.execHpin f s
  | .hunpin f => Sys2Proof.Machine.execHunpin f s
  | .htnull f => Sys2Proof.Machine.execHtnull f s
  | .hteq f => Sys2Proof.Machine.execHteq f s
  | .hmovRef f => Sys2Proof.Machine.execHmovRef f s
  | .hmovToRef f => Sys2Proof.Machine.execHmovToRef f s
  | .hmovFromRef f => Sys2Proof.Machine.execHmovFromRef f s
  | .apxb f => Sys2Proof.Machine.execApxb f s
  | .apxe f => Sys2Proof.Machine.execApxe f s
  | .apxinv f => Sys2Proof.Machine.execApxinv f s
  | .apxstat f => Sys2Proof.Machine.execApxstat f s
  | .clauseFetch => Sys2Proof.Machine.execClauseFetch s
  | .barrierWatchdogExpiry wid bar => Sys2Proof.Machine.execBarrierWatchdogExpiry wid bar s
  | .gangBarrierWatchdogExpiry rcb gang bar => Sys2Proof.Machine.execGangBarrierWatchdogExpiry rcb gang bar s
  | .issueAgingExpiry gid fid => Sys2Proof.Machine.execIssueAgingExpiry gid fid s
  | .loadReturn gid path => Sys2Proof.Machine.execLoadReturn gid path s
  | .storePerformed gid path => Sys2Proof.Machine.execStorePerformed gid path s
  | .accCopyComplete gid => Sys2Proof.Machine.execAccCopyComplete gid s
  | .matrixOpComplete gid => Sys2Proof.Machine.execMatrixOpComplete gid s
  | .dmmaAssistDone gid => Sys2Proof.Machine.execDmmaAssistDone gid s
  | .sideLogReplay gid => Sys2Proof.Machine.execSideLogReplay gid s
  | .streamFetchAhead gid w => Sys2Proof.Machine.execStreamFetchAhead gid w s
  | .asyncLand cmd off n => Sys2Proof.Machine.execAsyncLand cmd off n s
  | .streamerTileInbound wid idx => Sys2Proof.Machine.execStreamerTileInbound wid idx s
  | .streamerTileOutbound wid idx => Sys2Proof.Machine.execStreamerTileOutbound wid idx s
  | .relocEntryClaim cmd => Sys2Proof.Machine.execRelocEntryClaim cmd s
  | .relocCopyDone cmd => Sys2Proof.Machine.execRelocCopyDone cmd s
  | .relocTableDone cmd => Sys2Proof.Machine.execRelocTableDone cmd s
  | .assistedCopyDone gid => Sys2Proof.Machine.execAssistedCopyDone gid s
  | .kiteServeDone gid => Sys2Proof.Machine.execKiteServeDone gid s
  | .kiteTrainingEnd die cluster ctx id => Sys2Proof.Machine.execKiteTrainingEnd die cluster ctx id s
  | .coarseInvalidationAck line cluster => Sys2Proof.Machine.execCoarseInvalidationAck line cluster s
  | .remoteOwnershipGrant line => Sys2Proof.Machine.execRemoteOwnershipGrant line s
  | .backInvalidateReceive line => Sys2Proof.Machine.execBackInvalidateReceive line s
  | .backInvalidateResponse line agent data => Sys2Proof.Machine.execBackInvalidateResponse line agent data s
  | .cerlinkPeerRequest r => Sys2Proof.Machine.execCerlinkPeerRequest r s
  | .doorbell fn value => Sys2Proof.Machine.execDoorbell fn value s
  | .launch ctx q => Sys2Proof.Machine.execLaunch ctx q s
  | .order ctx q => Sys2Proof.Machine.execOrder ctx q s
  | .kill ctx q => Sys2Proof.Machine.execKill ctx q s
  | .schedEpoch => Sys2Proof.Machine.execSchedEpoch s
  | .workgroupStart rcb places => Sys2Proof.Machine.execWorkgroupStart rcb places s
  | .preemptSave wid => Sys2Proof.Machine.execPreemptSave wid s
  | .workgroupRestore img place => Sys2Proof.Machine.execWorkgroupRestore img place s
  | .domkill gid value => Sys2Proof.Machine.execDomkill gid value s
  | .pageWalk walker va acc => Sys2Proof.Machine.execPageWalk walker va acc s
  | .retry fn tag => Sys2Proof.Machine.execRetry fn tag s
  | .decline fn tag => Sys2Proof.Machine.execDecline fn tag s
  | .invalidatePage fn value => Sys2Proof.Machine.execInvalidatePage fn value s
  | .invalidateContext fn value => Sys2Proof.Machine.execInvalidateContext fn value s
  | .invalidateMachine fn value => Sys2Proof.Machine.execInvalidateMachine fn value s
  | .invalidationComplete fn => Sys2Proof.Machine.execInvalidationComplete fn s
  | .mresume value => Sys2Proof.Machine.execMresume value s
  | .append ctx => Sys2Proof.Machine.execAppend ctx s
  | .promote ctx => Sys2Proof.Machine.execPromote ctx s
  | .promoteCopyDone ctx => Sys2Proof.Machine.execPromoteCopyDone ctx s
  | .functionLevelReset fn => Sys2Proof.Machine.execFunctionLevelReset fn s
  | .outresume value => Sys2Proof.Machine.execOutresume value s
  | .dcExtentAdd idx tag dpag => Sys2Proof.Machine.execDcExtentAdd idx tag dpag s
  | .tenantWrite idx tenant => Sys2Proof.Machine.execTenantWrite idx tenant s
  | .xrel value => Sys2Proof.Machine.execXrel value s
  | .extentScrubDone idx unverified => Sys2Proof.Machine.execExtentScrubDone idx unverified s
  | .taskRingPoll rec => Sys2Proof.Machine.execTaskRingPoll rec s
  | .taskPacket rec => Sys2Proof.Machine.execTaskPacket rec s
  | .allreduce ctx others => Sys2Proof.Machine.execAllreduce ctx others s
  | .broadcast ctx root => Sys2Proof.Machine.execBroadcast ctx root s
  | .collectiveDone id => Sys2Proof.Machine.execCollectiveDone id s
  | .collectiveMemberLoss id => Sys2Proof.Machine.execCollectiveMemberLoss id s
  | .uncorrectableError u => Sys2Proof.Machine.execUncorrectableError u s
  | .viralEventReceive base pages => Sys2Proof.Machine.execViralEventReceive base pages s
  | .outsideAgentDeath agent => Sys2Proof.Machine.execOutsideAgentDeath agent s
  | .expanderLinkDown expander => Sys2Proof.Machine.execExpanderLinkDown expander s
  | .expanderTimeout expander => Sys2Proof.Machine.execExpanderTimeout expander s
  | .recallComplete line filter => Sys2Proof.Machine.execRecallComplete line filter s
  | .recallTimeout line => Sys2Proof.Machine.execRecallTimeout line s
  | .powerInterval demand filler => Sys2Proof.Machine.execPowerInterval demand filler s
  | .thermalTrip => Sys2Proof.Machine.execThermalTrip s
  | .railOvercurrent => Sys2Proof.Machine.execRailOvercurrent s
  | .powerOffRequest => Sys2Proof.Machine.execPowerOffRequest s
  | .pwrctl value => Sys2Proof.Machine.execPwrctl value s
  | .tethertx value => Sys2Proof.Machine.execTethertx value s
  | .tetherReceive msg port => Sys2Proof.Machine.execTetherReceive msg port s
  | .tetherLapse => Sys2Proof.Machine.execTetherLapse s
  | .tetherDelayEnd => Sys2Proof.Machine.execTetherDelayEnd s
  | .coldReset reached error => Sys2Proof.Machine.execColdReset reached error s
  | .startWatchdogExpiry => Sys2Proof.Machine.execStartWatchdogExpiry s
  | .bootclr value => Sys2Proof.Machine.execBootclr value s
  | .firmwareUpdate => Sys2Proof.Machine.execFirmwareUpdate s
  | .fatalError cause => Sys2Proof.Machine.execFatalError cause s
  | .dumpComplete => Sys2Proof.Machine.execDumpComplete s
  | .getMeasurements nonce => Sys2Proof.Machine.execGetMeasurements nonce s
  | .certificateRequest => Sys2Proof.Machine.execCertificateRequest s
  | .registerWrite fn off value => Sys2Proof.Machine.execRegisterWrite fn off value s
  | .thermalTripClear => Sys2Proof.Machine.execThermalTripClear s
  | .overcurrentClear => Sys2Proof.Machine.execOvercurrentClear s
  | .fqHeadRaise fn => Sys2Proof.Machine.execFqHeadRaise fn s
  | .cxlMemRequest r => Sys2Proof.Machine.execCxlMemRequest r s
  | .cxlCacheSnoop line invalidate => Sys2Proof.Machine.execCxlCacheSnoop line invalidate s
  | .spdmRequest request => Sys2Proof.Machine.execSpdmRequest request s

end Sys2Proof.Machine
end

