-- ==== Sys2Proof/Machine/Arbiter.lean ====
section
/-! DEFINITION. Which fragment issues next (R29, R314), when the agenda names no move, and the events that are pending
inside the device. -/

namespace Sys2Proof.Machine

/-- An FP64 assist holds the group (R102). -/
def Group.assisted (g : Group) : Bool := g.matrix.any (fun m => m.assist.isSome)

/-- May the fragment issue, or try again? -/
def Group.canIssue (g : Group) (f : Frag) : Bool := !g.stopped f && !f.wait.external && !g.assisted

/-- What a chosen fragment or Mule does: nothing, a trap that waits to be taken (R318, R344), a clause fetch, or the
instruction at its position. -/
inductive Choice where
  | idle
  | trap (code : Nat) (tval : Word64) (thr : Option Nat) (atHdr deferred : Bool) (posted : Option (Nat × Nat))
  | run (i : Instr) (lits : List Word32)
  /-- a word that no longer decodes -/
  | illegal
  deriving DecidableEq, Repr

def choiceOf (c : Option Clause) (k : Nat) : Choice := match c with
  | none => .run .clauseFetch []
  | some c => match c.instrAt k with
    | .ok (i, lits) => .run i lits
    | .error _ => .illegal

/-- Would the instruction at which a held fragment stands hold it again? Otherwise the fragment is ready (R29). -/
def State.heldStill (s : State) (g : Group) (f : Frag) : Bool := match f.wait with
  | .none => false
  | .trap code _ _ _ _ _ => g.tlevel != 2 && (match s.handlerEntry (s.wg g.wid).who g.tvec code with
    | .error (.busy _) => true
    | _ => false)
  | _ => match choiceOf f.clause f.widx with
    | .run i lits => match exec i { s with cur := ⟨g.gid, f.fid, false, lits, []⟩ } with
      | .next t => match (t.group? g.gid).bind (·.frag? f.fid) with
        | some k => k.wait != .none && !k.wait.external && k.hdr == f.hdr && k.widx == f.widx
        | none => false
      | _ => true
    | _ => false

/-- One fragment with what the arbiter compares: its context, partition, aged, priority, residence, age. -/
structure Ready where
  gid : Nat
  fid : Nat
  ctx : Nat
  part : Nat
  aged : Bool
  prio : Nat
  since : Nat
  age : Nat
  deriving DecidableEq, Repr

/-- Does `a` issue before `b` of the same partition (R29, R314)? Of two groups that became resident in the same cycle the
lower number goes first: the model's choice, for R29 gives them one age (log 8). -/
def Ready.before (a b : Ready) : Bool :=
  if a.aged != b.aged then a.aged
  else if !a.aged && a.prio != b.prio then decide (b.prio < a.prio)
  else if a.since != b.since then decide (a.since < b.since)
  else if a.gid != b.gid then decide (a.gid < b.gid)
  else decide (a.age < b.age)

/-- The partition on which a group lies, numbered over the device. -/
def State.partOf (s : State) (g : Group) : Nat := 4 * coreNum (s.wg g.wid).place + g.part

/-- The fragments that may issue, with whether each is held still. -/
def State.issuers (s : State) : List (Bool × Ready) :=
  (s.groups.map (fun g => (g.frags.filter (fun f => g.canIssue f && !s.parked g f)).map (fun f =>
    (s.heldStill g f,
     (⟨g.gid, f.fid, (s.wg g.wid).ctx, s.partOf g, f.aged || f.overdue s.clock, (s.wg g.wid).prio, g.since, f.age⟩ : Ready))))).flatten
/-- The fragments that are ready, or those that are held and may try again. -/
def State.readyList (s : State) (waiting : Bool) : List Ready := (s.issuers.filter (fun e => e.1 == waiting)).map Prod.snd

/-- The effective power share of a context, in 256ths; 0 counts as 1 (R390). -/
def State.powerShare (s : State) (ctx : Nat) : Nat := max 1 (s.budget (s.ctxRcb ctx)).pwsh

/-- While the draw is held below demand: has context `a` had a smaller part of its power share of the issue slots than `b`
(R390)? -/
def State.owed (s : State) (a b : Nat) : Bool :=
  s.power.paced && decide (SMap.get 0 s.power.issues a * s.powerShare b < SMap.get 0 s.power.issues b * s.powerShare a)

/-- The order of issue on one partition, with the shares of R390. A fragment whose aging bound has passed goes first whatever
the shares are (R314). -/
def State.issuesBefore (s : State) (a b : Ready) : Bool :=
  if a.aged || b.aged then a.before b
  else s.owed a.ctx b.ctx || (!s.owed b.ctx a.ctx && a.before b)

/-- The fragment that the arbiter of each partition picks. -/
def State.winners (s : State) (l : List Ready) : List Ready := l.filter (fun a => !l.any (fun b => b.part == a.part && s.issuesBefore b a))

/-- May the group's next instruction wait for a value that has not come: is a load, an accumulator copy or a matrix operation of
the group outstanding (R20, R105, R209)? -/
def Group.mayAwait (g : Group) : Bool := g.flights.any (fun f => f.kind != .store) || !g.matrix.isEmpty

/-- Does another ready fragment issue before this one: on its partition (R29, R314), or for a context to which more of the issue
slots is owed (R390)? One whose operands may be outstanding need not be ready, and holds no other back (log 8). -/
def State.outranked (s : State) (r : Ready) (l : List Ready) : Bool :=
  l.any (fun q => !(s.group q.gid).mayAwait && ((q.part == r.part && s.issuesBefore q r) || (!r.aged && s.owed q.ctx r.ctx)))

/-- The step in which a partition last issued. -/
def State.partTurn (s : State) (p : Nat) : Nat :=
  (s.groups.filter (fun g => s.partOf g == p)).foldl (fun m g => g.frags.foldl (fun m f => max m f.turn) m) 0

/-- Partitions issue side by side, and one step shows one of them: in turn, or, while the draw is held below demand, one of the
context that has had the smallest part of its power share (R390). -/
def State.bestReady (s : State) : Option Ready :=
  (s.winners (s.readyList false)).foldl (fun (b : Option Ready) r => match b with
    | none => some r
    | some q =>
      if s.owed r.ctx q.ctx then some r
      else if !s.owed q.ctx r.ctx && s.partTurn r.part < s.partTurn q.part then some r else b) none

/-- Does an assisted copy run that no fault holds? -/
def Frag.copies (f : Frag) : Bool := match f.wait with
  | .copying _ _ none => true
  | _ => false

/-- Does a Kite serve the fragment? -/
def Frag.served (f : Frag) : Bool := match f.wait with
  | .serve _ _ _ => true
  | _ => false

/-- The event that would end the oldest operation in flight of a group, or a command's next landing. -/
def Group.ownEvent (g : Group) : Option Instr :=
  if g.assisted then some (.dmmaAssistDone g.gid)
  else if g.frags.any Frag.copies then some (.assistedCopyDone g.gid)
  else if g.frags.any Frag.served then some (.kiteServeDone g.gid)
  else match g.flights.filter (fun f => f.kind != .copy || g.matrix.isEmpty) with
  | f :: _ => some (match f.kind with
    | .load => .loadReturn g.gid f.path
    | .store => .storePerformed g.gid f.path
    | .copy => .accCopyComplete g.gid)
  | [] =>
    if !g.matrix.isEmpty then some (.matrixOpComplete g.gid)
    else if !g.sideLog.isEmpty then some (.sideLogReplay g.gid)
    else none

/-- The next landing of an asynchronous command. -/
def Cmd.ownEvent (c : Cmd) : Option Instr :=
  if c.fault.isSome then none
  else match c.kind, c.todo with
    | .reloc, l => some (if c.slot.isSome then .relocCopyDone c.id
      else if c.registered && c.begun && l.isEmpty then .relocTableDone c.id else .relocEntryClaim c.id)
    | _, (o, n) :: _ => some (.asyncLand c.id o (min n 128))
    | _, [] => some (.asyncLand c.id 0 0)

/-- Watchdogs whose time has passed; a gang's runs while a member is resident (R27, R28, R190). -/
def State.watchdogEvents (s : State) : List Instr :=
  (s.wgs.map (fun w => (w.bars.filter (fun e => e.2.expired s.clock)).map (fun e => Instr.barrierWatchdogExpiry w.wid e.1))).flatten ++
  ((s.gangs.filter (fun g => s.wgs.any (fun w => w.rcb == g.rcb && w.gang == g.num))).map (fun g =>
    (g.bars.filter (fun e => e.2.expired s.clock)).map (fun e => Instr.gangBarrierWatchdogExpiry g.rcb g.num e.1))).flatten

/-- Recalls of entries that every holder has answered, or that have run too long (R378), and expanders that have not answered
in time (R376). -/
def State.recallEvents (s : State) : List Instr :=
  (s.dir.filter (fun e => e.recallAt.isSome && e.acks.isEmpty)).map (fun e => Instr.recallComplete e.line false) ++
  (s.snoop.filter (fun e => e.recallAt.isSome && e.awaited.isEmpty)).map (fun e => Instr.recallComplete e.line true) ++
  (s.dir.filter (fun e => recallLate s.clock e.recallAt)).map (fun e => Instr.recallTimeout e.line) ++
  (s.snoop.filter (fun e => recallLate s.clock e.recallAt)).map (fun e => Instr.recallTimeout (e.line / 2)) ++
  ((List.range 16).filter s.expanderLate).map Instr.expanderTimeout

/-- Answers that the coherence protocol awaits (R60, R360, R378), invalidations in progress (R340), pages asked for (R349,
R350). -/
def State.memoryEvents (s : State) : List Instr :=
  s.recallEvents ++
  (s.dir.map (fun e => e.acks.map (fun c => Instr.coarseInvalidationAck e.line c))).flatten ++ s.asked.map (fun e => Instr.remoteOwnershipGrant e.1) ++
  s.invPending.map (fun e => Instr.invalidationComplete e.1) ++
  s.ctxs.filterMap (fun c => match s.prqHead c.num, c.promote with
    | none, _ => none
    | some _, some _ => some (Instr.promoteCopyDone c.num)
    | some q, none => some (if q.op = 2 then Instr.promote c.num else .append c.num))

/-- Work that comes over the fabric: task rings (R363, R365), scrubs (R362), collectives (R372). -/
def State.fabricEvents (s : State) : List Instr :=
  (if s.fitting = .l then ((List.range 256).filter s.tenantValid).map Instr.taskRingPoll ++ ((List.range 256).filter s.tenantValid).map Instr.taskPacket
   else []) ++
  s.scrubs.map (fun e => Instr.extentScrubDone e.1 []) ++ s.collectives.map (fun c => Instr.collectiveDone c.id)

/-- Events of the device itself that are pending, one of which happens when no fragment is ready. -/
def State.ownEvents (s : State) : List Instr :=
  s.groups.filterMap Group.ownEvent ++ (s.kites.filter (·.training)).map (fun k => Instr.kiteTrainingEnd k.die k.cluster k.ctx k.id) ++ s.cmds.filterMap Cmd.ownEvent ++
  (s.wgs.map (fun w => (w.subs.filter (fun b => b.fault.isNone && decide (b.next < b.tcount))).map (fun b =>
    if b.outbound then Instr.streamerTileOutbound w.wid b.idx else .streamerTileInbound w.wid b.idx))).flatten ++
  ((s.candidates.filter (fun r => match s.workOf r with
    | some k => s.turn k
    | none => false)).map (fun r => Instr.workgroupStart r [])) ++
  s.saved.filterMap (fun i => (s.bestPlace (s.savedAs i)).map (fun p => Instr.workgroupRestore i.id p)) ++
  (s.wgs.filter (·.stopping)).map (fun w => Instr.preemptSave w.wid) ++ s.chosen.map Instr.preemptSave ++
  (s.ctxs.map (fun c => (List.range (s.nlq c.num)).filterMap (fun q => (s.command c.num q).map (fun d => match commandOp d.1 d.2 with
    | some 2 => Instr.order c.num q
    | some 3 => Instr.kill c.num q
    | _ => Instr.launch c.num q)))).flatten ++
  (if s.startLate then [Instr.startWatchdogExpiry] else []) ++ s.watchdogEvents ++ s.memoryEvents ++ s.fabricEvents ++
  (if 4096 ≤ (s.clock - s.lastEpoch).toNat ∧ s.running then [Instr.schedEpoch] else [])

/-- May the Mule issue? One that counter waits hold may try again. -/
def State.muleReady (s : State) (g : Group) (m : Mule) : Bool :=
  let w := s.wg g.wid
  !m.ended && m.fault.isNone && !w.stopping && !s.doomedWg w

/-- Mules that may issue, or that wait at a clause header. -/
def State.readyMules (s : State) (waiting : Bool) : List Nat :=
  s.groups.filterMap (fun g => match g.mule with
    | some m => if s.muleReady g m && m.counter == waiting then some g.gid else none
    | none => none)

/-- The move that the machine makes by itself: fragments, Mules, events of the device and attempts of what waits have their
turns one after the other (log 1). -/
def State.ownMove (s : State) : Option Move :=
  let n := s.freeCtr
  let pick {α : Type} (l : List α) : Option α := l[n / 4 % l.length]?
  let kinds : List (Option Move) :=
    [s.bestReady.map (fun r => .issue r.gid r.fid []), (pick (s.readyMules false)).map .mule, (pick s.ownEvents).map .event,
     pick ((s.readyList true).map (fun r => Move.issue r.gid r.fid []) ++ (s.readyMules true).map .mule)]
  (kinds.rotateLeft (n % 4)).findSome? id

/-- The next move and the state without it. -/
def State.nextMove (s : State) : Option Move × State :=
  match s.agenda with
  | m :: l => (some m, { s with agenda := l })
  | [] => (s.ownMove, s)

/-- Ticks that pass before step `n`: not given, but at least one in 2^16 steps (log 8). -/
def ticks (n : Nat) : Word64 := (Config.freeTicks n).setWidth 64 + (if n % 65536 = 65535 then 1 else 0)

/-- Time passes, and the free values of the step are new ones (log 2, log 8). -/
def State.tick (s : State) : State :=
  { s with clock := s.clock + ticks s.freeCtr, freeCtr := s.freeCtr + 1, power := s.noteHeld (ticks s.freeCtr).toNat }

/-- Does the fragment have to let others issue before it? One that is held still may try again at any time. -/
def State.mustYield (s : State) (g : Group) (f : Frag) : Bool :=
  match s.issuers.find? (fun e => e.2.gid == g.gid && e.2.fid == f.fid) with
  | some (false, r) => s.outranked r (s.readyList false)
  | _ => false

def State.chooseFrag (s : State) (gid fid : Nat) : Choice :=
  if !s.running then .idle
  else match s.group? gid with
    | none => .idle
    | some g => match g.frag? fid with
      | none => .idle
      | some f =>
        if !g.canIssue f || s.parked g f || s.mustYield g f then .idle
        else match f.wait with
          | .trap c v t h d p => .trap c v t h d p
          | _ => choiceOf f.clause f.widx

def State.chooseMule (s : State) (gid : Nat) : Choice :=
  if !s.running then .idle
  else match (s.group? gid).bind (·.mule) with
    | none => .idle
    | some m =>
      if s.muleReady (s.group gid) m && !(s.readyList false).any (fun r => s.owed r.ctx (s.wg (s.group gid).wid).ctx) then choiceOf m.clause m.widx
      else .idle

/-- The issue is counted, unless the fragment is held still (R314, R390). -/
def State.noteChoice (s : State) (gid fid : Nat) : State := match (s.group? gid).bind (fun g => (g.frag? fid).map (fun f => (g, f))) with
  | some (g, f) => if s.heldStill g f then s else s.noteIssue gid fid
  | none => s

/-- A Mule's issue is counted too, unless the Mule stays where it is. -/
def State.noteMule (s : State) (gid : Nat) (i : Instr) (lits : List Word32) : State :=
  match (s.group? gid).bind (·.mule), exec i { s with cur := ⟨gid, 0, true, lits, []⟩ } with
  | some m, .next t => if (t.group? gid).bind (·.mule) = some m then s else s.countIssue gid
  | _, _ => s

/-- The rows of the opcode table that no fragment issues. -/
def isEvent (i : Instr) : Bool := (encode i).isEmpty && i != .clauseFetch

/-- Events that need no device that runs: power, start-up, errors, and the management interface (R391, R396 to R402). -/
def heldOk : Instr → Bool
  | .powerInterval _ _ | .thermalTrip | .thermalTripClear | .railOvercurrent | .overcurrentClear | .powerOffRequest
  | .tetherLapse | .tetherDelayEnd | .coldReset _ _ | .startWatchdogExpiry | .bootclr _ | .firmwareUpdate | .fatalError _ | .dumpComplete
  | .getMeasurements _ | .certificateRequest | .spdmRequest _ => true
  | _ => false

/-- Events that come in by a port: they happen while a fatal error holds the device too, but no instruction completes then and
no program write leaves (R398). -/
def portOk : Instr → Bool
  | .pwrctl _ | .tethertx _ | .tetherReceive _ _ | .registerWrite _ _ _ | .cxlMemRequest _ | .cxlCacheSnoop _ _ | .backInvalidateReceive _
  | .viralEventReceive _ _ => true
  | _ => false

/-- The host ports are enabled: stage 7 is reached (R396). -/
def State.ports (s : State) : Bool := s.boot.stage == 7 && !s.power.isOff

/-- May the event happen? -/
def State.eventOk (s : State) (i : Instr) : Bool := isEvent i && (s.running || heldOk i || (s.ports && portOk i))

/-! ### Worlds and keys (R366, R368) -/

/-- A page of device memory changes its world: what memory holds is deciphered under other keys from now on, and no cache
keeps the old text (R366, log 60). -/
def State.rekey (s : State) (page : Nat) (old new : BitVec 8) : State :=
  let turn (line : Nat) (l : List Byte) : List Byte := (Config.xtsDec new line (Config.xtsEnc old line l)).take 128
  (List.range 512).foldl (fun (s : State) i =>
    let line := 512 * page + i
    let own := SMap.get [] s.modified line
    if own.isEmpty then (s.uncache line).poke (128 * line) (turn line (s.rdN (128 * line) 128))
    else { s with modified := SMap.set [] s.modified line (turn line own) }) s

/-- Bytes of the world map that memory lists (R368). -/
def State.worldBytes (s : State) : List (Nat × Byte) :=
  let base := (s.barReg physFn 0x128).toNat
  List.filter (fun (e : Nat × Byte) => decide (base ≤ e.1) && decide (e.1 < base + 2 * 2 ^ 34)) s.mem

/-- Pages of device memory whose world a step may have changed: those of the map's bytes that differ, or, where the map's base has
moved, those in which memory or a cache lists anything (log 60). -/
def State.worldPages (s t : State) : List Nat :=
  let base := (t.barReg physFn 0x128).toNat
  if base ≠ (s.barReg physFn 0x128).toNat then
    ((List.map (fun (e : Nat × Byte) => e.1 / 65536) t.mem ++ List.map (fun (e : Nat × List Byte) => e.1 / 512) t.modified).eraseDups).filter (fun p => paTarget (65536 * p) == 0)
  else if base = 0 then []
  else
    let a := s.worldBytes
    let b := t.worldBytes
    (((a.filter (fun e => !b.contains e)) ++ (b.filter (fun e => !a.contains e))).map (fun e => (e.1 - base) / 2)).eraseDups

/-- The keys of a page are those of its world: where a step has changed the world of a page, what memory holds there is deciphered
under other keys from then on, whoever wrote the map (R366, R368). -/
def State.rekeyed (s t : State) : State :=
  let world (u : State) (p : Nat) : BitVec 8 := (u.pageWorld physFn (65536 * p)).1
  (s.worldPages t).foldl (fun (u : State) p => if world s p = world t p then u else u.rekey p (world s p) (world t p)) t

/-- A write of the host over PCIe to memory: a store of an outside agent (log 1). TENANT of an added extent makes it owned
(R362). -/
def State.hostStore (s : State) (pa : Nat) (data : List Byte) : State :=
  let n := data.length
  (List.range (n / 32 + 2)).foldl (fun (t : State) k => match s.inTable 0x150 32 maxExtents (pa + 32 * k) with
    | some (i, _) => if s.fitting = .l ∧ s.extentW i 50 3 = 1 ∧ pa ≤ s.extentRec i + 8 ∧ s.extentRec i + 16 ≤ pa + n then t.setExtentW i 50 3 2 else t
    | none => t) (s.outsideStore pa data)

/-! ### Placing one instruction (log 7) -/

/-- A clause that holds one instruction: its two words, and literal words of zero. -/
def oneClause (w0 w1 : Nat) : Clause :=
  let n := instrWords w0
  let c := litCount w0 w1
  let lits := c.1 + (if n = 2 then c.2 else 0)
  let cls := match majorFmt (fld w0 26 6) with
    | some (_, c) => c
    | none => .scalar
  ⟨⟨n + lits, cls, 7, 0, 7, 0, false, lits⟩, (if n = 2 then [w0, w1] else [w0]) ++ List.replicate lits 0⟩

/-- A device that has started, with one workgroup of one group of one fragment of 32 threads, in front of the one
instruction of the clause, in a context that may run privileged instructions. -/
def State.placed (s : State) (c : Clause) : State :=
  { s with
    boot := { s.boot with stage := 7 }
    wgs := [{ blankWg with ngrp := 1, priv := true, winSize := 65536 }]
    groups := [{ gid := 0, wid := 0, gidx := 0, vside := 12, mside := 32, tiles := 32
                 frags := [{ fid := 0, mask := BitVec.allOnes 32, hdr := 0x10000, clause := some c }] }]
    nextId := max s.nextId 1
    agenda := [.issue 0 0 []] }

end Sys2Proof.Machine
end

