-- ==== Sys2Proof/Machine/Step.lean ====
section
/-! DEFINITION. One step of the machine: a move is taken, and the issuing fragment's or Mule's instruction, or the event,
runs. -/

namespace Sys2Proof.Machine

/-- Run what was chosen for an issuer. -/
def runChoice (s : State) (gid fid : Nat) (mule : Bool) (order : List Nat) : Choice → Host.Outcome State Fault Refusal
  | .idle => .next s
  | .trap code tval thr atHdr deferred posted => .next (s.takeTrap gid fid code tval thr atHdr deferred posted)
  | .illegal => .next s
  | .run i lits => exec i { (if mule then s.noteMule gid i lits else s.noteChoice gid fid) with cur := ⟨gid, fid, mule, lits, order⟩ }

/-- One move. An event is taken as given; a move that is not enabled changes nothing. -/
def runMove (s : State) : Move → Host.Outcome State Fault Refusal
  | .issue gid fid order => runChoice s gid fid false order (s.chooseFrag gid fid)
  | .mule gid => runChoice s gid 0 true [] (s.chooseMule gid)
  | .event i => if s.eventOk i then exec i s else .next s
  | .hostWrite pa data => .next (if s.ports then s.hostStore pa data else s)
  | .assign rcb => .next (if s.ports then s.assignContext rcb else s)
  | .release ctx => .next (if s.ports then s.releaseContext ctx else s)
  | .loadObject key text mule data const file => .next (if s.ports then s.loadObject key text mule data const file else s)
  | .divide l => .next (if s.ports then { s with domains := l } else s)
  | .writeBack line => .next (if s.boot.fatal.isNone then s.replaceLine line else s)
  | .filterEvict half => .next (s.evictFilter half)
  | .dropTlb n => .next { s with tlb := s.tlb.eraseIdx n }
  | .stage error => .next (s.nextStage error)
  | .peerId id => .next { s with peerId := id }
  | .corrected => .next (s.countDevice 6 1)
  | .linkPoison line => .next (if s.ports ∧ paTarget (128 * line) ≠ 0 then s.poisonLine line else s)

/-- One step: time passes, the next move is taken from the agenda, or chosen by the arbiter, and runs; pages whose world it changes
have other keys from then on (R366). -/
def step (s : State) : Host.Outcome State Fault Refusal :=
  match s.tick.nextMove with
  | (some m, t) => match runMove t m with
    | .next u => .next (t.rekeyed u)
    | r => r
  | (none, t) => .next t

/-- The state in which the instruction of the given words is what the next step runs (log 7). -/
def State.withFetchWord (s : State) (_nbits w : Nat) : State := s.placed (oneClause (w % 2 ^ 32) (w / 2 ^ 32 % 2 ^ 32))

end Sys2Proof.Machine
end

