-- ==== Sys2Proof/Safety.lean ====
section
/-! DEFINITION. What claims call a safe step, and the words in which claims are stated: when an instruction may issue,
what "it completes with this result" means for each frame, which parts of the state are the same. -/

namespace Sys2Proof.Machine

/-- The step answers a next state. -/
def Safe (s : State) : Prop := ∃ t, step s = .next t

/-- The issuer that `cur` names exists and nothing that is checked before every meaning stops instruction `i`: a Mule runs
an instruction of R115, the fields and literal words are legal (R148), the workgroup is privileged if `i` is (R301, R315), and
an open true execution does not forbid `i` (R131). -/
def State.CanIssue (s : State) (i : Instr) : Prop :=
  s.hasIssuer = true ∧ (s.cur.mule = true → muleOk i = true) ∧ i.wf = true ∧ i.litsOk s.cur.lits = true ∧
  (i.isPriv = true → s.cw.priv = true) ∧ (isImpure i = true → s.cg.apx = none ∨ s.cur.mule = true)

/-- The same as a test. -/
def State.canIssueB (s : State) (i : Instr) : Bool :=
  s.hasIssuer && (!s.cur.mule || muleOk i) && i.wf && i.litsOk s.cur.lits && (!i.isPriv || s.cw.priv) &&
  (!isImpure i || s.cg.apx.isNone || s.cur.mule)

/-- `i` completes whenever it may issue and its own effect takes state `s` to `u`. -/
def Completes (i : Instr) (s u : State) : Prop := exec i s = .next (u.retire i)

/-- Value number `k` of operands that were made ready. -/
def valueAt (os : List Opnd) (k : Nat) : Word64 := (os.getD k (.const 0)).value

/-- A two-source format U instruction whose sources can be read as `ty` and whose destination takes the result completes with
`r a b` written to SD (R173). -/
def ScalarGives (i : Instr) (f : FmtU) (ty : Ty) (r : Word64 → Word64 → Word64) (s : State) : Prop :=
  ∀ (t u : State) (os : List Opnd), s.CanIssue i → (∀ q, f.sd = .q q → s.cur.mule = true) →
    s.prepAll i [0] [⟨0, f.sa, ty⟩, ⟨1, f.sb, ty⟩] = .ok (t, os) →
    t.writeSD f.sd (r (valueAt os 0) (valueAt os 1)) = .ok u → Completes i s u

/-- The same for a one-source form. -/
def ScalarGives1 (i : Instr) (f : FmtU) (ty : Ty) (r : Word64 → Word64) (s : State) : Prop :=
  ∀ (t u : State) (os : List Opnd), s.CanIssue i → (∀ q, f.sd = .q q → s.cur.mule = true) →
    s.prepAll i [0] [⟨0, f.sa, ty⟩] = .ok (t, os) → t.writeSD f.sd (r (valueAt os 0)) = .ok u → Completes i s u

/-- The numbers that thread `th` reads from operands made ready. -/
def readsOf (t : State) (os : List Opnd) (srcs : List Src) (th : Nat) : List Nat :=
  List.zipWith (fun (o : Opnd) (x : Src) => o.read t.cg x.ty th) os srcs

/-- A vector instruction whose sources can be read and whose destination exists completes with `r` of each active thread's
operands written for that thread (R243). -/
def VectorGives (i : Instr) (g : Guard) (vd : Sel) (ty : Ty) (srcs : List Src) (r : State → Nat → List Nat → Word64) (s : State) : Prop :=
  ∀ (t u : State) (os : List Opnd), s.CanIssue i → s.dstCheck vd (regCount ty) = .ok s →
    s.prepAll i (threads (s.gmask g)) srcs = .ok (t, os) →
    t.writeDst vd ty.is64 ((t.visit (s.gmask g)).map (fun th => (th, r t th (readsOf t os srcs th)))) = .ok u → Completes i s u

/-- An instruction that writes a predicate completes with `r` of each active thread's operands in that thread's bit (R249). -/
def PredicateGives (i : Instr) (g : Guard) (pd : Nat) (srcs : List Src) (r : List Nat → Bool) (s : State) : Prop :=
  ∀ (t : State) (os : List Opnd), s.CanIssue i → s.prepAll i (threads (s.gmask g)) srcs = .ok (t, os) →
    Completes i s (t.writePred pd (s.gmask g) ((threads (s.gmask g)).map (fun th => (th, r (readsOf t os srcs th)))))

/-- A one-source instruction that rounds in mode RND: the active threads take their results in ascending order, each from the
generator's state that the one before left, and the group keeps the last state (R93). -/
def DrawGives (i : Instr) (f : FmtV) (srcTy : Ty) (r : Nat → BitVec 32 → Word64 × BitVec 32) (s : State) : Prop :=
  ∀ (t u : State) (os : List Opnd) (vals : List (Nat × Word64)) (sr : BitVec 32), s.CanIssue i → s.dstCheck f.vd (regCount f.ty) = .ok s →
    s.prepAll i (threads (s.gmask f.g)) [⟨1, f.sa, srcTy⟩] = .ok (t, os) →
    drawAll (fun th sr => ((th, (r ((os.getD 0 (.const 0)).read t.cg srcTy th) sr).1), (r ((os.getD 0 (.const 0)).read t.cg srcTy th) sr).2))
      (threads (s.gmask f.g)) t.cg.srstate = (vals, sr) →
    t.writeDst f.vd f.ty.is64 ((t.visit (s.gmask f.g)).map (fun th => (th, ((vals.find? (fun v => v.1 == th)).map Prod.snd).getD 0))) = .ok u →
    Completes i s (u.modCg (fun g => { g with srstate := sr }))

/-- An instruction that gives one result for the whole fragment completes with it written to VD (R250). -/
def WholeGives (i : Instr) (f : FmtV) (ty : Ty) (t : State) (x : Nat) (s : State) : Prop :=
  ∀ u : State, (if s.gmask f.g = 0 then u = t else match f.vd with
    | .s r => u = t.setS r.val (packTy ty x)
    | _ => t.writeDst f.vd ty.is64 ((threads (s.gmask f.g)).map (fun th => (th, packTy ty x))) = .ok u) → Completes i s u

/-- The value of the vector register SA in thread `th`, as it stands. -/
def laneVal (s : State) (f : FmtV) (r : Fin 192) (th : Nat) : Nat :=
  if f.ty.is64 then (s.cg.vpair r.val th).toNat else (s.cg.vreg r.val th).toNat

/-- A shuffle gives each active thread the value of its source thread (R255). -/
def ShuffleGives (i : Instr) (f : FmtV) (src : Nat → Nat → Nat → Nat) (s : State) : Prop :=
  ∀ (r : Fin 192) (t u : State) (os : List Opnd), f.sa = .v r → s.CanIssue i → s.dstCheck f.vd (regCount f.ty) = .ok s →
    s.rangeCheck f.sa (regCount f.ty) = .ok s → s.prepAll i (threads (s.gmask f.g)) [srcB f .n32] = .ok (t, os) →
    t.writeDst f.vd f.ty.is64 ((t.visit (s.gmask f.g)).map (fun th =>
      (th, packTy f.ty (let w := 2 ^ (f.aux.toNat % 8)
        let from_ := th / w * w + src w (th % w) ((readsOf t os [srcB f .n32] th).getD 0 0)
        if from_ < 32 then laneVal t f r from_ else 0)))) = .ok u → Completes i s u

/-- The values of a segment of 2^g threads that starts at `first`, absent where the thread is not active. -/
def segment (s : State) (f : FmtV) (r : Fin 192) (first : Nat) : List (Option Nat) :=
  (List.range (2 ^ (f.aux.toNat % 8))).map (fun j => if (s.gmask f.g).getLsbD (first + j) then some (laneVal s f r (first + j)) else none)

/-- A reduction or scan whose result for relative index `j` of a segment `x` is `r x j` (R256, R257). -/
def SegmentGives (i : Instr) (f : FmtV) (r : List (Option Nat) → Nat → Nat) (s : State) : Prop :=
  ∀ (a : Fin 192) (u : State), f.sa = .v a → f.aux.toNat % 8 ≤ 5 → s.CanIssue i → s.dstCheck f.vd (regCount f.ty) = .ok s →
    s.rangeCheck f.sa (regCount f.ty) = .ok s → (∀ d, f.vd ≠ .s d) →
    s.writeDst f.vd f.ty.is64 ((s.visit (s.gmask f.g)).map (fun th =>
      (th, packTy f.ty (let w := 2 ^ (f.aux.toNat % 8)
        r (segment s f a (th / w * w)) (th % w))))) = .ok u → Completes i s u

/-- Effective addresses that the active threads form from the prepared base operand (R205). -/
def formedEas (s t : State) (f : FmtM) (wide : Bool) (off : Word64) (o : Opnd) : List Ea :=
  (threads (s.gmask f.g)).map (fun th => ⟨th, n64 (o.read t.cg (baseSrc f wide).ty th) + off⟩)

/-- A load whose base can be read, whose path has room, whose addresses `mk` turns into accesses of a mode, and whose accesses all
succeed, completes with the loaded bytes in VD and one operation counted on `path` (R208, R211). -/
def LoadGives (i : Instr) (f : FmtM) (wide : Bool) (off : Word64) (path : Nat)
    (mk : State → List Ea → Except Stop (State × Mode × (Word64 → Word64))) (s : State) : Prop :=
  ∀ (t v u : State) (os : List Opnd) (mode : Mode) (at_ : Word64 → Word64) (vs : List (Nat × List Byte)),
    s.CanIssue i → s.rangeCheck f.vd (accessRegs f) = .ok s →
    s.prepAll i (threads (s.gmask f.g)) [baseSrc f wide] = .ok (t, os) →
    let eas := (formedEas s t f wide off (os.getD 0 (.const 0))).map (fun e => (⟨e.t, at_ e.ea⟩ : Ea))
    mk t (formedEas s t f wide off (os.getD 0 (.const 0))) = .ok (v, mode, at_) →
    v.loadThreads mode (accessBytes f) (accessBytes f) false eas = .ok (u, vs) → u.cg.inflight path < 63 →
    Completes i s ((u.putLoads f vs).modCg (fun g => g.fly { path := path, kind := .load, ext := u.loadExt mode eas }))

/-- A store whose operands can be read, whose release part finds no side-log entry, and whose accesses all succeed, completes in the
state that they leave (R208, R214). -/
def StoreGives (i : Instr) (f : FmtM) (wide : Bool) (off : Word64) (path : Nat) (clear : Bool)
    (mk : State → List Ea → Except Stop (State × Mode × (Word64 → Word64))) (s : State) : Prop :=
  ∀ (t v u : State) (os : List Opnd) (mode : Mode) (at_ : Word64 → Word64),
    s.CanIssue i → s.rangeCheck f.vd (accessRegs f) = .ok s →
    s.prepAll i (threads (s.gmask f.g)) [⟨0, f.vd, f.ty⟩, baseSrc f wide] = .ok (t, os) →
    (isRel f.ord = true → t.cg.sideLog = []) →
    mk t (formedEas s t f wide off (os.getD 1 (.const 0))) = .ok (v, mode, at_) →
    v.storeThreads mode (accessBytes f) f.scope.enc path clear false true ((v.visit (s.gmask f.g)).map (fun th =>
      ⟨th, at_ (n64 ((os.getD 1 (.const 0)).read v.cg (baseSrc f wide).ty th) + off), storeData f (os.getD 0 (.const 0)) v.cg th⟩)) = .ok u →
    Completes i s u

/-- Nothing holds or stops a read of `n` bytes at `ea` (R205, R209): the place exists, is aligned, filled and unpoisoned; a global
address translates, is not kept by the heap for want of a pin, and is not logged or held elsewhere. -/
def State.Readable (s : State) (m : Mode) (n : Nat) (ea : Word64) : Prop :=
  ea.toNat % n = 0 ∧ match placeOf m ea with
    | some (.win o) => o < s.cw.winSize ∧ s.cw.emptyAt o = false ∧ s.cw.winPoisoned o n = false
    | some (.glob a) => s.pinBusy s.cw.who a.toNat false = none ∧ s.pinFails s.cw.who a.toNat false = false ∧ s.cg.loggedByte a.toNat n = false ∧
        ∃ x, s.fate s.cw.who a.toNat false = .ok x ∧ s.snoopBusy x.pa n false = false ∧ s.poisoned x.pa n = false
    | _ => False

/-- Nothing holds or stops a write of `n` bytes at `ea` by a fragment whose group has no side-log entry. -/
def State.Writable (s : State) (m : Mode) (n : Nat) (ea : Word64) : Prop :=
  ea.toNat % n = 0 ∧ match placeOf m ea with
    | some (.win o) => o < s.cw.winSize ∧ s.cw.readOnly o = false ∧ s.cw.emptyAt o = false
    | some (.glob a) => s.pinBusy s.cw.who a.toNat true = none ∧ s.pinFails s.cw.who a.toNat true = false ∧
        ∃ x, s.fate s.cw.who a.toNat true = .ok x ∧ x.dirty = none ∧ s.snoopBusy x.pa n true = false
    | _ => False

/-- The physical or window bytes of one thread's store; one of both. -/
def State.storeAt (s : State) (m : Mode) (ea : Word64) : Option Nat × Option Nat :=
  match placeOf m ea with
  | some (.win o) => (none, some o)
  | some (.glob a) => match s.fate s.cw.who a.toNat true with
    | .ok x => (some x.pa, none)
    | _ => (none, none)
  | _ => (none, none)

/-- The operands of one thread's atomic or reduction (R218). -/
def atomArg (t : State) (f : FmtAT) (os : List Opnd) (th : Nat) : AtomArg :=
  ⟨th, n64 ((os.getD 0 (.const 0)).read t.cg .n64 th), (os.getD 1 (.const 0)).read t.cg f.ty th, (os.getD 2 (.const 0)).read t.cg f.ty th⟩

/-- An atomic (or, with `isRed`, a reduction) whose operands can be read and whose places all pass the checks of R205 and R219
performs the threads' indivisible operations one after the other, writes the old values to VD, and counts one operation. -/
def AtomGives (i : Instr) (f : FmtAT) (op : AtomOp) (isRed : Bool) (s : State) : Prop :=
  ∀ (t v : State) (os : List Opnd), s.CanIssue i → s.rangeCheck f.vd (regCount f.ty) = .ok s →
    s.prepAll i (threads (s.gmask f.g)) ([⟨1, f.addr, .n64⟩, ⟨2, f.data, f.ty⟩] ++ if op = .cas then [⟨3, f.cmp, f.ty⟩] else []) = .ok (t, os) →
    let n := f.ty.bytes
    let path := if isRed then 1 else 0
    let asc := (threads (s.gmask f.g)).map (fun th => (⟨th, (atomArg t f os th).ea⟩ : Ea))
    t.cg.sideLog = [] → t.addressCheck .generic asc n true false = .ok t → t.dropTest .generic true asc = .ok t → t.touchAll .generic asc = .ok v →
    v.cg.inflight path < 63 → v.cg.sideLog = [] →
    let d := (v.claimWrites .generic asc).1
    let fs := (v.claimWrites .generic asc).2
    (∀ x ∈ v.fates .generic asc true, ∃ y, x.2 = .ok y ∧ v.snoopBusy y.pa n true = false ∧ (isRed = false → v.needsM y n = false)) →
    (∀ x ∈ fs, ∃ y, x.2 = .ok y) → d.cg.sideLog = [] → v.atomPoison isRed n asc = .ok v →
    let args := (t.visit (s.gmask f.g)).map (atomArg t f os)
    let r := args.foldl (fun (a : State × List (Nat × Word64)) x =>
      let q := a.1.atomOne op f.ty x (fateOf fs x.t)
      (q.1, a.2 ++ ((q.2.map (fun w => (x.t, packTy f.ty w))).toList))) (d, [])
    let lines := if isRed then (fs.filterMap (fun x => match x.2 with
      | .ok y => some (r.1.waitingLines y.pa n)
      | _ => none)).flatten else []
    let old := if isRed then (args.map (fun x => d.oldBytes .generic ⟨x.t, x.ea, leBytes n x.d⟩ (fateOf fs x.t))).flatten else []
    let u := r.1.modCg (fun g => g.fly { path := path, kind := if isRed then .store else .load, lines := lines, old := old, ext := d.extOf fs })
    Completes i s (match f.vd with
      | .v d => u.modCg (fun g => g.putV d.val f.ty.is64 r.2)
      | _ => u)

/-- A hardware queue's header at a legal address can be reached at `x` and holds a valid header of this launch and unit (R223 to
R225), and no older push or pop waits. -/
def State.QueueReady (s : State) (a : Word64) (push : Bool) (x : Xlat) (h : QHeader) : Prop :=
  isGlobal a = true ∧ a.toNat % 64 = 0 ∧ s.queueReach a.toNat 64 = .ok x ∧ h = decodeQueue (s.rd x.pa 64) ∧ h.valid = true ∧
  1 ≤ h.logcap ∧ h.logcap ≤ 16 ∧ (h.tail + 2 ^ 64 - h.head) % 2 ^ 64 ≤ 2 ^ h.logcap ∧ h.scope ≠ 3 ∧ h.scope ≠ 4 ∧ h.scope ≠ 7 ∧
  (h.scope ≤ 2 → (h.launch, h.unit) = s.queueUnit h.scope) ∧ s.queueBehind x.pa push = false

/-- The operands of a matrix operation lie in registers that the group holds or are named by valid descriptor pairs whose units lie
in the window (R106, R107, R110, R111). `rows` are the rows or columns used. -/
def State.MatSrcOk (s : State) (x : MatSrc) (regs : Nat) (rows : List Nat) : Prop :=
  (x.pair = false → x.op + regs ≤ s.cg.mside) ∧ (x.pair = true → pairOk x.d0 x.d1 = true) ∧
  ∀ r ∈ rows, ∀ o ∈ x.units r, o < s.cw.winSize

/-- The fields of an MMA or MMAS: operands, format block, scale offsets of row `t` of A and column `j` of B, and what they hold. -/
structure MatCase where
  a : MatSrc
  b : MatSrc
  fb : FmtBlock
  k : Nat
  ne : Nat

/-- The fields that the instruction and the scalar registers give (R104, R106, R109, R112). -/
def State.matCase (s : State) (f : FmtX) (sparse : Bool) : MatCase :=
  let k := 32 * 2 ^ f.wcls.val
  { a := s.matSrc f.sA f.aop 64, b := s.matSrc f.sB f.bop (if sparse then 128 else 64)
    fb := fmtBlock (s.cg.sreg f.fbp.val).toNat (s.cg.sreg (f.fbp.val + 1)).toNat, k := k, ne := if sparse then 2 * k else k }
/-- Scale bytes of a row of A or a column of B. -/
def MatCase.aScale (c : MatCase) (t : Nat) : List Nat := if c.fb.blk then (List.range (c.k / 4)).map (fun i => c.fb.ascale + t * c.fb.aspitch + i) else []
def MatCase.bScale (c : MatCase) (j : Nat) : List Nat := if c.fb.blk then (List.range (c.ne / 4)).map (fun i => c.fb.bscale + j * c.fb.bspitch + i) else []
/-- Decoded elements of a row of A or a column of B. -/
def MatCase.row (c : MatCase) (s : State) (t : Nat) : List FVal :=
  decodeRow c.fb.af (c.a.bytes s.cg s.cw t) (if c.fb.blk then some ((c.aScale t).map (fun o => (s.cw.winByte o).toNat)) else none)
def MatCase.col (c : MatCase) (s : State) (j : Nat) : List FVal :=
  decodeRow c.fb.bf (c.b.bytes s.cg s.cw j) (if c.fb.blk then some ((c.bScale j).map (fun o => (s.cw.winByte o).toNat)) else none)

/-- Nothing stops the operation (R46, R110, R111, R112), and no byte of the window is poisoned. -/
def State.MatReady (s : State) (f : FmtX) (sparse : Bool) : Prop :=
  let c := s.matCase f sparse
  let ts := threads (s.gmask f.g)
  s.MatSrcOk c.a 1 ts ∧ s.MatSrcOk c.b (if sparse then 4 else 2) (List.range 64) ∧ f.acc.val < s.cg.tiles ∧
  fmtBlockOk f.wcls.val (s.cg.sreg f.fbp.val).toNat (s.cg.sreg (f.fbp.val + 1)).toNat = true ∧
  (∀ t ∈ ts, ∀ o ∈ c.aScale t, o < s.cw.winSize) ∧ (∀ j, j < 64 → ∀ o ∈ c.bScale j, o < s.cw.winSize) ∧
  (sparse = true → s.cg.sparse = true ∧ 2 ^ f.wcls.val ≤ s.cg.spq.length) ∧ s.cw.winPoison = []

/-- An asynchronous instruction may start a command: fewer than 32 of the group are outstanding (R228), its barrier object, if it
names one, is aligned and resolves, and `bad` window offsets are none (R226, R231). -/
def State.CommandReady (s : State) (f : FmtA) (addrs : List Word64) (bad : List Nat) : Prop :=
  (s.cmds.filter (fun c => c.gid == s.cur.gid)).length < 32 ∧
  (∀ b, f.sb = some b → (s.sreg b.val).toNat % 16 = 0) ∧
  (∀ a ∈ addrs ++ (s.objAddr f).toList, (resolveGeneric a).isSome = true) ∧ bad ++ objBad s.cw (s.objAddr f) = []

/-- The issuer can read a twin slot's descriptor, and it is `t` (R77, R235). -/
def State.TwinIs (s : State) (r : TwinRef) (t : Twin) : Prop := s.twinBusy s.cw.who r false = none ∧ s.getTwin s.cw.who s.cg.wid r = .ok t
/-- The descriptor can be written. -/
def State.TwinWritable (s : State) (r : TwinRef) : Prop := s.twinFate s.cw.who r = none ∧ s.twinBusy s.cw.who r true = none
/-- The state behind a look at it. -/
def State.twinSeen (s : State) (r : TwinRef) : State := s.noteTwin s.cw.who r
/-- The state with `t` written to it. -/
def State.twinPut (s : State) (r : TwinRef) (t : Twin) : State := s.putTwin s.cw.who s.cg.wid r t

/-- The command with the fields that its issuer gives it (R226). -/
def State.ownCmd (s : State) (f : FmtA) (c : Cmd) : Cmd :=
  { c with id := s.nextId, gid := s.cur.gid, wid := s.cg.wid, ctx := s.cw.ctx, fdom := s.cw.fdom, obj := s.objAddr f, old := s.cg.olderBytes }

/-- A command with nothing in it. -/
def blankCmd (k : CmdKind) : Cmd := { id := 0, gid := 0, wid := 0, ctx := 0, kind := k }

/-- The instruction completes by starting command `c`: it is the last of the outstanding commands, SC holds ACCEPTED, and nothing else
has changed (R226, R227). -/
def Starts (i : Instr) (f : FmtA) (c : Cmd) (s : State) : Prop :=
  Completes i s ({ s with cmds := s.cmds ++ [s.ownCmd f c], nextId := s.nextId + 1 }.setSOpt f.sc 0)

/-- `i` takes `s` to `u`: an event that happens, or an instruction that moves its issuer itself. -/
def MovesTo (i : Instr) (s u : State) : Prop := exec i s = .next u

/-- H + 4 × an offset, modulo 2^57 (R159, R178). -/
def offsetFrom (hdr : Word64) (k : Int) : Word64 := n64 (((hdr.toNat : Int) + 4 * k) % 2 ^ 57).toNat

/-- Where a branch that the whole issuer takes goes: to its target; a fragment that goes there by an offset of 0 or less may swap paths
of its serial levels (R22, R178). -/
def State.branched (s : State) (f : FmtCB) : State :=
  let u := s.goto (offsetFrom s.curHdr f.toff.toInt)
  if s.cur.mule = false ∧ f.toff.toInt ≤ 0 then u.modCf Frag.swapPoint else u

/-- Registers of a group in canonical form, fragments numbered below the next number, and a trap level that exists. -/
def Group.Canonical (g : Group) : Prop :=
  SMap.wf 0 g.sregs = true ∧ SMap.wf 0 g.preds = true ∧ g.tlevel ≤ 2 ∧ ∀ f ∈ g.frags, f.fid < g.nextFid

/-- Canonical form of memory, of the sparse maps that statements read back, and of every group, resident or saved. -/
def State.Canonical (s : State) : Prop :=
  Memory.wf s.mem ∧ SMap.wf 0 s.bar = true ∧ SMap.wf 0 s.invDone = true ∧ SMap.wf [] s.modified = true ∧ SMap.wf none s.remote = true ∧
  (∀ g ∈ s.groups, g.Canonical) ∧ ∀ i ∈ s.saved, ∀ g ∈ i.groups, g.Canonical

end Sys2Proof.Machine
end

