-- ==== Sys2Proof/Certificates/Slice0/Obligations.lean ====
section
/-! DEFINITION. The statements for the provers. -/

open Sys2Proof Sys2Proof.Machine

/-- R174: integer arithmetic of the scalar class, over every operand form (R173); the divides with w = 64 (R89): all ones and the dividend for a zero
divisor where DIVTRAP is clear; where it is set, DIVIDE_BY_ZERO with TVAL 0 before SD is written, which in a Mule ends the Mule (R115). No instruction
has minor 13, 14 or 15. -/
def Obligations.ScalarArithmetic : Prop :=
(∀ (f : FmtU) (s : State),
  ScalarGives (.sadd f) f .i64 (fun a b => a + b) s ∧
  ScalarGives (.ssub f) f .i64 (fun a b => a - b) s ∧
  ScalarGives (.smul f) f .i64 (fun a b => BitVec.ofInt 64 (a.toInt * b.toInt)) s ∧
  ScalarGives (.smulhs f) f .i64 (fun a b => BitVec.ofInt 64 (a.toInt * b.toInt / 2 ^ 64)) s ∧
  ScalarGives (.smulhu f) f .n64 (fun a b => BitVec.ofNat 64 (a.toNat * b.toNat / 2 ^ 64)) s ∧
  ScalarGives (.smins f) f .i64 (fun a b => if a.toInt ≤ b.toInt then a else b) s ∧
  ScalarGives (.sminu f) f .n64 (fun a b => if a.toNat ≤ b.toNat then a else b) s ∧
  ScalarGives (.smaxs f) f .i64 (fun a b => if b.toInt ≤ a.toInt then a else b) s ∧
  ScalarGives (.smaxu f) f .n64 (fun a b => if b.toNat ≤ a.toNat then a else b) s) ∧
(∀ (f : FmtU) (s t u : State) (os : List Opnd),
  (∀ q, f.sd = .q q → s.cur.mule = true) → (valueAt os 1 = 0 → t.cw.divtrap = false) →
  (∀ (i : Instr) (ty : Ty) (r : Word64 → Word64 → Word64),
    ((i = .sdivs f ∧ ty = .i64 ∧ r = fun a b => if b = 0 then BitVec.allOnes 64 else BitVec.ofInt 64 (Int.tdiv a.toInt b.toInt)) ∨
     (i = .sdivu f ∧ ty = .n64 ∧ r = fun a b => if b = 0 then BitVec.allOnes 64 else BitVec.ofNat 64 (a.toNat / b.toNat)) ∨
     (i = .srems f ∧ ty = .i64 ∧ r = fun a b => if b = 0 then a else BitVec.ofInt 64 (Int.tmod a.toInt b.toInt)) ∨
     (i = .sremu f ∧ ty = .n64 ∧ r = fun a b => if b = 0 then a else BitVec.ofNat 64 (a.toNat % b.toNat))) →
    s.CanIssue i → s.prepAll i [0] [⟨0, f.sa, ty⟩, ⟨1, f.sb, ty⟩] = .ok (t, os) →
    t.writeSD f.sd (r (valueAt os 0) (valueAt os 1)) = .ok u → Completes i s u)) ∧
(∀ (f : FmtU) (s t : State) (os : List Opnd) (i : Instr),
  (i = .sdivs f ∨ i = .sdivu f ∨ i = .srems f ∨ i = .sremu f) → s.CanIssue i → (∀ q, f.sd = .q q → s.cur.mule = true) →
  t.cw.divtrap = true → valueAt os 1 = 0 →
  (s.prepAll i [0] [⟨0, f.sa, .i64⟩, ⟨1, f.sb, .i64⟩] = .ok (t, os) ∧ (i = .sdivs f ∨ i = .srems f) ∨
   s.prepAll i [0] [⟨0, f.sa, .n64⟩, ⟨1, f.sb, .n64⟩] = .ok (t, os) ∧ (i = .sdivu f ∨ i = .sremu f)) →
  exec i s = .next (if t.cur.mule then t.muleStop else t.takeTrap t.cur.gid t.cur.fid cDivide 0 none false false none)) ∧
(∀ (m x w : Nat) (i : Instr), 13 ≤ m → m < 16 → x < 2 ^ 22 → decodeWords (0x01 * 2 ^ 26 + m * 2 ^ 22 + x) w ≠ .ok i)

/-- R177: moves and comparisons of the scalar class. SMOV has SB 0x00, and no instruction has a minor of 7 to 15. -/
def Obligations.ScalarMovesComparisons : Prop :=
(∀ (f : FmtU) (s : State),
  ScalarGives1 (.smov f) f .i64 (fun a => a) s ∧
  ScalarGives (.sseq f) f .i64 (fun a b => if a = b then 1 else 0) s ∧
  ScalarGives (.ssne f) f .i64 (fun a b => if a = b then 0 else 1) s ∧
  ScalarGives (.sslts f) f .i64 (fun a b => if a.toInt < b.toInt then 1 else 0) s ∧
  ScalarGives (.ssltu f) f .n64 (fun a b => if a.toNat < b.toNat then 1 else 0) s ∧
  ScalarGives (.ssles f) f .i64 (fun a b => if a.toInt ≤ b.toInt then 1 else 0) s ∧
  ScalarGives (.ssleu f) f .n64 (fun a b => if a.toNat ≤ b.toNat then 1 else 0) s) ∧
(∀ (x w : Nat) (i : Instr), x < 2 ^ 22 → x % 256 ≠ 0 → decodeWords (0x03 * 2 ^ 26 + x) w = .ok i → i.wf = false) ∧
(∀ (m x w : Nat) (i : Instr), 7 ≤ m → m < 16 → x < 2 ^ 22 → decodeWords (0x03 * 2 ^ 26 + m * 2 ^ 22 + x) w ≠ .ok i)

/-- R175: bit operations of the scalar class. R176: the field at bit b[5:0] of min(b[14:8], 64 - b[5:0]) bits, extracted with zeros or its top bit above
it, or replaced by the low bits of a; where SD names no scalar register the word inserted into is a free value (log 2). -/
def Obligations.ScalarBits : Prop :=
(∀ (f : FmtU) (s : State),
  ScalarGives (.sand f) f .n64 (fun a b => a &&& b) s ∧
  ScalarGives (.sor f) f .n64 (fun a b => a ||| b) s ∧
  ScalarGives (.sxor f) f .n64 (fun a b => a ^^^ b) s ∧
  ScalarGives (.sandn f) f .n64 (fun a b => a &&& ~~~b) s ∧
  ScalarGives (.sshl f) f .n64 (fun a b => a <<< (b.setWidth 6)) s ∧
  ScalarGives (.sshr f) f .n64 (fun a b => a >>> (b.setWidth 6)) s ∧
  ScalarGives (.ssra f) f .n64 (fun a b => BitVec.sshiftRight' a (b.setWidth 6)) s ∧
  ScalarGives (.srol f) f .n64 (fun a b => a <<< (b.setWidth 6) ||| a >>> (64 - b.toNat % 64)) s ∧
  ScalarGives1 (.spopc f) f .n64 (fun a => BitVec.ofNat 64 ((List.range 64).countP (fun k => a.getLsbD k))) s ∧
  ScalarGives1 (.sclz f) f .n64 (fun a => BitVec.ofNat 64 (((List.range 64).find? (fun k => a.getLsbD (63 - k))).getD 64)) s ∧
  ScalarGives1 (.sctz f) f .n64 (fun a => BitVec.ofNat 64 (((List.range 64).find? (fun k => a.getLsbD k)).getD 64)) s ∧
  ScalarGives1 (.sbrev f) f .n64 (fun a => a.reverse) s) ∧
(∀ (f : FmtU) (s : State),
  let pos (b : Word64) : Nat := b.toNat % 64
  let len (b : Word64) : Nat := min (b.toNat / 256 % 128) (64 - pos b)
  ScalarGives (.sbfx f) f .n64 (fun a b => BitVec.ofNat 64 (a.toNat / 2 ^ pos b % 2 ^ len b)) s ∧
  ScalarGives (.sbfxs f) f .n64 (fun a b =>
    let x := a.toNat / 2 ^ pos b % 2 ^ len b
    if len b ≠ 0 ∧ 2 ^ (len b - 1) ≤ x then BitVec.ofInt 64 ((x : Int) - (2 ^ len b : Nat)) else BitVec.ofNat 64 x) s ∧
  (∀ (t u : State) (os : List Opnd), s.CanIssue (.sbfi f) → (∀ q, f.sd = .q q → s.cur.mule = true) →
    s.prepAll (.sbfi f) [0] [⟨0, f.sa, .n64⟩, ⟨1, f.sb, .n64⟩] = .ok (t, os) →
    let a := valueAt os 0
    let b := valueAt os 1
    let m := BitVec.ofNat 64 ((2 ^ len b - 1) * 2 ^ pos b)
    let d : Word64 := match f.sd with
      | .s k => t.sreg k.val
      | _ => t.free 64 0
    t.writeSD f.sd ((d &&& ~~~m) ||| (a <<< pos b &&& m)) = .ok u → Completes (.sbfi f) s u))

/-- R19, R152, R163, R173: what prepared operands and a written destination are: registers, literals and constants, for a group's fragment and for a
Mule. -/
def Obligations.ScalarOperandForms : Prop := ∀ (s : State) (i : Instr) (x : Sel) (ty : Ty) (pos : Nat),
  (∀ k, x = .s k → s.prepAll i [0] [⟨pos, x, ty⟩] = .ok (s, [.const (s.sreg k.val)])) ∧
  (x = .zero → s.prepAll i [0] [⟨pos, x, ty⟩] = .ok (s, [.const 0])) ∧
  (x = .tid → ∃ o, s.prepAll i [0] [⟨pos, x, ty⟩] = .ok (s, [o]) ∧ o.value = 0) ∧
  (x = .lit → ty = .i64 → s.prepAll i [0] [⟨pos, x, ty⟩] = .ok (s, [.const ((s.litWord i pos).signExtend 64)])) ∧
  (x = .lit → ty = .n64 → s.prepAll i [0] [⟨pos, x, ty⟩] = .ok (s, [.const ((s.litWord i pos).setWidth 64)])) ∧
  (∀ k e l, x = .q k → s.queue k.val = e :: l → s.prepAll i [0] [⟨pos, x, ty⟩] = .ok (s, [.const e])) ∧
  (∀ d v, s.writeSD (.s d) v = .ok (s.setS d.val v)) ∧ (∀ v, s.writeSD .discard v = .ok s)

/-- R88, R243, R245: vector integer arithmetic of each active thread: the exact result, clamped to the type's range under SAT and wrapped to its width
otherwise, extended to the register. -/
def Obligations.VectorIntegerArithmetic : Prop := ∀ (f : FmtV) (s : State),
  let v (x : Nat) : Int := intVal f.ty x
  let r (x : Int) : Word64 := packTy f.ty ((if f.sat then max (intLo f.ty) (min (intHi f.ty) x) else x) % 2 ^ f.ty.width).toNat
  let a := srcA f f.ty
  let b := srcB f f.ty
  let c := srcC f f.ty
  VectorGives (.iadd f) f.g f.vd f.ty [a, b] (fun _ _ l => r (v (l.getD 0 0) + v (l.getD 1 0))) s ∧
  VectorGives (.isub f) f.g f.vd f.ty [a, b] (fun _ _ l => r (v (l.getD 0 0) - v (l.getD 1 0))) s ∧
  VectorGives (.imul f) f.g f.vd f.ty [a, b] (fun _ _ l => r (v (l.getD 0 0) * v (l.getD 1 0))) s ∧
  VectorGives (.imulhi f) f.g f.vd f.ty [a, b] (fun _ _ l => r (v (l.getD 0 0) * v (l.getD 1 0) / 2 ^ f.ty.width)) s ∧
  VectorGives (.imad f) f.g f.vd f.ty [a, b, c] (fun _ _ l => r (v (l.getD 0 0) * v (l.getD 1 0) + v (l.getD 2 0))) s ∧
  VectorGives (.imin f) f.g f.vd f.ty [a, b] (fun _ _ l => r (if v (l.getD 0 0) ≤ v (l.getD 1 0) then v (l.getD 0 0) else v (l.getD 1 0))) s ∧
  VectorGives (.imax f) f.g f.vd f.ty [a, b] (fun _ _ l => r (if v (l.getD 0 0) ≤ v (l.getD 1 0) then v (l.getD 1 0) else v (l.getD 0 0))) s ∧
  VectorGives (.iabs f) f.g f.vd f.ty [a] (fun _ _ l => r (if v (l.getD 0 0) < 0 then -v (l.getD 0 0) else v (l.getD 0 0))) s ∧
  VectorGives (.ineg f) f.g f.vd f.ty [a] (fun _ _ l => r (0 - v (l.getD 0 0))) s ∧
  VectorGives (.isad f) f.g f.vd f.ty [a, b, c] (fun _ _ l =>
    let d := v (l.getD 0 0) - v (l.getD 1 0)
    r ((if d < 0 then -d else d) + v (l.getD 2 0))) s

/-- R89, R245: vector division where DIVTRAP is clear or no active thread's divisor is 0: the truncated quotient, all ones for a zero divisor; the
remainder, the dividend for a zero divisor; where DIVTRAP is set and an active thread's divisor is 0, the first such thread takes DIVIDE_BY_ZERO and
nothing is written. -/
def Obligations.VectorDivision : Prop := ∀ (f : FmtV) (s t u : State) (os : List Opnd) (i : Instr) (r : Int → Int → Int),
  (i = .idiv f ∧ r = (fun a b => if b = 0 then -1 else Int.tdiv a b)) ∨ (i = .irem f ∧ r = (fun a b => if b = 0 then a else Int.tmod a b)) →
  s.CanIssue i → s.dstCheck f.vd (regCount f.ty) = .ok s →
  s.prepAll i (threads (s.gmask f.g)) [srcA f f.ty, srcB f f.ty] = .ok (t, os) →
  let a (th : Nat) : Int := intVal f.ty ((readsOf t os [srcA f f.ty, srcB f f.ty] th).getD 0 0)
  let b (th : Nat) : Int := intVal f.ty ((readsOf t os [srcA f f.ty, srcB f f.ty] th).getD 1 0)
  ((t.cw.divtrap = false ∨ ∀ th ∈ threads (s.gmask f.g), b th ≠ 0) →
    t.writeDst f.vd f.ty.is64 ((t.visit (s.gmask f.g)).map (fun th => (th, packTy f.ty (r (a th) (b th) % 2 ^ f.ty.width).toNat))) = .ok u →
    Completes i s u) ∧
  (∀ th, t.cw.divtrap = true → (threads (s.gmask f.g)).find? (fun th => b th == 0) = some th → t.cur.mule = false →
    exec i s = .next (t.takeTrap t.cur.gid t.cur.fid cDivide (BitVec.ofNat 64 th) (some th) false false none))

/-- R246: vector bit operations: logic, shifts by b mod w, counts as .n32, bit reversal, and LOP3's table. R176, R246: vector field extract and insert,
field at b[5:0] of b[14:8] bits within the width. -/
def Obligations.VectorBits : Prop :=
(∀ (f : FmtV) (s : State),
  let w := f.ty.width
  let a := srcA f f.ty
  let b := srcB f f.ty
  let n := srcB f .n32
  let p (x : Nat) : Word64 := packTy f.ty x
  VectorGives (.and f) f.g f.vd f.ty [a, b] (fun _ _ l => p (l.getD 0 0 &&& l.getD 1 0)) s ∧
  VectorGives (.or f) f.g f.vd f.ty [a, b] (fun _ _ l => p (l.getD 0 0 ||| l.getD 1 0)) s ∧
  VectorGives (.xor f) f.g f.vd f.ty [a, b] (fun _ _ l => p (l.getD 0 0 ^^^ l.getD 1 0)) s ∧
  VectorGives (.not f) f.g f.vd f.ty [a] (fun _ _ l => p (2 ^ w - 1 - l.getD 0 0)) s ∧
  VectorGives (.shl f) f.g f.vd f.ty [a, n] (fun _ _ l => p (l.getD 0 0 * 2 ^ (l.getD 1 0 % w) % 2 ^ w)) s ∧
  VectorGives (.shr f) f.g f.vd f.ty [a, n] (fun _ _ l => p (intVal f.ty (l.getD 0 0) / 2 ^ (l.getD 1 0 % w) % 2 ^ w).toNat) s ∧
  VectorGives (.rol f) f.g f.vd f.ty [a, n] (fun _ _ l =>
    p (l.getD 0 0 * 2 ^ (l.getD 1 0 % w) % 2 ^ w + l.getD 0 0 / 2 ^ (w - l.getD 1 0 % w))) s ∧
  VectorGives (.popc f) f.g f.vd .n32 [a] (fun _ _ l => packTy .n32 ((List.range w).countP (fun k => (l.getD 0 0).testBit k))) s ∧
  VectorGives (.clz f) f.g f.vd .n32 [a] (fun _ _ l => packTy .n32 (((List.range w).find? (fun k => (l.getD 0 0).testBit (w - 1 - k))).getD w)) s ∧
  VectorGives (.brev f) f.g f.vd f.ty [a] (fun _ _ l => p (BitVec.ofNat w (l.getD 0 0)).reverse.toNat) s ∧
  VectorGives (.lop3 f) f.g f.vd f.ty [a, b, srcC f f.ty] (fun _ _ l =>
    p ((List.range w).map (fun k => if f.aux.getLsbD ((if (l.getD 0 0).testBit k then 4 else 0) + (if (l.getD 1 0).testBit k then 2 else 0) +
      (if (l.getD 2 0).testBit k then 1 else 0)) then 2 ^ k else 0)).sum) s) ∧
(∀ (f : FmtV) (s : State),
  let w := f.ty.width
  let pos (b : Nat) : Nat := b % 64
  let len (b : Nat) : Nat := min (b / 256 % 128) (w - pos b)
  VectorGives (.bfx f) f.g f.vd f.ty [srcA f f.ty, srcB f .n32] (fun _ _ l =>
    let b := l.getD 1 0
    let x := l.getD 0 0 / 2 ^ pos b % 2 ^ len b
    packTy f.ty (if f.ty.isSigned ∧ len b ≠ 0 ∧ 2 ^ (len b - 1) ≤ x then x + 2 ^ w - 2 ^ len b else x)) s ∧
  VectorGives (.bfi f) f.g f.vd f.ty [srcA f f.ty, srcB f .n32, srcC f f.ty] (fun _ _ l =>
    let b := l.getD 1 0
    let c := l.getD 2 0
    packTy f.ty (c - c / 2 ^ pos b % 2 ^ len b * 2 ^ pos b + l.getD 0 0 % 2 ^ len b * 2 ^ pos b)) s)

/-- R94, R95, R247: vector floating-point arithmetic: operands decoded exactly, the exact result rounded once. R91, R94, R247: FMIN and FMAX give the
code of the lesser or greater operand, the other operand where one is a NaN, and the canonical NaN where both are; of two zeros FMIN takes the negative
one, FMAX the positive. FABS clears and FNEG flips the sign bit of a code that is no NaN. A result of these four that lies below the least normal number
of a 16-bit type is a zero of its sign. The model's choices: log 36. -/
def Obligations.VectorFloat : Prop :=
(∀ (f : FmtV) (s : State),
  let d (x : Nat) : FVal := decTy f.ty x
  let r (x : FVal) : Word64 := packTy f.ty (arithTo f.ty x)
  let a := srcA f f.ty
  let b := srcB f f.ty
  VectorGives (.fadd f) f.g f.vd f.ty [a, b] (fun _ _ l => r ((d (l.getD 0 0)).add (d (l.getD 1 0)))) s ∧
  VectorGives (.fsub f) f.g f.vd f.ty [a, b] (fun _ _ l => r ((d (l.getD 0 0)).add (d (l.getD 1 0)).neg)) s ∧
  VectorGives (.fmul f) f.g f.vd f.ty [a, b] (fun _ _ l => r ((d (l.getD 0 0)).mul (d (l.getD 1 0)))) s ∧
  VectorGives (.ffma f) f.g f.vd f.ty [a, b, srcC f f.ty] (fun _ _ l => r (((d (l.getD 0 0)).mul (d (l.getD 1 0))).add (d (l.getD 2 0)))) s ∧
  VectorGives (.fdiv f) f.g f.vd f.ty [a, b] (fun _ _ l => r ((d (l.getD 0 0)).div (d (l.getD 1 0)))) s ∧
  VectorGives (.fsqrt f) f.g f.vd f.ty [a] (fun _ _ l => r (d (l.getD 0 0)).sqrt) s) ∧
(∀ (f : FmtV) (s : State),
  let d (x : Nat) : FVal := decTy f.ty x
  let sign : Nat := 2 ^ (f.ty.width - 1)
  let nan := (ffmt f.ty).canonical
  let out (x : Nat) : Nat := if (f.ty = .f16 ∨ f.ty = .bf16) ∧ x % sign < 2 ^ (ffmt f.ty).mw then x / sign * sign else x
  VectorGives (.fmin f) f.g f.vd f.ty [srcA f f.ty, srcB f f.ty] (fun _ _ l => packTy f.ty (minMaxCode f.ty false (l.getD 0 0) (l.getD 1 0))) s ∧
  VectorGives (.fmax f) f.g f.vd f.ty [srcA f f.ty, srcB f f.ty] (fun _ _ l => packTy f.ty (minMaxCode f.ty true (l.getD 0 0) (l.getD 1 0))) s ∧
  (f.ty.isFloat = true → ∀ (isMax : Bool) (a b : Nat),
    ((d a).isNan ∧ (d b).isNan → minMaxCode f.ty isMax a b = nan) ∧ ((d a).isNan ∧ (d b).isNan = false → minMaxCode f.ty isMax a b = out b) ∧
    ((d a).isNan = false ∧ (d b).isNan → minMaxCode f.ty isMax a b = out a) ∧
    ((d a).lt (d b) = true → minMaxCode f.ty isMax a b = out (if isMax then b else a)) ∧
    ((d b).lt (d a) = true → minMaxCode f.ty isMax a b = out (if isMax then a else b)) ∧
    ((d a).isZero = true ∧ (d b).isZero = true → (d a).sign ≠ (d b).sign → minMaxCode f.ty isMax a b = out (if (d a).sign = isMax then b else a))) ∧
  VectorGives (.fabs f) f.g f.vd f.ty [srcA f f.ty] (fun _ _ l =>
    let x := l.getD 0 0
    packTy f.ty (if (d x).isNan then nan else out (x % sign))) s ∧
  VectorGives (.fneg f) f.g f.vd f.ty [srcA f f.ty] (fun _ _ l =>
    let x := l.getD 0 0
    packTy f.ty (if (d x).isNan then nan else out (if x / sign % 2 = 1 then x % sign else x % sign + sign))) s)

/-- R93, R95, R251: FRINT rounds to an integral value in mode RND; CVT converts between integers with wrap or clamp, from an integer, to an integer with
clamp, to a type that holds every value of the source, and otherwise with one rounding in RND. A finite element draws from the generator in mode 4,
nothing else does. The model's choices: log 36. -/
def Obligations.RoundingConversions : Prop := ∀ (f : FmtV) (s : State),
  let fin (v : FVal) : Bool := match v with
    | .fin _ _ _ => true
    | _ => false
  let draws (v : FVal) (sr : BitVec 32) : Nat × BitVec 32 := if f.rnd = .rs ∧ fin v then (srBits (srNext sr), srNext sr) else (0, sr)
  let st := cvtFrom f
  let dt := f.ty
  DrawGives (.frint f) f f.ty (fun x sr =>
    let v := decTy f.ty x
    (packTy f.ty (arithTo f.ty (v.rint f.rnd (draws v sr).1)), (draws v sr).2)) s ∧
  (st.isInt = true → dt.isInt = true → DrawGives (.cvt f) f st (fun x sr => (intRes dt f.sat (intVal st x), sr)) s) ∧
  (st.isInt = true → dt.isInt = false → DrawGives (.cvt f) f st (fun x sr =>
    let v := ofIntF (intVal st x)
    (packTy dt (convTo dt f.rnd (draws v sr).1 v), (draws v sr).2)) s) ∧
  (st.isInt = false → dt.isInt = true → DrawGives (.cvt f) f st (fun x sr =>
    let v := decTy st x
    (packTy dt ((v.toIntSat f.rnd (draws v sr).1 (intLo dt) (intHi dt)) % 2 ^ dt.width).toNat, (draws v sr).2)) s) ∧
  (st.isInt = false → dt.isInt = false → widens st dt = true → DrawGives (.cvt f) f st (fun x sr =>
    (packTy dt ((ffmt dt).roundWide .rne 0 (decTy st x)), sr)) s) ∧
  (st.isInt = false → dt.isInt = false → widens st dt = false → DrawGives (.cvt f) f st (fun x sr =>
    let v := decTy st x
    (packTy dt (convTo dt f.rnd (draws v sr).1 v), (draws v sr).2)) s)

/-- R248: the special functions of each active thread, for a 16-bit type rounded from the FP32 result; the FP32 results' special cases are stated in the
second part: NaN, infinities, zeros, ranges, and the exact symmetry of sine, cosine and hyperbolic tangent, whatever the free bits are. FEXP2 is exact
for integers from -149 to 127, FLOG2 and FRCP for powers of two; FRCP and FRSQ of other finite values are the nearest value or lie within their error
bounds. The model's choices: log 16. -/
def Obligations.SpecialFunctions : Prop :=
(∀ (f : FmtV) (s : State),
  let r (code x : Nat) : Word64 :=
    let y := specialFn code (fmt32.roundWide .rne 0 (decTy f.ty x))
    packTy f.ty (if f.ty = .f32 then y else (ffmt f.ty).roundNarrow .rne 0 (fmt32.decode y))
  VectorGives (.fexp2 f) f.g f.vd f.ty [srcA f f.ty] (fun _ _ l => r 0 (l.getD 0 0)) s ∧
  VectorGives (.flog2 f) f.g f.vd f.ty [srcA f f.ty] (fun _ _ l => r 1 (l.getD 0 0)) s ∧
  VectorGives (.frcp f) f.g f.vd f.ty [srcA f f.ty] (fun _ _ l => r 2 (l.getD 0 0)) s ∧
  VectorGives (.frsq f) f.g f.vd f.ty [srcA f f.ty] (fun _ _ l => r 3 (l.getD 0 0)) s ∧
  VectorGives (.fsin f) f.g f.vd f.ty [srcA f f.ty] (fun _ _ l => r 4 (l.getD 0 0)) s ∧
  VectorGives (.fcos f) f.g f.vd f.ty [srcA f f.ty] (fun _ _ l => r 5 (l.getD 0 0)) s ∧
  VectorGives (.ftanh f) f.g f.vd f.ty [srcA f f.ty] (fun _ _ l => r 6 (l.getD 0 0)) s) ∧
(let pinf := 0x7F800000
  let ninf := 0xFF800000
  let nan := 0x7FC00000
  (∀ c a, c < 7 → a < 2 ^ 32 → (fmt32.decode a).isNan = true → specialFn c a = nan) ∧
  (∀ a, 0x43000000 ≤ a → a ≤ pinf → specialFn 0 a = pinf) ∧ (∀ a, 0xC3160000 < a → a ≤ ninf → specialFn 0 a = 0) ∧
  specialFn 1 0 = ninf ∧ specialFn 1 0x80000000 = ninf ∧ (∀ a, 0x80000000 < a → a ≤ ninf → specialFn 1 a = nan) ∧ specialFn 1 pinf = pinf ∧
  specialFn 2 0 = pinf ∧ specialFn 2 0x80000000 = ninf ∧ specialFn 2 pinf = 0 ∧ specialFn 2 ninf = 0x80000000 ∧
  specialFn 3 0 = pinf ∧ specialFn 3 0x80000000 = ninf ∧ (∀ a, 0x80000000 < a → a ≤ ninf → specialFn 3 a = nan) ∧ specialFn 3 pinf = 0 ∧
  specialFn 4 0 = 0 ∧ specialFn 4 0x80000000 = 0x80000000 ∧ specialFn 4 pinf = nan ∧ specialFn 4 ninf = nan ∧
  specialFn 5 pinf = nan ∧ specialFn 5 ninf = nan ∧ specialFn 6 pinf = 0x3F800000 ∧ specialFn 6 ninf = 0xBF800000 ∧
  (∀ a, a < pinf → specialFn 4 (a + 2 ^ 31) = (specialFn 4 a + 2 ^ 31) % 2 ^ 32 ∧ specialFn 5 (a + 2 ^ 31) = specialFn 5 a ∧
    specialFn 6 (a + 2 ^ 31) = (specialFn 6 a + 2 ^ 31) % 2 ^ 32)) ∧
(∀ n : Int, -149 ≤ n → n ≤ 127 →
  let power (n : Int) : Nat := if -126 ≤ n then (n + 127).toNat * 2 ^ 23 else 2 ^ (n + 149).toNat
  let whole := fmt32.roundWide .rne 0 (.fin (decide (n < 0)) n.natAbs 0)
  let inv := if -127 ≤ n then power (-n) else 0x7F800000
  specialFn 0 whole = power n ∧ specialFn 1 (power n) = whole ∧ specialFn 2 (power n) = inv ∧ specialFn 2 (power n + 2 ^ 31) = inv + 2 ^ 31) ∧
(∀ (a m : Nat) (s : Bool) (e : Int), fmt32.decode a = .fin s m e → m ≠ 0 →
  let near (v : FVal) (k r : Nat) : Prop := r = fmt32.roundWide .rne 0 v ∨ within (fmt32.decode r) v k (ulp32 v) = true
  near ((FVal.fin false 1 0).div (.fin s m e)) 1 (specialFn 2 a) ∧
  (s = false → near ((FVal.fin false 1 0).div (FVal.fin false m e).sqrt) 2 (specialFn 3 a)))

/-- R249, R253: comparisons, classes and moves to a predicate write that predicate's bit of each active thread. R249, R250, R253: selection by a
predicate, votes and ballots, and moves from and to vector registers. -/
def Obligations.PredicatesSelections : Prop :=
(∀ (f : FmtV) (s : State),
  let pd := f.aux.toNat % 8
  let cond := f.aux.toNat / 8
  let int (x : Nat) : Int := intVal f.ty x
  let d (x : Nat) : FVal := decTy f.ty x
  PredicateGives (.icmp f) f.g pd [srcA f f.ty, srcB f f.ty] (fun l =>
    let a := int (l.getD 0 0)
    let b := int (l.getD 1 0)
    match cond with
    | 0 => decide (a = b) | 1 => decide (a ≠ b) | 2 => decide (a < b) | 3 => decide (a ≤ b) | 4 => decide (b < a) | 5 => decide (b ≤ a)
    | 6 => false | _ => true) s ∧
  PredicateGives (.fcmp f) f.g pd [srcA f f.ty, srcB f f.ty] (fun l =>
    let a := d (l.getD 0 0)
    let b := d (l.getD 1 0)
    let un := a.isNan || b.isNan
    match cond with
    | 0 => a.eq b | 1 => !a.eq b | 2 => a.lt b | 3 => a.lt b || a.eq b | 4 => b.lt a | 5 => b.lt a || a.eq b
    | 6 => un | _ => !un) s ∧
  PredicateGives (.fclass f) f.g pd [srcA f f.ty] (fun l =>
    f.aux.getLsbD (match d (l.getD 0 0) with
      | .nan => 7
      | .inf _ => 6
      | .fin _ m e => if m = 0 then 3 else if e + bitLen m - 1 < 1 - (ffmt f.ty).bias then 4 else 5)) s ∧
  PredicateGives (.vtop f) f.g pd [srcA f f.ty] (fun l => decide (l.getD 0 0 ≠ 0)) s ∧
  (s.CanIssue (.plop f) → Completes (.plop f) s (s.writePred (f.vd.enc % 8) (s.gmask f.g) ((threads (s.gmask f.g)).map (fun th =>
    (th, f.aux.getLsbD ((if (s.cg.pred (f.sa.enc % 8)).getLsbD th then 2 else 0) + (if (s.cg.pred (f.sb.enc % 8)).getLsbD th then 1 else 0)))))))) ∧
(∀ (f : FmtV) (s : State),
  let p (t : State) (th : Nat) : Bool := (t.cg.pred (f.aux.toNat % 8)).getLsbD th
  let act := threads (s.gmask f.g)
  let mty := if f.ty.is64 then Ty.n64 else Ty.n32
  VectorGives (.sel f) f.g f.vd f.ty [srcA f f.ty, srcB f f.ty] (fun t th l => packTy f.ty (if p t th then l.getD 0 0 else l.getD 1 0)) s ∧
  VectorGives (.ptov f) f.g f.vd .n32 [] (fun t th _ => if p t th then 1 else 0) s ∧
  (∀ (t u : State) (os : List Opnd), s.CanIssue (.mov f) → s.dstCheck f.vd (regCount mty) = .ok s →
    s.prepAll (.mov f) act [srcA f f.ty] = .ok (t, os) →
    t.writeDst f.vd f.ty.is64 ((t.visit (s.gmask f.g)).map (fun th => (th, n64 ((os.getD 0 (.const 0)).read t.cg mty th)))) = .ok u →
    Completes (.mov f) s u) ∧
  (s.CanIssue (.voteany f) → s.dstCheck f.vd 1 = .ok s → WholeGives (.voteany f) f .n32 s (if ∃ th ∈ act, p s th = true then 1 else 0) s) ∧
  (s.CanIssue (.voteall f) → s.dstCheck f.vd 1 = .ok s → WholeGives (.voteall f) f .n32 s (if ∀ th ∈ act, p s th = true then 1 else 0) s) ∧
  (∀ (t : State) (os : List Opnd), s.CanIssue (.ballot f) → s.dstCheck f.vd 1 = .ok s →
    s.prepAll (.ballot f) act [srcA f .n32] = .ok (t, os) → WholeGives (.ballot f) f .n32 t
      (maskOf (act.filter (fun th => (os.getD 0 (.const 0)).read t.cg .n32 th != 0))).toNat s))

/-- R254, R255: shuffles within segments of W threads: the source thread of each kind. R256, R257: reductions in the fixed tree and scans, over the
active threads' values of each segment, to vector registers or streams. -/
def Obligations.CrossLane : Prop :=
(∀ (f : FmtV) (s : State),
  ShuffleGives (.shfl f) f (fun w _ b => b % w) s ∧
  ShuffleGives (.shflup f) f (fun w j b => if b < w ∧ b ≤ j then j - b else j) s ∧
  ShuffleGives (.shfldn f) f (fun w j b => if j + b < w then j + b else j) s ∧
  ShuffleGives (.shflx f) f (fun w j b => j ^^^ (b % w)) s ∧
  ShuffleGives (.bcast f) f (fun w _ b => b % w) s) ∧
(∀ (f : FmtV) (s : State),
  let red (op : Comb) (x : List (Option Nat)) (_ : Nat) : Nat := (treeReduce op f.ty (f.aux.toNat % 8) x).getD 0
  let scan (op : Comb) (x : List (Option Nat)) (j : Nat) : Nat := ((scanSteps op f.ty 0 (f.aux.toNat % 8) x).getD j none).getD 0
  SegmentGives (.redadd f) f (red .add) s ∧ SegmentGives (.redmin f) f (red .min) s ∧ SegmentGives (.redmax f) f (red .max) s ∧
  SegmentGives (.redand f) f (red .and) s ∧ SegmentGives (.redor f) f (red .or) s ∧
  SegmentGives (.scanadd f) f (scan .add) s ∧ SegmentGives (.scanmax f) f (scan .max) s ∧
  SegmentGives (.scanaddx f) f (fun x j => if j = 0 then 0 else scan .add x (j - 1)) s ∧
  (∀ (a : Fin 192) (d : Fin 48) (i : Instr) (op : Comb), (i = .redadd f ∧ op = .add) ∨ (i = .redmin f ∧ op = .min) ∨ (i = .redmax f ∧ op = .max) ∨
      (i = .redand f ∧ op = .and) ∨ (i = .redor f ∧ op = .or) →
    f.sa = .v a → f.vd = .s d → f.aux.toNat % 8 = 5 → s.CanIssue i → s.rangeCheck f.sa (regCount f.ty) = .ok s →
    Completes i s (if s.gmask f.g = 0 then s else s.setS d.val (packTy f.ty (red op (segment s f a 0) 0)))))

/-- R99, R252: CVTS converts one block of four FP32 elements per active thread, in ascending order, each with the conversion state and the generator that
the one before left; the code word goes to VD, the scale to VD + 1. R121, R258: MERGE of two partial triples of each active thread. The model's
choices: log 36. -/
def Obligations.BlockConversions : Prop :=
(∀ (f : FmtV) (s : State) (d a : Fin 192) (res : List (Nat × Nat × Nat)) (cv : Word64) (sr : BitVec 32),
  f.vd = .v d → f.sa = .v a → s.CanIssue (.cvts f) → s.rangeCheck f.vd 2 = .ok s → s.rangeCheck f.sa 4 = .ok s →
  drawAll (fun th (st : Word64 × BitVec 32) =>
    let b := cvtsBlock f.ty f.rnd ((List.range 4).map (fun k => (s.cg.vreg (a.val + k) th).toNat)) st.1 st.2
    ((th, b.1), b.2)) (threads (s.gmask f.g)) (s.cg.cvstate, s.cg.srstate) = (res, cv, sr) →
  Completes (.cvts f) s (s.modCg (fun g => { (res.foldl (fun (g : Group) e =>
    (g.setV d.val e.1 (BitVec.ofNat 32 e.2.1)).setV (d.val + 1) e.1 (BitVec.ofNat 32 e.2.2)) g) with cvstate := cv, srstate := sr }))) ∧
(∀ (f : FmtV) (s : State) (d a b : Fin 192),
  f.vd = .v d → f.sa = .v a → f.sb = .v b → s.CanIssue (.merge f) →
  s.rangeCheck f.vd 3 = .ok s → s.rangeCheck f.sa 3 = .ok s → s.rangeCheck f.sb 3 = .ok s →
  let x (r : Fin 192) (k th : Nat) : Nat := (s.cg.vreg (r.val + k) th).toNat
  let res := (threads (s.gmask f.g)).map (fun th => (th, mergeTriple (x a 0 th) (x a 1 th) (x a 2 th) (x b 0 th) (x b 1 th) (x b 2 th)))
  Completes (.merge f) s (s.modCg (fun g => res.foldl (fun g e =>
    ((g.setV d.val e.1 (BitVec.ofNat 32 e.2.1)).setV (d.val + 1) e.1 (BitVec.ofNat 32 e.2.2.1)).setV (d.val + 2) e.1 (BitVec.ofNat 32 e.2.2.2)) g)))

/-- R205, R207, R208, R211: generic, global and window loads, and loads of a twin's live backing, over every active thread. What makes the accesses
succeed is stated in `AccessesSucceed`. The model's choices: log 3, 5. -/
def Obligations.LoadsComplete : Prop := ∀ (f : FmtM) (s : State),
  LoadGives (.ld f) f true (f.off.signExtend 64) 0 (plainMode .generic) s ∧
  LoadGives (.ldg f) f true (f.off.signExtend 64) 0 (plainMode .global) s ∧
  LoadGives (.lds f) f false (f.off.signExtend 64) 2 (plainMode .window) s ∧
  LoadGives (.ldt f) f false 0 0 (fun s l => s.twinResolve (twinRefOf f) (accessBytes f) false l) s

/-- R205, R209, R211: where every thread's place can be read, the loads give each thread the bytes that stand there, and neither memory nor a window nor
a group changes. R77, R80, R207: a twin-form load reads the live backing and a twin-form store writes the inactive one, at the thread's offset. R64,
R205, R214: one thread's store to a place that can be written puts its bytes there, counts one operation on the path, and leaves every other byte of
memory and of the window as it was; a whole-line store clears the line's poison mark (R215). The model's choices: log 3, 5. -/
def Obligations.AccessesSucceed : Prop :=
(∀ (s : State) (m : Mode) (n : Nat) (l : List Ea),
  (∀ e ∈ l, s.Readable m n e.ea) → ∃ u, s.loadThreads m n n false l = .ok (u, l.map (fun e => (e.t,
    match placeOf m e.ea with
    | some (.win o) => s.cw.winN o n
    | some (.glob a) => match s.fate s.cw.who a.toNat false with
      | .ok x => s.rdN x.pa n
      | _ => []
    | _ => []))) ∧ u.mem = s.mem ∧ u.wgs = s.wgs ∧ u.groups = s.groups) ∧
(∀ (s : State) (r : TwinRef) (n : Nat) (isW : Bool) (l : List Ea) (t : Twin),
  s.twinBusy s.cw.who r false = none → s.getTwin s.cw.who s.cg.wid r = .ok t → t.size ≠ 0 →
  (∀ e ∈ l, e.ea.toNat % n = 0 ∧ e.ea.toNat < t.size.toNat) →
  (isW = true → t.flipping = false) → ∃ (u : State) (at_ : Word64 → Word64), s.twinResolve r n isW l = .ok (u, if r.g then .global else .window, at_) ∧
    u.mem = s.mem ∧ u.wgs = s.wgs ∧ u.groups = s.groups ∧
    ∀ o, at_ o = n64 ((if t.live = isW then t.base0.toNat else t.base1.toNat) + o.toNat)) ∧
(∀ (s : State) (m : Mode) (scope path : Nat) (clear pinned mayLog : Bool) (x : St),
  x.t < 32 → x.data ≠ [] → s.hasIssuer = true → SMap.wf 0 s.mem = true → (∃ w, s.wg? s.cg.wid = some w) → s.Writable m x.data.length x.ea →
  s.cg.inflight path < 63 → s.cg.sideLog = [] →
  ∃ u, s.storeThreads m x.data.length scope path clear pinned mayLog [x] = .ok u ∧
    u.cg.inflight path = s.cg.inflight path + 1 ∧
    (∀ pa, (s.storeAt m x.ea).1 = some pa → u.rdN pa x.data.length = x.data) ∧
    (∀ o, (s.storeAt m x.ea).2 = some o → u.cw.winN o x.data.length = x.data) ∧
    (clear = true → ∀ pa, (s.storeAt m x.ea).1 = some pa → u.poisonedLine (pa / 128) = false) ∧
    (∀ a, (∀ pa, (s.storeAt m x.ea).1 = some pa → a < pa ∨ pa + x.data.length ≤ a) → u.rd8 a = s.rd8 a) ∧
    (∀ a, (∀ o, (s.storeAt m x.ea).2 = some o → a < o ∨ o + x.data.length ≤ a) → u.cw.winByte a = s.cw.winByte a))

/-- R82, R205, R207, R208, R214, R215: generic, global and window stores, twin-form stores, and whole-line stores that clear poison. What makes the
accesses succeed is stated in `AccessesSucceed`. The model's choices: log 3. -/
def Obligations.StoresComplete : Prop := ∀ (f : FmtM) (s : State),
  StoreGives (.st f) f true (f.off.signExtend 64) 1 false (plainMode .generic) s ∧
  StoreGives (.stg f) f true (f.off.signExtend 64) 1 false (plainMode .global) s ∧
  StoreGives (.sts f) f false (f.off.signExtend 64) 2 false (plainMode .window) s ∧
  StoreGives (.stt f) f false 0 1 false (fun s l => s.twinResolve (twinRefOf f) (accessBytes f) true l) s ∧
  StoreGives (.stl f) f true (f.off.signExtend 64) 1 true (plainMode .global) s

/-- R212: LDU loads one element for the group at the uniform address and writes it, extended, to a scalar register; a Mule may also push it, and counts
nothing. R213: PREF completes whatever its addresses name, with one operation counted where a thread's address can be fetched; memory, windows and
registers stay. R47, R48, R216: STBIND binds the stream of a legal descriptor read at the uniform address, STSAVE stores the descriptor of the live
state, and a descriptor that is read back binds the same stream without what it had fetched ahead. The model's choices: log 3. -/
def Obligations.UniformLoadsStreams : Prop :=
((∀ (f : FmtM) (s t u : State) (a : Word64) (vs : List (Nat × List Byte)),
  s.CanIssue (.ldu f) → s.uniformEa (.ldu f) f = .ok (t, a) → (t.cur.mule = true ∨ t.cg.inflight 0 < 63) →
  t.loadThreads .global f.ty.bytes f.ty.bytes false [⟨0, a⟩] = .ok (u, vs) →
  let x := extendElem f.ty ((vs.map Prod.snd).headD [])
  let done (v : State) : State := if v.cur.mule then v else v.modCg (fun g => g.fly { path := 0, kind := .load, ext := t.loadExt .global [⟨0, a⟩] })
  (∀ r, f.vd = .s r → Completes (.ldu f) s (done (u.setS r.val x))) ∧
  (∀ q v, f.vd = .q q → s.cur.mule = true → u.writeSD (.q q) x = .ok v → Completes (.ldu f) s (done v))) ∧
(∀ (f : FmtM) (s t : State) (os : List Opnd),
  s.CanIssue (.pref f) → s.prepAll (.pref f) (threads (s.gmask f.g)) [baseSrc f true] = .ok (t, os) → t.cg.inflight 0 < 63 →
  let eas := (formedEas s t f true (f.off.signExtend 64) (os.getD 0 (.const 0))).filter (fun e => e.ea.toNat < 2 ^ 57)
  (∀ e ∈ eas, ∀ c, t.fate t.cw.who e.ea.toNat false ≠ .dropped c) →
  let got := eas.filterMap (fun e => match t.fate t.cw.who e.ea.toNat false with
    | .ok x => if x.sh = false then some (e, Fate.ok x) else none
    | _ => none)
  (∀ e ∈ eas, ∀ x, t.fate t.cw.who e.ea.toNat false = .ok x → x.sh = false → t.snoopBusy x.pa 1 false = false) →
  (got = [] → Completes (.pref f) s t) ∧
  (got ≠ [] → ∃ u : State, Completes (.pref f) s u ∧ u.mem = t.mem ∧ u.wgs = t.wgs ∧
    u.groups = (t.modCg (fun g => g.fly { path := 0, kind := .load, ext := t.extOf got })).groups))) ∧
(∀ (f : FmtM) (s t u : State) (k : Fin 8) (a : Word64) (vs : List (Nat × List Byte)),
  f.vd = .w k →
  (s.CanIssue (.stbind f) → s.uniformEa (.stbind f) f = .ok (t, a) → t.loadThreads .generic 64 64 false [⟨0, a⟩] = .ok (u, vs) →
    badStream (leNat ((vs.map Prod.snd).headD [])) = false →
    Completes (.stbind f) s (u.modCg (fun g => { g with streams := g.streams.set k.val (decodeStream (leNat ((vs.map Prod.snd).headD []))) }))) ∧
  (s.CanIssue (.stsave f) → (s.stream k.val).bound = true → s.uniformEa (.stsave f) f = .ok (t, a) → (isRel f.ord = true → t.cg.sideLog = []) →
    t.storeThreads .generic 64 f.scope.enc 1 false false true [⟨0, a, leBytes 64 (encodeStream (t.stream k.val))⟩] = .ok u →
    Completes (.stsave f) s u) ∧
  (∀ w : Stream, w.dims.length = 4 → decodeStream (encodeStream w) = { w with bound := true, ahead := [] }))

/-- R43, R44, R217: MAPSET gives the status of its descriptor in the scalar register, if it names one, and binds a map of EMPTY blocks where that is 0.
MAPFLUSH of a map with no DIRTY block completes with no effect; of one DIRTY block whose lines can be written, it puts the block's 2 KiB in memory,
counts 16 operations on path 1 and leaves the block CLEAN. MAPCLR does the same and frees the map. With more DIRTY blocks they leave what the
write-backs leave. The model's choices: log 29, 30. -/
def Obligations.ScratchpadMaps : Prop :=
(∀ (f : FmtM) (s : State) (r : Fin 48) (b : Fin 48),
  let k := f.off.toNat % 4
  let d := (s.sreg b.val).toNat + (s.sreg (b.val + 1)).toNat * 2 ^ 64
  let wblk := d % 2 ^ 9
  let nblk := d / 2 ^ 36 % 2 ^ 8
  let m : WMap := { gbase := BitVec.ofNat 57 (d / 2 ^ 64), nblk := nblk, wr := decide (d / 2 ^ 16 % 2 = 1), wblk := wblk, blocks := List.replicate nblk .empty }
  let status : Nat :=
    if s.cw.winSize < 2048 * (wblk + nblk) then 1
    else if ∃ e ∈ s.cw.maps, e.1 ≠ k ∧ ∃ x, e.2 = some x ∧ wblk < x.wblk + x.nblk ∧ x.wblk < wblk + nblk then 2
    else if nblk = 0 ∨ d / 2 ^ 9 % 2 ^ 7 ≠ 0 ∨ d / 2 ^ 17 % 2 ^ 19 ≠ 0 ∨ d / 2 ^ 44 % 2 ^ 20 ≠ 0 ∨ d / 2 ^ 64 % 2 ^ 11 ≠ 0 ∨ d / 2 ^ 121 % 2 ^ 7 ≠ 0 then 3
    else if SMap.get none s.cw.maps k ≠ none then 4 else 0
  let u := if status = 0 then s.modCw (fun w => { w with maps := SMap.set none w.maps k (some m) }) else s
  f.addr = .s b → s.CanIssue (.mapset f) →
  (f.vd = .s r → Completes (.mapset f) s (u.setS r.val (n64 status))) ∧ (f.vd = .zero → Completes (.mapset f) s u)) ∧
(∀ (f : FmtM) (s : State),
  let k := f.off.toNat % 4
  let freed (u : State) : State := u.modCw (fun w => { w with maps := SMap.set none w.maps k none })
  ((∀ m, SMap.get none s.cw.maps k = some m → ∀ j, m.blocks.getD j .clean ≠ .dirty) →
    (s.CanIssue (.mapflush f) → Completes (.mapflush f) s s) ∧ (s.CanIssue (.mapclr f) → Completes (.mapclr f) s (freed s))) ∧
  (∀ (m : WMap) (b p : Nat), SMap.get none s.cw.maps k = some m → SMap.wf none s.cw.maps = true → b < 256 → m.blocks.getD b .clean = .dirty →
    (∀ j, j ≠ b → m.blocks.getD j .clean ≠ .dirty) → s.cg.tlevel = 0 → s.cg.sideLog = [] → s.cg.inflight 1 ≤ 47 → SMap.wf 0 s.mem = true → s.hasIssuer = true →
    (∃ w, s.wg? s.cg.wid = some w) →
    (∀ l, l < 16 → let va := m.gbase.toNat + 2048 * b + 128 * l
      va < 2 ^ 57 ∧ s.pinFails s.cw.who va true = false ∧
        ∃ x, s.fate s.cw.who va true = .ok x ∧ x.pa = p + 128 * l ∧ x.dirty = none ∧ s.snoopBusy x.pa 128 true = false) →
    ∃ u : State, u.rdN p 2048 = s.cw.winN (2048 * (m.wblk + b)) 2048 ∧ (∀ a, a < p ∨ p + 2048 ≤ a → u.rd8 a = s.rd8 a) ∧
      u.cg.inflight 1 = s.cg.inflight 1 + 16 ∧ SMap.get none u.cw.maps k = some { m with blocks := m.blocks.set b .clean } ∧
      (∀ a, u.cw.winByte a = s.cw.winByte a) ∧
      (s.CanIssue (.mapflush f) → Completes (.mapflush f) s u) ∧ (s.CanIssue (.mapclr f) → Completes (.mapclr f) s (freed u))) ∧
  (∀ u, s.flushMap k = .ok u → (s.CanIssue (.mapflush f) → Completes (.mapflush f) s u) ∧ (s.CanIssue (.mapclr f) → Completes (.mapclr f) s (freed u))))

/-- R218, R219: atomics give each active thread the old value, reductions give none; each thread's operation is indivisible, and the threads take theirs
one after the other. R88, R219: the value an integer operation writes over the old one, and the window bytes after it; compare-and-swap writes only
where the old value equals the comparand. The model's choices: log 3, 34. -/
def Obligations.Atomics : Prop :=
(∀ (f : FmtAT) (s : State),
  AtomGives (.aadd f) f .add false s ∧ AtomGives (.amin f) f .min false s ∧ AtomGives (.amax f) f .max false s ∧
  AtomGives (.aand f) f .and false s ∧ AtomGives (.aor f) f .or false s ∧ AtomGives (.axor f) f .xor false s ∧
  AtomGives (.axchg f) f .xchg false s ∧ AtomGives (.acas f) f .cas false s ∧
  AtomGives (.radd f) f .add true s ∧ AtomGives (.rmin f) f .min true s ∧ AtomGives (.rmax f) f .max true s ∧
  AtomGives (.rand f) f .and true s ∧ AtomGives (.ror f) f .or true s ∧ AtomGives (.rxor f) f .xor true s) ∧
(∀ (s : State) (op : AtomOp) (ty : Ty) (x : AtomArg) (o : Nat) (q : Option Fate),
  ty.isInt = true → x.d < 2 ^ ty.width → resolveGeneric x.ea = some (.win o) → (∃ w, s.wg? s.cg.wid = some w) →
  let old := leNat (s.cw.winN o ty.bytes)
  let v (y : Nat) : Int := intVal ty y
  let new : Nat := match op with
    | .add => (old + x.d) % 2 ^ ty.width
    | .min => if v old ≤ v x.d then old else x.d
    | .max => if v old ≤ v x.d then x.d else old
    | .and => old &&& x.d
    | .or => old ||| x.d
    | .xor => old ^^^ x.d
    | .xchg => x.d
    | .cas => if old = x.c then x.d else old
  (s.atomOne op ty x q).2 = some old ∧ (s.atomOne op ty x q).1.cw.winN o ty.bytes = leBytes ty.bytes new ∧
  (∀ a, a < o ∨ o + ty.bytes ≤ a → (s.atomOne op ty x q).1.cw.winByte a = s.cw.winByte a) ∧ (s.atomOne op ty x q).1.mem = s.mem)

/-- R76, R84, R220, R221, R222: FENCE completes once its release part finds no side-log entry; its release part makes the group's earlier stores visible
to the reads of its later asynchronous commands, to the window from scope `.clu` on and to memory from `.dev` on; BOINIT, BOARV and BOWAIT
act on the barrier object at their address: a new object, one arrival, and a wait that ends where the phase equals the parity and traps where ERR is
set. R53, R54, R221: one update of a barrier object in the window replaces its 16 bytes; BOINIT's object holds the byte and arrival counts twice, with
PHASE 0; an arrival that leaves something to come lowers the arrival count by one, the last one reloads both counts and turns PHASE over. The model's
choices: log 3, 29. -/
def Obligations.FencesBarrierObjects : Prop :=
(∀ (g : FmtAT) (f : FmtC) (s t u : State) (os : List Opnd) (vs : List (Nat × List Byte)),
  (s.CanIssue (.fence g) → isRel g.ord = false → Completes (.fence g) s s) ∧
  (s.CanIssue (.fence g) → isRel g.ord = true → s.cg.sideLog = [] → Completes (.fence g) s (s.modCg (fun x => { x with
    flights := x.flights.map (fun (y : Flight) => { y with old := y.old.filter (fun e => decide (g.scope.enc < if e.1 < 2 ^ 57 then 5 else 3)) }) }))) ∧
  (s.CanIssue (.boinit g) → s.prepAll (.boinit g) [0] [⟨1, g.addr, .n64⟩, ⟨2, g.data, .n64⟩] = .ok (t, os) → (isRel g.ord = true → t.cg.sideLog = []) →
    t.objUpdate (valueAt os 0) (fun o => objInit o (valueAt os 1).toNat) = .ok u → Completes (.boinit g) s u) ∧
  (s.CanIssue (.boarv f) → (f.imm.getLsbD 0 = true → s.cg.sideLog = []) → s.objUpdate (s.sregOr 0 f.sa) (fun o => objStep o 0 1 false) = .ok u →
    Completes (.boarv f) s u) ∧
  (s.CanIssue (.bowait f) → s.loadThreads .generic 16 16 false [⟨0, s.sregOr 0 f.sa⟩] = .ok (u, vs) →
    let o := leNat ((vs.map Prod.snd).headD [])
    (objErr o = false → objPhase o = (if f.imm.getLsbD 0 then 1 else 0) → Completes (.bowait f) s u) ∧
    (objErr o = false → objPhase o ≠ (if f.imm.getLsbD 0 then 1 else 0) → exec (.bowait f) s = .next (u.holdIssuer (.object (s.sregOr 0 f.sa)))) ∧
    (objErr o = true → u.cur.mule = false →
      exec (.bowait f) s = .next (u.takeTrap u.cur.gid u.cur.fid cBarobj (s.sregOr 0 f.sa) none false false none)))) ∧
(∀ (s : State) (a : Word64) (o : Nat) (h : Nat → Nat),
  (resolveGeneric a = some (.win o) → a.toNat % 16 = 0 → o < s.cw.winSize → s.cw.mapAt o = none → s.hasIssuer = true →
    (∃ w, s.wg? s.cg.wid = some w) → s.cg.inflight 2 < 63 →
    ∃ u, s.objUpdate a h = .ok u ∧ u.cw.winN o 16 = leBytes 16 (h (leNat (s.cw.winN o 16))) ∧ u.mem = s.mem ∧
      ∀ b, b < o ∨ o + 16 ≤ b → u.cw.winByte b = s.cw.winByte b) ∧
  (∀ eb ea, eb < 2 ^ 32 → ea < 2 ^ 16 → eb + ea ≠ 0 → objInit 0 (eb + ea * 2 ^ 32) = eb * 2 ^ 96 + eb * 2 ^ 64 + ea * 2 ^ 48 + ea * 2 ^ 32) ∧
  (∀ x, x < 2 ^ 128 → 0 < x / 2 ^ 32 % 2 ^ 16 →
    let left := x / 2 ^ 64 % 2 ^ 32 + (x / 2 ^ 32 % 2 ^ 16 - 1)
    let y := objStep x 0 1 false
    (left ≠ 0 → y + 2 ^ 32 = x) ∧
    (left = 0 → y / 2 ^ 64 % 2 ^ 32 = x / 2 ^ 96 % 2 ^ 32 ∧ y / 2 ^ 32 % 2 ^ 16 = x / 2 ^ 48 % 2 ^ 16 ∧ y % 2 ^ 8 = (x % 2 ^ 8 + 1) % 2 ^ 8)))

/-- R81, R223 to R225: QPUSH puts the scalar at TAIL and raises it, QPOP takes the entry at HEAD and raises it, where the queue has room or an entry;
QCREATE gives its status, and writes the header only where that is 0: an empty live queue of the scope and the creator's launch and unit, with the
capacity that stood there. The model's choices: log 34. -/
def Obligations.HardwareQueues : Prop := ∀ (f : FmtC) (s t : State) (x y : Xlat) (h : QHeader) (vs : List (Nat × List Byte)),
  let a := s.sregOr 0 f.sa
  let used := (h.tail + 2 ^ 64 - h.head) % 2 ^ 64
  let slot (k : Nat) : Nat := (a.toNat + 64 + 8 * (k % 2 ^ h.logcap)) % 2 ^ 57
  (s.CanIssue (.qpush f) → s.cg.sideLog = [] → s.QueueReady a true x h → used ≠ 2 ^ h.logcap →
    (s.logDirty s.cw.who x).queueReach (slot h.tail) 8 = .ok y →
    let p := (s.logDirty s.cw.who x).performWrite s.cw.who y (leBytes 8 (s.sregOr 0 f.sb).toNat)
    let q := if p.collectiveQueue p.cw.ctx = a.toNat ∧ a ≠ 0 then { p with pushers := p.pushers ++ [(p.cw.ctx, h.tail, p.cur.gid)] } else p
    Completes (.qpush f) s (q.performWrite q.cw.who { x with pa := x.pa + 8 } (leBytes 8 ((h.tail + 1) % 2 ^ 64)))) ∧
  (s.CanIssue (.qpop f) → s.QueueReady a false x h → used ≠ 0 → s.loadThreads .global 8 8 false [⟨0, n64 (slot h.head)⟩] = .ok (t, vs) →
    let p := t.setSOpt f.sb (n64 (leNat ((vs.map Prod.snd).headD [])))
    Completes (.qpop f) s (p.performWrite p.cw.who x (leBytes 8 ((h.head + 1) % 2 ^ 64)))) ∧
  (s.CanIssue (.qcreate f) → isGlobal a = true → a.toNat % 64 = 0 → s.queueReach a.toNat 64 = .ok x →
    let q := decodeQueue (s.rd x.pa 64)
    let st := if f.imm.toNat % 8 = 3 ∨ f.imm.toNat % 8 = 4 then 1 else if q.logcap = 0 ∨ 16 < q.logcap then 2 else if q.valid = true then 3 else 0
    (st ≠ 0 → Completes (.qcreate f) s (s.setSOpt f.sb (n64 st))) ∧
    (st = 0 → s.cg.sideLog = [] →
      Completes (.qcreate f) s ((s.performWrite s.cw.who x (leBytes 64 (s.createHeader (f.imm.toNat % 8) (s.rd x.pa 64)))).setSOpt f.sb 0))) ∧
  (∀ scope old, scope < 8 → old < 2 ^ 512 →
    let new := s.createHeader scope old
    let q := decodeQueue new
    let unit := if scope = 0 then (s.cw.lnum, s.cw.wgx * 32 + s.cg.gidx) else if scope = 1 then (s.cw.lnum, s.cw.wgx) else if scope = 2 then (s.cw.lnum, s.cw.gang) else (0, 0)
    q.valid = true ∧ q.head = 0 ∧ q.tail = 0 ∧ q.scope = scope ∧ q.logcap = old / 2 ^ 128 % 2 ^ 5 ∧ q.launch = unit.1 % 2 ^ 16 ∧ q.unit = unit.2 % 2 ^ 48 ∧
    new / 2 ^ 133 % 2 ^ 3 = 0 ∧ new / 2 ^ 140 % 2 ^ 4 = 0 ∧ new / 2 ^ 208 = old / 2 ^ 208)

/-- R101, R104, R106, R107, R109, R260: a dense matrix operation adds to each accumulator word of an active row the product of the row of A and the
column of B, in chunks of 8 × 2^WCLS in ascending order with one rounding each, or exactly for integers. R112, R260: a sparse matrix operation takes
2^WCLS entries of the sparsity queue and adds, for each active row, the products of the kept elements of A at their expanded positions. R102, R104,
R261: DMMA adds four fused FP64 products to each element of an active row, pairs of words of tiles ACC and ACC + 1; where a step meets a subnormal the
words wait for the assist. The model's choices: log 3, 37. -/
def Obligations.MatrixOperations : Prop :=
(∀ (f : FmtX) (s : State),
  s.CanIssue (.mma f) → s.MatReady f false →
  let c := s.matCase f false
  let ts := threads (s.gmask f.g)
  let prods (t : Nat) : List (Nat × FVal) := (c.row s t).zipIdx.map (fun (x, k) => (k, x))
  let elem (t j : Nat) : Nat :=
    let d := (s.cg.accWord f.acc.val t j).toNat
    if c.fb.af = 4 then intElem (c.col s j) (prods t) d else fpElem (c.col s j) (chunksOf (8 * 2 ^ f.wcls.val) (c.k / (8 * 2 ^ f.wcls.val)) (prods t)) d
  let words := (ts.map (fun t => (List.range 64).map (fun j => (accKey f.acc.val t j, BitVec.ofNat 32 (elem t j))))).flatten
  Completes (.mma f) s (if ts = [] then s else s.modCg (fun g => { g.putAcc words with matrix := g.matrix ++ [{}] }))) ∧
(∀ (f : FmtX) (s : State),
  s.CanIssue (.mmas f) → s.MatReady f true →
  let c := s.matCase f true
  let ts := threads (s.gmask f.g)
  let n := 2 ^ f.wcls.val
  let prods (t : Nat) : List (Nat × FVal) := expandRow (c.row s t) (s.cg.spq.take n) t
  let elem (t j : Nat) : Nat :=
    let d := (s.cg.accWord f.acc.val t j).toNat
    if c.fb.af = 4 then intElem (c.col s j) (prods t) d else fpElem (c.col s j) (chunksOf (8 * n) (c.ne / (8 * n)) (prods t)) d
  let words := (ts.map (fun t => (List.range 64).map (fun j => (accKey f.acc.val t j, BitVec.ofNat 32 (elem t j))))).flatten
  let t := s.modCg (fun g => { g with spq := g.spq.drop n })
  Completes (.mmas f) s (if ts = [] then t else t.modCg (fun g => { g.putAcc words with matrix := g.matrix ++ [{}] }))) ∧
(∀ (f : FmtX) (s : State),
  let a := s.matSrc f.sA f.aop 32
  let b := s.matSrc f.sB f.bop 32
  let ts := threads (s.gmask f.g)
  s.CanIssue (.dmma f) → s.MatSrcOk a 1 ts → s.MatSrcOk b 1 (List.range 64) → f.acc.val + 1 < s.cg.tiles → s.cw.winPoison = [] → ts ≠ [] →
  let elem (t j : Nat) : Nat × Bool :=
    let d := (s.cg.accWord (f.acc.val + j / 32) t (2 * (j % 32) + 1) ++ s.cg.accWord (f.acc.val + j / 32) t (2 * (j % 32))).toNat
    dmmaSteps ((doubles (a.bytes s.cg s.cw t)).zip (doubles (b.bytes s.cg s.cw j))) d (sub64 d)
  let words := (ts.map (fun t => ((List.range 64).map (fun j =>
    [(accKey (f.acc.val + j / 32) t (2 * (j % 32)), (n64 (elem t j).1).setWidth 32),
     (accKey (f.acc.val + j / 32) t (2 * (j % 32) + 1), (n64 (elem t j).1 >>> 32).setWidth 32)])).flatten)).flatten
  Completes (.dmma f) s (if ts.any (fun t => (List.range 64).any (fun j => (elem t j).2))
    then s.modCg (fun g => { g with matrix := g.matrix ++ [{ assist := some words }] })
    else s.modCg (fun g => { g.putAcc words with matrix := g.matrix ++ [{}] })))

/-- R46, R241, R242, R261: clearing and copying rows of accumulator tiles: ACCCLR to zero, ACCMV to another tile, ACCRD to 256-byte rows of the window
and ACCWR from them, for the active rows alone. The model's choices: log 37. -/
def Obligations.AccumulatorCopies : Prop := ∀ (f : FmtX) (s v : State),
  let ts := threads (s.gmask f.g)
  let d := (s.cg.sreg f.bop.val).toNat
  let row (t : Nat) : Nat := d % 2 ^ 20 + t * (d / 2 ^ 20 % 2 ^ 20)
  let words (x : Nat → Nat → Word32) (tile : Nat) : List (Nat × Word32) :=
    (ts.map (fun t => (List.range 64).map (fun c => (accKey tile t c, x t c)))).flatten
  f.acc.val < s.cg.tiles →
  (s.CanIssue (.accclr f) → Completes (.accclr f) s (s.modCg (fun g => g.putAcc (words (fun _ _ => 0) f.acc.val)))) ∧
  (s.CanIssue (.accmv f) → f.aop.val < s.cg.tiles → s.cg.inflight 3 < 63 →
    Completes (.accmv f) s (s.modCg (fun g => (g.putAcc (words (s.cg.accWord f.acc.val) f.aop.val)).fly { path := 3, kind := .copy }))) ∧
  (d / 2 ^ 40 % 2 ^ 24 = 0 → d % 8 = 0 → d / 2 ^ 20 % 2 ^ 20 % 8 = 0 → (∀ t ∈ ts, row t + 256 ≤ s.cw.winSize) → s.cg.inflight 3 < 63 →
    (s.CanIssue (.accrd f) → (∀ t ∈ ts, ∀ i, i < 256 → s.cw.readOnly (row t + i) = false) → s.touchRows (ts.map row) = .ok v →
      Completes (.accrd f) s ((ts.foldl (fun (u : State) t => u.modCw (fun w => w.storeWin (row t) (accRow u.cg f.acc.val t))) v).modCg
        (fun g => g.fly { path := 3, kind := .copy, old := (ts.map (fun t => v.oldBytes .window ⟨t, n64 (row t), accRow v.cg f.acc.val t⟩ none)).flatten }))) ∧
    (s.CanIssue (.accwr f) → s.touchRows (ts.map row) = .ok v → (∀ t ∈ ts, v.cw.winPoisoned (row t) 256 = false) →
      Completes (.accwr f) s ((v.modCg (fun g => g.putAcc (words (fun t c => BitVec.ofNat 32 (leNat (v.cw.winN (row t + 4 * c) 4))) f.acc.val))).modCg
        (fun g => g.fly { path := 3, kind := .copy }))))

/-- R226 to R228, R231 to R234, R237: a well-formed descriptor starts one asynchronous command with the fields it gives: a tile copy, a copy with a
chain, a relocation of a forwarding table (whose engine is the device's choice), a fill of the sparsity queue, a copy into a twin slot. R77 to R79,
R235, R236, R238: TWSET writes the descriptor of a free slot and gives its status, TWCLR frees a slot on which nothing is pending, TWFLIP turns over
LIVE and raises GEN once PEND is 0. The model's choices: log 20, 40. -/
def Obligations.CommandsStart : Prop :=
(∀ (f : FmtA) (s : State),
  let d (i : Nat) : Nat := s.descReg f i
  let t := tileOf (d 2) (d 3)
  let rows (isW : Bool) (a : Word64) (pitch : Int) (r n : Nat) : List Nat := s.cw.badRows isW (resolveGeneric a) pitch r n
  let tile (k : CmdKind) (x y : Where) : Cmd := { blankCmd k with src := x, dst := y, spitch := t.spitch, dpitch := t.dpitch, rows := t.rows, rbytes := t.rbytes, todo := [(0, t.rows * t.rbytes)] }
  let l := (List.range 6).map (fun i => n64 (d (4 + i)))
  let h := chainHead (d 4)
  let n := chainRow h t.rbytes
  (∀ x y, s.CanIssue (.cpy f) → tileOk (d 3) = true → resolveGeneric (n64 (d 0)) = some x → resolveGeneric (n64 (d 1)) = some y →
    s.CommandReady f [] (rows false (n64 (d 0)) t.spitch.toInt t.rows t.rbytes ++ rows true (n64 (d 1)) t.dpitch.toInt t.rows t.rbytes) →
    Starts (.cpy f) f (tile .copy x y) s) ∧
  (∀ x y, s.CanIssue (.cpych f) → tileOk (d 3) = true → chainOk l t.rbytes = true → resolveGeneric (n64 (d 0)) = some x →
    resolveGeneric (n64 (d 1)) = some y →
    s.CommandReady f [l.getD 4 0, l.getD 5 0] (rows false (n64 (d 0)) t.spitch.toInt t.rows t.rbytes ++
      rows true (n64 (d 1)) t.dpitch.toInt t.rows (n * chainOut h) ++
      (if h.scaled then rows true (l.getD 4 0) h.scpitch t.rows n ++ rows true (l.getD 5 0) 0 1 8 else [])) →
    Starts (.cpych f) f { blankCmd .chain with src := x, dst := y, spitch := t.spitch, dpitch := t.dpitch, rows := t.rows, rbytes := t.rbytes, chain := l, todo := [(0, t.rows * n + b2n h.scaled)] } s) ∧
  (s.CanIssue (.cpyrel f) → d 0 % 256 = 0 → d 0 < 2 ^ 57 → s.CommandReady f [] [] →
    ∃ engine, 12 * s.cw.place.die ≤ engine ∧ engine < 12 * s.cw.place.die + 12 ∧
      Starts (.cpyrel f) f { blankCmd .reloc with src := .glob (n64 (d 0)), dst := .glob (n64 (d 0)), table := d 0, rbytes := engine } s) ∧
  (∀ x, s.CanIssue (.spqfill f) → d 0 % 8 = 0 → 1 ≤ d 1 → d 1 ≤ 16 → s.cg.sparse = true → resolveGeneric (n64 (d 0)) = some x →
    s.CommandReady f [] (rows false (n64 (d 0)) 256 (d 1) 256) → Starts (.spqfill f) f { blankCmd .fill with src := x, dst := .win 0, todo := [(0, d 1)] } s) ∧
  (∀ x, s.CanIssue (.twcpy f) → designatorOk (d 1) false true = true → tileOk (d 3) = true → resolveGeneric (n64 (d 0)) = some x →
    s.CommandReady f [] (rows false (n64 (d 0)) t.spitch.toInt t.rows t.rbytes) →
    Starts (.twcpy f) f (tile .twin x (.twin (designator (d 1)).g (designator (d 1)).slot (d 1 % 2 ^ 32))) s)) ∧
(∀ (f : FmtA) (s : State) (t : Twin),
  let d (i : Nat) : Nat := s.descReg f i
  let r := designator (d 0)
  let u := s.twinSeen r
  let v := u.twinSeen r
  (s.cmds.filter (fun c => c.gid == s.cur.gid)).length < 32 → s.TwinIs r t →
  (s.CanIssue (.twset f) → designatorOk (d 0) false false = true → d 1 < 2 ^ 57 → d 2 < 2 ^ 57 → d 3 < 2 ^ 32 →
    let st := if t.size ≠ 0 then 3
      else if d 1 % 128 ≠ 0 ∨ d 2 % 128 ≠ 0 ∨ d 3 % 128 ≠ 0 ∨ d 3 = 0 ∨ (r.g = false ∧ (s.cw.winSize < d 1 + d 3 ∨ s.cw.winSize < d 2 + d 3)) then 4 else 0
    (st = 0 → u.TwinWritable r) →
    Completes (.twset f) s ((if st = 0 then u.twinPut r { base0 := BitVec.ofNat 57 (d 1), base1 := BitVec.ofNat 57 (d 2), size := BitVec.ofNat 32 (d 3) } else u).setSOpt f.sc (n64 st))) ∧
  (s.CanIssue (.twclr f) → (∀ g k, s.cf.wait ≠ .clear g k) → designatorOk (d 0) false false = true → t.size ≠ 0 → u.TwinIs r t →
    (t.flipping = false → t.pend = 0 → v.TwinWritable r → Completes (.twclr f) s (v.twinPut r {})) ∧
    (t.flipping = true ∨ t.pend ≠ 0 → MovesTo (.twclr f) s (v.holdIssuer (.clear r.g r.slot)))) ∧
  (s.CanIssue (.twflip f) → (∀ g k, s.cf.wait ≠ .flip g k) → designatorOk (d 0) true false = true → t.size ≠ 0 → s.cg.sideLog = [] → u.TwinIs r t → t.pend = 0 →
    v.TwinWritable r → Completes (.twflip f) s (v.twinPut r { t with live := !t.live, gen := t.gen + 1, flipping := false }))) ∧
(∀ (f : FmtA) (s : State) (t : Twin) (g : Bool) (k : Nat),
  let u := s.twinSeen ⟨g, k⟩
  s.TwinIs ⟨g, k⟩ t → u.TwinWritable ⟨g, k⟩ → t.pend = 0 →
  (s.CanIssue (.twflip f) → s.cf.wait = .flip g k →
    Completes (.twflip f) s (u.twinPut ⟨g, k⟩ { t with live := !t.live, gen := t.gen + 1, flipping := false })) ∧
  (s.CanIssue (.twclr f) → s.cf.wait = .clear g k → t.flipping = false → Completes (.twclr f) s (u.twinPut ⟨g, k⟩ {}))) ∧
(∀ (s : State) (r : TwinRef) (t : Twin),
  (r.g = false → s.twinSeen r = s ∧ s.TwinWritable r ∧ ((∃ w, s.wg? s.cg.wid = some w) → SMap.wf {} s.cw.twins = true →
    SMap.get {} (s.twinPut r t).cw.twins r.slot = t ∧ (s.twinPut r t).mem = s.mem ∧ (s.twinPut r t).groups = s.groups)) ∧
  (∀ x, r.g = true → s.tableFate s.cw.who (s.twinVa s.cw.who.ctx r.slot) = .ok x → x.dirty = none → SMap.wf 0 s.mem = true →
    (s.twinPut r t).rd x.pa 32 = encodeTwin t) ∧
  decodeTwin (encodeTwin t) = t)

/-- R56, R57, R239, R240: SUBSCR takes the lowest free subscription of the workgroup on a CB7-H, and gives status 1 on a CB7-L and 2 where all four are
taken; SLOTREL arrives once on the object of the slot it returns, and ends an inbound subscription with its last tile. The model's choices: log 45. -/
def Obligations.Subscriptions : Prop := ∀ (f : FmtA) (s u : State),
  let d (i : Nat) : Nat := s.descReg f i
  let n : Nat := d 3 / 2 ^ 40 % 2 ^ 5
  let trows : Nat := d 1 / 2 ^ 16 % 2 ^ 16
  let tbytes : Nat := d 1 % 2 ^ 16
  let sp : Nat := d 3 / 2 ^ 20 % 2 ^ 20
  let outb := decide (d 3 / 2 ^ 45 % 2 = 1)
  (s.cmds.filter (fun c => c.gid == s.cur.gid)).length < 32 →
  (s.CanIssue (.subscr f) → d 0 < 2 ^ 57 → trows ≠ 0 → tbytes ≠ 0 → d 2 / 2 ^ 32 % 2 ^ 32 ≠ 0 → d 3 / 2 ^ 46 % 2 ^ 18 = 0 → 2 ≤ n → n ≤ 16 → trows * tbytes ≤ sp →
    d 4 / 2 ^ 20 % 2 ^ 44 = 0 → d 4 % 2 ^ 20 % 16 = 0 →
    s.cw.badRows (!outb) (some (.win (d 3 % 2 ^ 20))) sp n (trows * tbytes) ++ s.cw.badRows true (some (.win (d 4 % 2 ^ 20))) 0 1 (32 * n) = [] →
    (s.fitting = .l → Completes (.subscr f) s (s.setSOpt f.sc 1)) ∧
    (s.fitting = .h → (∀ i, i < 4 → ∃ b ∈ s.cw.subs, b.idx = i) → Completes (.subscr f) s (s.setSOpt f.sc 2)) ∧
    (s.fitting = .h → ∀ i, i < 4 → (∀ b ∈ s.cw.subs, b.idx ≠ i) → (∀ j, j < i → ∃ b ∈ s.cw.subs, b.idx = j) →
      Completes (.subscr f) s ((s.modCw (fun w => { w with subs := w.subs ++ [{ idx := i, gid := s.cur.gid, tbase := n64 (d 0), rpitch := d 1 / 2 ^ 32 % 2 ^ 32, trows := trows, tbytes := tbytes, tcount := d 2 / 2 ^ 32 % 2 ^ 32, tpitch := d 2 % 2 ^ 32, outbound := outb, slots := n, spitch := sp, ring := d 3 % 2 ^ 20, objs := d 4 % 2 ^ 20 }] })).setSOpt f.sc (n64 (256 * i))))) ∧
  (s.CanIssue (.slotrel f) → d 0 / 2 ^ 2 % 2 ^ 6 = 0 → d 0 / 2 ^ 12 % 2 ^ 52 = 0 → ∀ b, s.cw.subs.find? (fun b => b.idx == d 0 % 4) = some b →
    d 0 / 2 ^ 8 % 16 < b.slots → s.cg.sideLog = [] →
    s.objUpdate (Where.generic (.win (b.objs + 32 * (d 0 / 2 ^ 8 % 16) + (if b.outbound then 0 else 16)))) (fun o => objStep o 0 1 false) = .ok u →
    Completes (.slotrel f) s (if b.outbound = false ∧ b.tcount ≤ b.next ∧ d 0 / 2 ^ 8 % 16 = (b.tcount - 1) % b.slots
      then u.modCw (fun w => { w with subs := w.subs.filter (fun x => x.idx ≠ b.idx) }) else u))

/-- R178, R179: BRA goes to its target when every thread of the fragment takes it and to the next clause when none does; with a mixed guard and room in
the split table, the threads that fall through stay in the fragment, the others form a new one at the target, and both hold a join at the
reconvergence address; a Mule follows its own guard. R180: branches on state of the whole fragment: a scalar register, or the end-of-dimension flag of
a bound stream. The model's choices: log 17. -/
def Obligations.Branches : Prop :=
(∀ (f : FmtCB) (s : State), s.CanIssue (.bra f) →
  (s.cur.mule = true → MovesTo (.bra f) s (if s.muleGuard f.g then s.branched f else s.goto s.nextClause)) ∧
  (s.cur.mule = false → s.gmask f.g = s.cf.mask → MovesTo (.bra f) s (s.branched f)) ∧
  (s.cur.mule = false → s.cf.mask ≠ 0 → s.gmask f.g = 0 → MovesTo (.bra f) s (s.goto s.nextClause)) ∧
  (s.cur.mule = false → s.gmask f.g ≠ s.cf.mask → s.gmask f.g ≠ 0 → s.splitAllowed s.cg = true → (∀ h ∈ s.cg.frags, h.fid < s.cg.nextFid) →
    ∃ u, MovesTo (.bra f) s u ∧ u.cg.frags.length = s.cg.frags.length + 1 ∧ u.mem = s.mem ∧
      u.cf.mask = s.cf.mask &&& ~~~s.gmask f.g ∧ u.cf.hdr = s.nextClause ∧
      (u.cg.frag s.cg.nextFid).mask = s.gmask f.g ∧ (u.cg.frag s.cg.nextFid).hdr = offsetFrom s.curHdr f.toff.toInt ∧
      u.cf.joins = ⟨s.nextId, offsetFrom s.curHdr f.roff.toInt, s.cf.depth⟩ :: s.cf.joins ∧ (u.cg.frag s.cg.nextFid).joins = u.cf.joins) ∧
  (s.cur.mule = false → s.gmask f.g ≠ s.cf.mask → s.gmask f.g ≠ 0 → s.splitAllowed s.cg = false → s.cf.chain.length < 16 →
    ∃ u, MovesTo (.bra f) s u ∧ u.cf.mask = s.cf.mask &&& ~~~s.gmask f.g ∧ u.cf.hdr = s.nextClause ∧ u.mem = s.mem ∧
      ∃ l, u.cf.serial = s.cf.serial ++ [l] ∧ l.recon = offsetFrom s.curHdr f.roff.toInt ∧ l.oMask = s.gmask f.g ∧
        l.oHdr = offsetFrom s.curHdr f.toff.toInt) ∧
  (s.cur.mule = false → s.gmask f.g ≠ s.cf.mask → s.gmask f.g ≠ 0 → s.splitAllowed s.cg = false → 16 ≤ s.cf.chain.length →
    MovesTo (.bra f) s (s.takeTrap s.cur.gid s.cur.fid cSplit 0 none false false none))) ∧
(∀ (f : FmtCB) (s : State),
  let br (c : Prop) [Decidable c] : State := if c then s.branched f else s.goto s.nextClause
  let r := s.sreg (f.bcond.toNat - 0xC0)
  let w := s.stream (f.bcond.toNat / 32 % 8)
  let d := f.bcond.toNat / 8 % 4
  (s.CanIssue (.brs f) → MovesTo (.brs f) s (br (r ≠ 0))) ∧
  (s.CanIssue (.brz f) → MovesTo (.brz f) s (br (r = 0))) ∧
  (s.CanIssue (.breod f) → w.bound = true → MovesTo (.breod f) s (br (d ≤ w.ndim.toNat ∧ w.flags.getLsbD d = true))) ∧
  (s.CanIssue (.brneod f) → w.bound = true → MovesTo (.brneod f) s (br (¬(d ≤ w.ndim.toNat ∧ w.flags.getLsbD d = true)))))

/-- R181, R182: CALL saves the next clause's address in its scalar register, raises the depth and goes to its target; RET lowers the depth, not below 0,
and goes to a legal address where no reconvergence opened at this depth is pending, and takes JOIN_ESCAPE where a join is. The model's choices: log
26. -/
def Obligations.CallsReturns : Prop := ∀ (f : FmtCB) (g : FmtC) (s : State),
  (s.CanIssue (.call f) → s.depth ≠ BitVec.allOnes 16 →
    MovesTo (.call f) s (((s.setS (f.bcond.toNat % 64) s.nextClause).setDepth (s.depth + 1)).goto (offsetFrom s.curHdr f.toff.toInt))) ∧
  (s.CanIssue (.ret g) → (s.cur.mule = true ∨ (∀ j, s.cf.pendingTop = .join j → j.depth ≠ s.cf.depth) ∧
      (∀ l, s.cf.pendingTop = .level l → l.depth ≠ s.cf.depth)) → (s.sregOr 0 g.sa).toNat < 2 ^ 57 → (s.sregOr 0 g.sa).toNat % 4 = 0 →
    MovesTo (.ret g) s ((s.setDepth (if s.depth = 0 then 0 else s.depth - 1)).goto (s.sregOr 0 g.sa))) ∧
  (s.CanIssue (.ret g) → s.cur.mule = false → ∀ j, s.cf.pendingTop = .join j → j.depth = s.cf.depth →
    MovesTo (.ret g) s (s.takeTrap s.cur.gid s.cur.fid cJoin j.addr none false false none))

/-- R22, R185: EXIT ends the selected threads, and the others go on at the next clause; the group's last EXIT waits for the side log, and the
workgroup's last one writes its maps back first and ends the workgroup; a Mule that its guard selects ends. In a group without divergence, trap level,
open barrier or blocked GROW, the next state is written out: the fragments without the threads that ended, the issuing one at the next clause; of a
group left without threads nothing but its granules and tiles. No group of a workgroup that has ended is left. The model's choices: log 21, 26. -/
def Obligations.ExitEffects : Prop := ∀ (f : FmtC) (s v : State),
  let sel := s.gmask f.g
  let kept (v : State) (m : BitVec 32) : List Frag := v.cg.frags.filterMap (fun h =>
    let k := if h.fid = v.cur.fid then h.goto v.nextClause else h
    if k.mask &&& ~~~m = 0 then none else some { k with mask := k.mask &&& ~~~m })
  let closed (v : State) : State := v.modCg (fun g =>
    { g with frags := [], mule := none, queues := [[], [], [], []], spq := [], apx := none, pending := [], tlevel := 0 })
  let plain (v : State) : Prop := v.cg.tlevel = 0 ∧ (∀ h ∈ v.cg.frags, h.serial = [] ∧ h.chain = [] ∧ h.wait ≠ .fuse) ∧
    (∀ n, (v.cw.bar n).isOpen = false) ∧ (∀ x ∈ v.gangs, x.rcb = v.cw.rcb → x.num = v.cw.gang → ∀ n, (x.bar n).isOpen = false) ∧ v.growers v.cg = [] ∧
    (∀ g ∈ v.groups, g.gid = v.cur.gid → g = v.cg) ∧ ∃ w, v.wg? v.cg.wid = some w
  let ended (v : State) (m : BitVec 32) : State := (v.goto v.nextClause).modCg (fun g => ((g.endThreads m).leaveEmpty 2).close)
  s.CanIssue (.exit f) →
  (s.cur.mule = true → MovesTo (.exit f) s (if s.muleGuard f.g then s.modCm (fun m => { m with ended := true }) else s.goto s.nextClause)) ∧
  (s.cur.mule = false → sel = 0 → MovesTo (.exit f) s (s.goto s.nextClause)) ∧
  (s.cur.mule = false → sel ≠ 0 → s.cg.liveMask &&& ~~~sel ≠ 0 → MovesTo (.exit f) s (s.endNow sel) ∧
    (plain s → MovesTo (.exit f) s (s.modCg (fun g => { g with frags := kept s sel })))) ∧
  (s.cur.mule = false → sel ≠ 0 → s.cg.liveMask &&& ~~~sel = 0 → s.cg.sideLog = [] →
    (s.lastGroup = false → MovesTo (.exit f) s (s.endNow sel) ∧ (plain s → (s.ctx? s.cw.ctx).bind (·.change) = none → MovesTo (.exit f) s (closed s))) ∧
    (s.lastGroup = true → s.flushMaps = .ok v → v.cg.sideLog = [] → MovesTo (.exit f) s (v.endNow sel) ∧
      (plain v → v.cur = s.cur → v.lastGroup = true → v.cg.liveMask &&& ~~~sel = 0 → v.group? v.cur.gid = some v.cg →
        MovesTo (.exit f) s ((((closed v).wgExit v.cw.wid).settleAll v.cw).growCheck v.cur.gid)))) ∧
  (∀ (m : BitVec 32), ((ended v m).cg.frags ≠ [] → v.endNow m = ((ended v m).settleAll v.cw).growCheck v.cur.gid) ∧
    ((ended v m).cg.frags = [] → (ended v m).lastGroup = true → v.endNow m = (((ended v m).wgExit v.cw.wid).settleAll v.cw).growCheck v.cur.gid)) ∧
  (∀ wid, ∀ g ∈ (v.wgExit wid).groups, g.wid ≠ wid) ∧ (∀ (g : Group) (m : BitVec 32), (g.endThreads m).liveMask &&& m = 0)

/-- R26, R28, R189, R190: an arrival at a workgroup or gang barrier adds the fragment's threads, or the selected ones with `.arv`, opening the instance
at the first; a waiting fragment goes on once the arrivals reach the live threads, and `.arv` goes on at once. R27, R190: a watchdog that has run for
2^BWE ticks since the first arrival marks its instance; the only group of the workgroup or gang, whose fragment waits at the barrier, takes
BARRIER_STALL there. A guard that selects no thread arrives nowhere and goes on. Once the arrivals reach the live threads, the instance is empty again
and every fragment that waits at it goes on behind its instruction. The model's choices: log 25. -/
def Obligations.BarrierArrivals : Prop :=
(∀ (f : FmtC) (s : State),
  let arv := f.imm.getLsbD 4
  let k := popcount (if arv then s.gmask f.g else s.cf.mask)
  let held (w : Wait) (u : State) : State := u.modCf (fun f => { f with wait := w, arrived := some w })
  let n := f.imm.toNat % 16
  let m := f.imm.toNat % 4
  let wg : State := s.modCw (fun w => w.setBar n ((w.bar n).arrive k w.bwe s.clock))
  let gang : State := s.setGang ((s.gang s.cw).setBar m (((s.gang s.cw).bar m).arrive k s.cw.bwe s.clock))
  (∀ (b : Barrier) (e : Nat) (c : Word64), (b.isOpen = true → b.arrive k e c = { b with arrived := b.arrived + k }) ∧
    (b.isOpen = false → b.arrive k e c = { arrived := k, start := c, isOpen := true, exp := e })) ∧
  (arv = true ∨ s.cf.arrived = none → s.gmask f.g = 0 → (s.CanIssue (.bar f) → MovesTo (.bar f) s (s.retire (.bar f))) ∧
    (s.CanIssue (.bargang f) → MovesTo (.bargang f) s (s.retire (.bargang f)))) ∧
  (arv = false → s.cf.arrived = some (.bar n) → s.CanIssue (.bar f) → MovesTo (.bar f) s (s.waitBar (.bar n))) ∧
  (arv = false → s.cf.arrived = some (.gang m) → s.CanIssue (.bargang f) → MovesTo (.bargang f) s (s.waitBar (.gang m))) ∧
  (arv = false → s.cf.arrived = some .none → let u := s.modCf (fun f => { f with arrived := none })
    (s.CanIssue (.bar f) → MovesTo (.bar f) s (u.retire (.bar f))) ∧ (s.CanIssue (.bargang f) → MovesTo (.bargang f) s (u.retire (.bargang f)))) ∧
  (s.gmask f.g ≠ 0 → s.cf.arrived = none → s.cg.sideLog = [] →
  (s.CanIssue (.bar f) → arv = true → MovesTo (.bar f) s ((wg.retire (.bar f)).settleBar (wg.retire (.bar f)).cg.wid n)) ∧
  (s.CanIssue (.bar f) → arv = false →
    let t := (held (.bar n) wg).settleBar (held (.bar n) wg).cg.wid n
    MovesTo (.bar f) s (if t.cf.wait = .bar n then t.waitBar (.bar n) else t)) ∧
  (s.CanIssue (.bargang f) → arv = true →
    MovesTo (.bargang f) s ((gang.retire (.bargang f)).settleGang (gang.retire (.bargang f)).cw.rcb (gang.retire (.bargang f)).cw.gang m)) ∧
  (s.CanIssue (.bargang f) → arv = false →
    let t := (held (.gang m) gang).settleGang (held (.gang m) gang).cw.rcb (held (.gang m) gang).cw.gang m
    MovesTo (.bargang f) s (if t.cf.wait = .gang m then t.waitBar (.gang m) else t)))) ∧
(∀ (s : State) (n : Nat),
  let freed (l : List Nat) (w : Wait) : List Group :=
    s.groups.map (fun g => if l.contains g.wid then { g with frags := g.frags.map (Frag.resumeBar w) } else g)
  (∀ wid, ((s.wg wid).bar n).isOpen = false ∨ ((s.wg wid).bar n).arrived < s.liveThreads wid → s.settleBar wid n = s) ∧
  (∀ wid w, s.wg? wid = some w → SMap.wf {} w.bars = true → (w.bar n).isOpen = true → s.liveThreads wid ≤ (w.bar n).arrived →
    (s.settleBar wid n).groups = freed [wid] (.bar n) ∧ (s.settleBar wid n).mem = s.mem ∧
      ∃ v, (s.settleBar wid n).wg? wid = some v ∧ v.bar n = {} ∧ ∀ k, k ≠ n → v.bar k = w.bar k) ∧
  (∀ rcb num, s.gangs.find? (fun x => x.rcb == rcb && x.num == num) = none → s.settleGang rcb num n = s) ∧
  (∀ rcb num x, s.gangs.find? (fun x => x.rcb == rcb && x.num == num) = some x →
    ((x.bar n).isOpen = false ∨ (x.bar n).arrived < s.gangThreads rcb num → s.settleGang rcb num n = s) ∧
    (SMap.wf {} x.bars = true → (x.bar n).isOpen = true → s.gangThreads rcb num ≤ (x.bar n).arrived →
      (s.settleGang rcb num n).groups = freed (s.gangMembers rcb num) (.gang n) ∧ (s.settleGang rcb num n).mem = s.mem ∧
        ∃ y, (s.settleGang rcb num n).gangs.find? (fun x => x.rcb == rcb && x.num == num) = some y ∧ y.bar n = {} ∧ ∀ k, k ≠ n → y.bar k = x.bar k))) ∧
(∀ (f : Frag) (w : Wait), f.serial = [] →
  (∀ c, f.wait = w → f.clause = some c → f.resumeBar w = (if f.widx + 1 < c.nIns then { f with widx := f.widx + 1, wait := .none, aged := false, arrived := none }
    else { f with hdr := nextHdr f.hdr c, widx := 0, clause := none, wait := .none, aged := false, arrived := none })) ∧
  (f.wait = w → f.clause = none → f.resumeBar w = { f with wait := .none, widx := f.widx + 1, arrived := none }) ∧
  (f.wait ≠ w → (∀ n, f.wait ≠ .bar n ∧ f.wait ≠ .gang n) → f.resumeBar w = (if f.arrived = some w then { f with arrived := some .none } else f))) ∧
(∀ (s : State) (n : Nat) (g : Group) (f : Frag),
  (∀ (w : Workgroup), s.wg? w.wid = some w → (w.bar n).isOpen = true → (w.bar n).stalled = false → 2 ^ (w.bar n).exp ≤ (s.clock - (w.bar n).start).toNat →
    s.groupsOf w.wid = [g] → s.group? g.gid = some g → g.frags.find? (fun f => f.wait == .bar n && !g.stopped f) = some f →
    MovesTo (.barrierWatchdogExpiry w.wid n) s ((s.modWg w.wid (fun v => v.setBar n { w.bar n with stalled := true })).takeTrap g.gid f.fid cStall
      (n64 (n % 16 + (w.bar n).arrived % 4096 * 2 ^ 8)) none true true none)) ∧
  (∀ (rcb num : Nat) (x : Gang), s.gangs.find? (fun x => x.rcb == rcb && x.num == num) = some x → (x.bar n).isOpen = true → (x.bar n).stalled = false →
    2 ^ (x.bar n).exp ≤ (s.clock - (x.bar n).start).toNat → s.groups.filter (fun h => (s.gangMembers rcb num).contains h.wid && !h.frags.isEmpty) = [g] →
    s.group? g.gid = some g → g.frags.find? (fun f => f.wait == .gang n && !g.stopped f) = some f →
    MovesTo (.gangBarrierWatchdogExpiry rcb num n) s ((s.setGang (x.setBar n { x.bar n with stalled := true })).takeTrap g.gid f.fid cStall
      (n64 (n % 4 + 16 + (x.bar n).arrived % 2 ^ 24 * 2 ^ 8)) none true true none)) ∧
  (∀ wid, (∀ w, s.wg? wid = some w → (s.clock - (w.bar n).start).toNat < 2 ^ (w.bar n).exp) → MovesTo (.barrierWatchdogExpiry wid n) s s))

/-- R142, R191, R192: WAIT goes on where the path's counter is at most the threshold, and otherwise swaps paths or holds the fragment; YIELD and NOP have
no effect but to go on. R34 to R36, R193, R194: GROW gives status 1 over the side's limit, 2 over a budget, and otherwise waits for the granules of
its partition, which the pool grants in order of priority, then age, the first that does not fit blocking the rest; where every group of the partition
is blocked and no kill is about to release granules, a request that does not fit fails with status 3; a request that settles writes its status and its
predicate and, granted, adds the granules; SHRINK gives granules back once no issued load, accumulator copy or matrix operation of the group is
outstanding. The model's choices: log 27, 64. -/
def Obligations.WaitsHintsPool : Prop :=
(∀ (f : FmtC) (s : State),
  let n := s.cg.inflight f.imm.toNat
  let limit := min (s.sregOr 0 f.sa).toNat 63
  (s.CanIssue (.wait f) → n ≤ limit → MovesTo (.wait f) s ((s.retire (.wait f)).modCf Frag.swapPoint)) ∧
  (s.CanIssue (.wait f) → limit < n → s.cf.swap .none = none → MovesTo (.wait f) s (s.holdIssuer .counter)) ∧
  (∀ h, s.CanIssue (.wait f) → limit < n → s.cf.swap .none = some h → MovesTo (.wait f) s (s.modCf (fun _ => h))) ∧
  (s.CanIssue (.yield f) → Completes (.yield f) s s) ∧ (s.CanIssue (.nop f) → Completes (.nop f) s s)) ∧
(∀ (f : FmtC) (s : State),
  let n := (s.sregOr 0 f.sa).toNat
  let side := f.imm.getLsbD 3
  let t := s.modCf (fun f => { f with wait := .grow n side })
  (s.CanIssue (.grow f) → 1 ≤ n → n ≤ 32 →
    (sideLimit side < s.cg.side side + n → MovesTo (.grow f) s (t.modCg (fun g => g.settleGrow t.cf n side 1))) ∧
    (s.cg.side side + n ≤ sideLimit side → s.granFree s.cw.rcb n = false → MovesTo (.grow f) s (t.modCg (fun g => g.settleGrow t.cf n side 2))) ∧
    (s.cg.side side + n ≤ sideLimit side → s.granFree s.cw.rcb n = true → MovesTo (.grow f) s (t.growSettle t.cg))) ∧
  (s.CanIssue (.shrink f) → n ≤ s.cg.side side → n ≠ 0 → (s.cg.matrix ≠ [] ∨ ∃ x ∈ s.cg.flights, x.kind ≠ .store) →
    MovesTo (.shrink f) s (s.holdIssuer .counter)) ∧
  (s.CanIssue (.shrink f) → n ≤ s.cg.side side → n ≠ 0 → s.cg.matrix = [] → (∀ x ∈ s.cg.flights, x.kind = .store) →
    let u := s.modCg (fun g => g.shrink side n)
    Completes (.shrink f) s (u.growSettle u.cg) ∧ ∀ g : Group, (g.shrink side n).side side = g.side side - n) ∧
  (s.CanIssue (.shrink f) → n = 0 → Completes (.shrink f) s s) ∧
  (∀ (g : Group) (h : Frag) (i : FmtC) (r : Fin 48) (k c : Nat) (b : Bool), SMap.wf 0 g.sregs = true → SMap.wf 0 g.preds = true →
    h.growInstr = some i → i.sb = some r →
    (g.settleGrow h k b c).sreg r.val = n64 c ∧ (g.settleGrow h k b c).side b = (if c = 0 then g.side b + k else g.side b) ∧
    (i.imm.toNat % 8 ≠ 7 → (g.settleGrow h k b c).pred (i.imm.toNat % 8) = (g.pred (i.imm.toNat % 8) &&& ~~~h.mask) ||| (if c = 0 then h.mask else 0)))) ∧
(∀ (s : State) (g : Group),
  (∀ l x, s.growFirst l = some x → x ∈ l ∧ ∀ y ∈ l, (s.wg y.1.wid).prio ≤ (s.wg x.1.wid).prio ∧
    ((s.wg y.1.wid).prio = (s.wg x.1.wid).prio → x.1.since ≤ y.1.since)) ∧
  (∀ l x, s.growLast l = some x → x ∈ l ∧ ∀ y ∈ l, (s.wg x.1.wid).prio ≤ (s.wg y.1.wid).prio ∧
    ((s.wg y.1.wid).prio = (s.wg x.1.wid).prio → y.1.since ≤ x.1.since)) ∧
  (∀ h q n side k, s.growFirst (s.growers g) = some (h, q, n, side) →
    let fits := h.side side + n ≤ sideLimit side ∧ s.granFree (s.wg h.wid).rcb n = true ∧
      n ≤ 128 - ((s.groups.filter (fun j => s.samePart h j)).map (fun j => j.vside + j.mside)).sum
    (fits → s.growGrant g (k + 1) = (s.modGroup h.gid (fun j => j.settleGrow q n side 0)).growGrant g k) ∧
    (¬fits → s.growGrant g (k + 1) = s) ∧
    (s.growers g = [(h, q, n, side)] → fits → (s.growSettle g).groups = (s.modGroup h.gid (fun j => j.settleGrow q n side 0)).groups) ∧
    (s.growers g = [(h, q, n, side)] → ¬fits → h.stopped q = false →
      (∀ j ∈ s.groups, s.samePart g j = true → j.frags ≠ [] → j.growBlocked = true ∧ s.doomedWg (s.wg j.wid) = false) →
      (s.growSettle g).groups = (s.modGroup h.gid (fun j => j.settleGrow q n side 3)).groups) ∧
    (s.growers g = [(h, q, n, side)] → ¬fits →
      (∃ j ∈ s.groups, s.samePart g j = true ∧ j.frags ≠ [] ∧ (j.growBlocked = false ∨ s.doomedWg (s.wg j.wid) = true)) →
      (s.growSettle g).groups = s.groups)))

/-- R186, R187, R188: SPAWN of a legal descriptor gives status 1 at depth 4, 3 for a footprint that fits no core, 2 for a budget, 4 for a full wave
queue, and otherwise 0 with the wave queued; the predicate tells whether the status is 0. R299, R301: a queued wave's RCB in its slot holds the
descriptor's fields, one level below the spawning work; the wave is a candidate for a place, last of those that reached STATE 1. The model's choices:
log 46. -/
def Obligations.SpawnStatuses : Prop :=
(∀ (f : FmtC) (s t : State) (vs : List (Nat × List Byte)),
  let a := s.sregOr 0 f.sa
  let d := waveDesc (leNat ((vs.map Prod.snd).headD []))
  let fin (st : Nat) (v : State) : State :=
    (v.setSOpt f.sb (n64 st)).modCg (fun g => g.setPred (f.imm.toNat % 8) v.cf.mask (if st = 0 then BitVec.allOnes 32 else 0))
  let never := 128 < ceilDiv d.ngrp 4 * (d.vgran + d.mgran) ∨ 32 < ceilDiv d.ngrp 4 * d.acct
  let room := t.budgetRoom t.cw.rcb { gran := d.ngrp * (d.vgran + d.mgran), scrk := d.scrk, acct := d.ngrp * d.acct }
  s.CanIssue (.spawn f) → a.toNat % 32 = 0 → s.loadThreads .global 32 32 false [⟨0, a⟩] = .ok (t, vs) → t.waveDescOk (t.ctxRcb t.cw.ctx) d = true →
  (4 ≤ t.rcbDepth t.cw.rcb → Completes (.spawn f) s (fin 1 t)) ∧
  (t.rcbDepth t.cw.rcb < 4 → never → Completes (.spawn f) s (fin 3 t)) ∧
  (t.rcbDepth t.cw.rcb < 4 → ¬never → room = false → Completes (.spawn f) s (fin 2 t)) ∧
  (t.rcbDepth t.cw.rcb < 4 → ¬never → room = true → t.waveSlot t.cw.ctx = none → Completes (.spawn f) s (fin 4 t)) ∧
  (∀ slot, t.rcbDepth t.cw.rcb < 4 → ¬never → room = true → t.waveSlot t.cw.ctx = some slot → t.cg.sideLog = [] →
    Completes (.spawn f) s (fin 0 (t.queueWave slot d)))) ∧
(∀ (s : State) (a x : Nat),
  let d := waveDesc x
  let u := s.queueWave a d
  let row : Wave := { rcb := a, ngrp := d.ngrp, vgran := d.vgran, mgran := d.mgran, scrk := d.scrk, acct := d.acct }
  SMap.wf 0 s.mem = true → s.rcbDepth s.cw.rcb < 4 →
  u.rcbD a 0 = 4 * 2 ^ 60 + 2 ^ 56 + (s.rcbDepth s.cw.rcb + 1) * 2 ^ 53 + (if d.priov then 2 ^ 43 else 0) ∧ u.rcbD a 1 = s.cw.rcb % 2 ^ 64 ∧
  u.rcbD a 4 = (if d.priov then d.prio * 2 ^ 60 else 0) ∧ u.rcbD a 8 = d.entry ∧ u.rcbD a 10 = d.arg ∧
  u.rcbD a 11 = d.nwg * 2 ^ 32 + s.cw.lnum % 2 ^ 16 * 2 ^ 16 ∧ u.rcbD a 12 = d.cword ∧
  row ∈ u.waves ∧ (∀ w ∈ u.waves, w.rcb = a → w = row) ∧ (∃ k ∈ u.work, k.rcb = a ∧ k.ctx = s.cw.ctx) ∧
  u.candidates = s.candidates.filter (· ≠ a) ++ [a] ∧ u.reached = s.reached.filter (· ≠ a) ++ [a] ∧ u.groups = s.groups ∧
  (∀ p, p < a ∨ a + 128 ≤ p → u.rd8 p = s.rd8 p))

/-- R139 to R142, R146, R147, R149: a fragment at a clause header, with no reconvergence, deferred cause or colour change to take first, enters the
clause that stands there when its counter waits are met. The model's choices: log 35. -/
def Obligations.ClauseEntry : Prop := ∀ (s : State) (c : Clause) (h : Nat) (words : List Nat),
  s.hasFetcher = true → s.cur.mule = false → s.cf.widx = 0 → s.cf.atRecon = false → s.cg.pending = [] → s.cg.good = s.ctxGood s.cw.ctx →
  s.fetchClause s.cw.who s.cf.hdr = .ok (h, words) → decodeClause h words s.cg.role s.cw.priv s.cg.tlevel = .ok c → 0 < c.nIns →
  startsAt c.words 0 16 0 = true →
  let v := s.noteFetch s.cw.who s.cf.hdr.toNat (words.length + 1)
  v.groups = s.groups ∧ v.mem = s.mem ∧
  (s.cg.waitsMet c.hdr = true → exec .clauseFetch s = .next (v.modCf (fun f => { f with clause := some c, wait := .none }))) ∧
  (s.cg.waitsMet c.hdr = false → exec .clauseFetch s = .next (v.modCf (fun f => { f with wait := .counter })))

/-- R195, R196, R316, R317, R325: CRRD gives each control register's value; a number that no register has takes ILLEGAL_ENCODING, and a register of
privileged contexts takes PRIV_INSTR in another. R93, R99, R195, R316, R317, R325: CRWR writes the generator (0 becomes 1), the conversion state, the
banked trap registers and TVEC with reserved bits ignored, in every context, and DOMKILL in a privileged one, where CTXINFO and the seal version keep
their values; a privileged number takes PRIV_INSTR in another context, and one that no register has or that is not writable takes ILLEGAL_ENCODING. The
model's choices: log 33. -/
def Obligations.ControlRegisters : Prop :=
(∀ (f : FmtC) (s : State), s.CanIssue (.crrd f) →
  let n := s.crNumber f
  let gives (x : Word64) : Prop := Completes (.crrd f) s (s.setSOpt f.sa x)
  (n = 0x00 → gives (n64 s.ginfo)) ∧ (n = 0x01 → gives (n64 (s.cg.mside * 2 ^ 8 + s.cg.vside))) ∧
  (n = 0x02 → gives (if s.cw.divtrap then 1 else 0)) ∧ (n = 0x03 → gives (s.cg.srstate.setWidth 64)) ∧ (n = 0x04 → gives s.cg.cvstate) ∧
  (n = 0x05 → gives (n64 (s.cg.prev.toNat * 4 + s.cg.good.toNat))) ∧ (n = 0x06 → gives (n64 s.cg.tlevel)) ∧ (n = 0x07 → gives s.clock) ∧
  (n = 0x10 → gives s.cg.bank1.cause) ∧ (n = 0x11 → gives s.cg.bank1.ret) ∧ (n = 0x12 → gives s.cg.bank1.val) ∧ (n = 0x13 → gives s.cg.bank1.save) ∧
  (n = 0x18 → gives s.cg.bank2.cause) ∧ (n = 0x19 → gives s.cg.bank2.ret) ∧ (n = 0x1A → gives s.cg.bank2.val) ∧ (n = 0x1B → gives s.cg.bank2.save) ∧
  (n = 0x1F → gives s.cg.tvec) ∧
  (s.cw.priv = true → (n = 0x40 → gives (n64 s.ctxInfo)) ∧ (n = 0x41 → gives 0) ∧ (n = 0x42 → gives s.sealVer)) ∧
  (s.cur.mule = false → s.cw.priv = false → 0x40 ≤ n → n ≤ 0x42 →
    exec (.crrd f) s = .next (s.takeTrap s.cur.gid s.cur.fid cPriv s.instrAddr none false false none)) ∧
  (s.cur.mule = false → (8 ≤ n ∧ n < 0x10 ∨ 0x14 ≤ n ∧ n < 0x18 ∨ 0x1C ≤ n ∧ n < 0x1F ∨ 0x20 ≤ n ∧ n < 0x40 ∨ 0x43 ≤ n) →
    exec (.crrd f) s = .next (s.takeTrap s.cur.gid s.cur.fid cIllegal (n64 n) none false false none))) ∧
(∀ (f : FmtC) (s : State), s.CanIssue (.crwr f) →
  let n := s.crNumber f
  let x := s.sregOr 0 f.sa
  let done (h : Group → Group) : Prop := Completes (.crwr f) s (s.modCg h)
  (n = 0x03 → done (fun g => { g with srstate := if x.setWidth 32 = 0 then 1 else x.setWidth 32 })) ∧
  (n = 0x04 → done (fun g => { g with cvstate := x &&& 0xFFFFFFFF000000F3 })) ∧
  (n = 0x10 → done (fun g => { g with bank1 := { g.bank1 with cause := x &&& 0x3F03FF } })) ∧
  (n = 0x11 → done (fun g => { g with bank1 := { g.bank1 with ret := x &&& 0xF9FFFFFFFFFFFFFF } })) ∧
  (n = 0x12 → done (fun g => { g with bank1 := { g.bank1 with val := x } })) ∧ (n = 0x13 → done (fun g => { g with bank1 := { g.bank1 with save := x } })) ∧
  (n = 0x18 → done (fun g => { g with bank2 := { g.bank2 with cause := x &&& 0x3F03FF } })) ∧
  (n = 0x19 → done (fun g => { g with bank2 := { g.bank2 with ret := x &&& 0xF9FFFFFFFFFFFFFF } })) ∧
  (n = 0x1A → done (fun g => { g with bank2 := { g.bank2 with val := x } })) ∧ (n = 0x1B → done (fun g => { g with bank2 := { g.bank2 with save := x } })) ∧
  (n = 0x1F → done (fun g => { g with tvec := x &&& 0x01FFFFFFFFFFFF01 })) ∧
  (s.cw.priv = true → n = 0x40 ∨ n = 0x42 → Completes (.crwr f) s s) ∧
  (s.cw.priv = true → n = 0x41 → Completes (.crwr f) s (s.killDomain (s.wg (s.group s.cur.gid).wid).ctx (x.toNat % 2 ^ 8) 5 (s.group s.cur.gid).tlevel 0 0 0)) ∧
  (s.cur.mule = false → s.cw.priv = false → 0x40 ≤ n → n ≤ 0x42 →
    exec (.crwr f) s = .next (s.takeTrap s.cur.gid s.cur.fid cPriv (n64 n) none false false none)) ∧
  (s.cur.mule = false → (n < 3 ∨ 5 ≤ n ∧ n < 0x10 ∨ 0x14 ≤ n ∧ n < 0x18 ∨ 0x1C ≤ n ∧ n < 0x1F ∨ 0x20 ≤ n ∧ n < 0x40 ∨ 0x43 ≤ n) →
    exec (.crwr f) s = .next (s.takeTrap s.cur.gid s.cur.fid cIllegal (n64 n) none false false none)))

/-- R316 to R318: a trap at level 0 or 1 with a handler leaves the fragment where it stands, saves cause, return word, value and s47 in the next level's
bank, puts that level's save area into s47, and starts a fragment with the same threads at the handler, at the next level; memory stays. R317, R318,
R323: with no handler table, no entry, or at level 2, the trap kills the fault domain of the group instead. The model's choices: log 20, 35. -/
def Obligations.TrapEntry : Prop :=
(∀ (s : State) (g : Group) (f : Frag) (code : Nat) (tval : Word64) (thr : Option Nat) (atHdr : Bool) (e : Word64),
  s.group? g.gid = some g → g.frag? f.fid = some f → g.tlevel < 2 → (∀ h ∈ g.frags, h.fid < g.nextFid) → SMap.wf 0 g.sregs = true →
  code ≠ cPoison → code ≠ cViral → code ≠ cLost → s.handlerEntry (s.wg g.wid).who g.tvec code = .ok e →
  let u := s.takeTrap g.gid f.fid code tval thr atHdr false none
  let b := (u.group g.gid).bank (g.tlevel + 1)
  let h := (u.group g.gid).frag g.nextFid
  b.cause = n64 (code + (match thr with
    | some t => t * 2 ^ 16 + 2 ^ 21
    | none => 0)) ∧
  b.ret = (if atHdr then n64 (f.hdr.toNat % 2 ^ 57 + 2 ^ 59) else n64 ((f.hdr + n64 (4 * (f.widx + 1))).toNat % 2 ^ 57 + f.widx % 16 * 2 ^ 60)) ∧
  b.val = tval ∧ b.spill = g.sreg 47 ∧ b.frag = f.fid ∧ (u.group g.gid).sreg 47 = (g.bank (g.tlevel + 1)).save ∧
  (u.group g.gid).tlevel = g.tlevel + 1 ∧ h.mask = f.mask ∧ h.hdr = e ∧ h.level = g.tlevel + 1 ∧
  ((u.group g.gid).frag f.fid).hdr = f.hdr ∧ ((u.group g.gid).frag f.fid).widx = f.widx ∧ ((u.group g.gid).frag f.fid).mask = f.mask ∧ u.mem = s.mem) ∧
(∀ (s : State) (g : Group) (f : Frag) (code : Nat) (tval : Word64) (thr : Option Nat) (atHdr : Bool),
  s.group? g.gid = some g → g.frag? f.fid = some f → code ≠ cPoison → code ≠ cViral → code ≠ cLost →
  let w := s.wg g.wid
  let kill (reason : Nat) : State := s.killDomain w.ctx w.fdom reason g.tlevel (causeWord code thr false false) (retWord f.hdr f.widx atHdr) tval
  (g.tlevel = 2 → s.takeTrap g.gid f.fid code tval thr atHdr false none = kill 1) ∧
  (g.tlevel < 2 → g.tvec.getLsbD 0 = false → s.takeTrap g.gid f.fid code tval thr atHdr false none = kill 2) ∧
  (∀ r, g.tlevel < 2 → s.handlerEntry w.who g.tvec code = .error (.kill r) → s.takeTrap g.gid f.fid code tval thr atHdr false none =
    (s.noteHandler w.who g.tvec code).killDomain w.ctx w.fdom r g.tlevel (causeWord code thr false false) (retWord f.hdr f.widx atHdr) tval) ∧
  (∀ x, g.tlevel < 2 → s.handlerEntry w.who g.tvec code = .error (.busy x) → s.takeTrap g.gid f.fid code tval thr atHdr false none =
    (s.askFor x 8 false).modGroup g.gid (fun g => g.modFrag f.fid (fun f => { f with wait := .trap code tval thr atHdr false none }))))

/-- R197, R198, R316, R319: TRAP takes TRAP_INSTRUCTION with its value; TRET from the only fragment of a handler level restores s47, goes back to the
level below, and lets the trapped fragment go on at TRET's address and word, the next instruction with `.next`. -/
def Obligations.TrapsByInstruction : Prop := ∀ (f : FmtC) (s : State),
  (s.CanIssue (.trap f) → s.cur.mule = false → exec (.trap f) s = .next (s.takeTrap s.cur.gid s.cur.fid cTrapInstr (match f.sa with
    | some r => n64 (f.imm.toNat + (s.sreg r.val).toNat % 2 ^ 58 * 2 ^ 6)
    | none => n64 f.imm.toNat) none false false none)) ∧
  (let b := s.cg.bank s.cg.tlevel
   let r := b.ret.toNat
   let atHdr := decide (r / 2 ^ 59 % 2 = 1)
   let hdr : Word64 := if atHdr then n64 (r % 2 ^ 57) else n64 ((r % 2 ^ 57 + 2 ^ 57 - 4 * (r / 2 ^ 60 + 1)) % 2 ^ 57)
   s.CanIssue (.tret f) → s.cg.tlevel ≠ 0 → (∀ h ∈ s.cg.frags, h.level = s.cg.tlevel → h.fid = s.cf.fid) → s.cf.pendingTop = .none → r % 4 = 0 →
   (atHdr = true → r / 2 ^ 60 = 0) → b.posted = none → s.cf.fid ≠ b.frag → SMap.wf 0 s.cg.sregs = true →
   (∃ q, s.cg.frag? b.frag = some q) → s.growers s.cg = [] → ∀ (h : Word64) (k : Nat),
   (if f.imm.getLsbD 0 then s.afterInstr s.cw.who hdr (r / 2 ^ 60) atHdr = .ok (h, k) else (h, k) = (hdr, r / 2 ^ 60)) →
   ∃ u, MovesTo (.tret f) s u ∧ u.cg.tlevel = s.cg.tlevel - 1 ∧ u.cg.sreg 47 = b.spill ∧ u.cg.frag? s.cf.fid = none ∧ u.mem = s.mem ∧
     (u.cg.frag b.frag).hdr = h ∧ (u.cg.frag b.frag).widx = k)

/-- R199 to R202: LKLINE and ULKLINE give their status, and change the workgroup's list of locked lines only where it is 0; CLRPOIS stores zeros and
clears the mark; CLWB makes memory's own bytes the current ones where a cache holds the line modified, and does nothing where none does; CLINV drops
what caches hold. The model's choices: log 12, 30. -/
def Obligations.CacheLines : Prop := ∀ (f : FmtC) (s u : State) (x : Xlat),
  let a := s.sregOr 0 f.sa
  let line := x.pa / 128
  let st := s.lockStatus x
  isGlobal a = true →
  (s.CanIssue (.lkline f) → s.lineXlat f = .ok x →
    Completes (.lkline f) s ((if st = 0 then (s.fillL2 line).modCw (fun w => { w with locks := w.locks ++ [line] }) else s).setSOpt f.sb (n64 st))) ∧
  (s.CanIssue (.ulkline f) → s.lineXlat f = .ok x → s.cw.locks.contains line = true →
    Completes (.ulkline f) s ((s.modCw (fun w => { w with locks := w.locks.filter (· ≠ line) })).setSOpt f.sb 0)) ∧
  (s.CanIssue (.ulkline f) → s.lineXlat f = .ok x → s.cw.locks.contains line = false → Completes (.ulkline f) s (s.setSOpt f.sb 5)) ∧
  (s.CanIssue (.clrpois f) → s.storeThreads .global 128 6 1 true false false [⟨0, a, List.replicate 128 0⟩] = .ok u → Completes (.clrpois f) s u ∧
    ∀ y, s.fate s.cw.who a.toNat true = .ok y → u.poisonedLine (y.pa / 128) = false) ∧
  (s.lineXlat f = .ok x → let counted (v : State) : State := v.modCg (fun g => g.fly { path := 1, kind := .store })
    (s.CanIssue (.clwb f) → SMap.get [] s.modified line = [] → Completes (.clwb f) s s) ∧
    (s.CanIssue (.clwb f) → SMap.get [] s.modified line ≠ [] → s.cg.inflight 1 < 63 → Completes (.clwb f) s (counted (s.cleanCache line))) ∧
    (s.CanIssue (.clinv f) → s.cg.inflight 1 < 63 → Completes (.clinv f) s (counted (s.dropCache line)))) ∧
  (s.cleanCache line).mem = s.mem ∧ (∀ e ∈ (s.cleanCache line).l1, e.line = line → e.st = .shared) ∧
  (∀ e ∈ (s.dropCache line).l1, e.line ≠ line) ∧ line ∉ (s.dropCache line).l2 ∧ (s.dropCache line).askedFor line = false ∧
  (SMap.wf [] s.modified = true → SMap.get [] (s.cleanCache line).modified line = [] ∧ SMap.get [] (s.dropCache line).modified line = []) ∧
  (SMap.wf 0 s.mem = true → ∀ k, (s.dropCache line).rd8 k = (let old := SMap.get [] s.modified line
    if 128 * line ≤ k ∧ k < 128 * line + old.length then old.getD (k - 128 * line) 0 else s.rd8 k)) ∧
  st = (if s.cw.locks.contains line then 1 else if x.sh = true ∨ paTarget x.pa ≠ 0 then 4 else if 8 ≤ s.lockedWays line then 2
    else if 16 ≤ s.cw.locks.length then 3 else 0)

/-- R122, R126: the load barrier on one reference: null and references of the adopted colour pass, a malformed one or one to an unmanaged page does not,
one to a page that does not move is recoloured, and one with a final forwarding entry gets the object's new address. R126, R263, R264: heap loads and
stores complete where the barrier passes every reference, the fields lie on their pages and the accesses succeed: HLD gives good references and heals
its slots, HFLD gives field data, HST stores good references, HSTR data; base registers keep the good references. The model's choices: log 38. -/
def Obligations.HeapAccesses : Prop :=
(∀ (s : State) (r : Word64),
  let addr := r.toNat % 2 ^ 57
  let good (a : Nat) : Word64 := n64 (s.cg.good.toNat * 2 ^ 62 + (if r.toNat / 2 ^ 61 % 2 = 1 then 2 ^ 61 else 0) + a)
  let slow := r ≠ 0 ∧ r.toNat / 2 ^ 57 % 2 ^ 4 = 0 ∧ addr % 8 = 0 ∧ ¬(r.toNat / 2 ^ 62 = s.cg.good.toNat ∧ s.cg.good ≠ 0)
  s.barOne 0 = .good 0 ∧
  (r ≠ 0 → r.toNat / 2 ^ 57 % 2 ^ 4 ≠ 0 ∨ addr % 8 ≠ 0 → s.barOne r = .badRef) ∧
  (r ≠ 0 → r.toNat / 2 ^ 57 % 2 ^ 4 = 0 → addr % 8 = 0 → r.toNat / 2 ^ 62 = s.cg.good.toNat → s.cg.good ≠ 0 → s.barOne r = .good r) ∧
  (slow → ∀ x, s.onManaged addr = .ok x → x.mg = false → s.barOne r = .badRef) ∧
  (slow → ∀ x, s.onManaged addr = .ok x → x.mg = true → s.wordStop addr x false = none → s.rd x.pw 8 / 2 ^ 12 % 2 = 0 → s.barOne r = .good (good addr)) ∧
  (slow → ∀ x k e, s.onManaged addr = .ok x → x.mg = true → s.wordStop addr x false = none → s.rd x.pw 8 / 2 ^ 12 % 2 = 1 →
    s.lookupFwd s.cw.who (s.rd x.pw 8 / 2 ^ 15 * 2 ^ 8) (x.pageOf addr) addr = .found k e →
    (e.state ≠ 1 → e.state ≠ 2 → s.barOne r = .good (good e.newAddr)) ∧
    (e.state = 1 → s.barOne r = .unclaimed (s.rd x.pw 8 / 2 ^ 15 * 2 ^ 8) k) ∧ (e.state = 2 → s.barOne r = .claimed (fwdVa (s.rd x.pw 8 / 2 ^ 15 * 2 ^ 8) k)))) ∧
(∀ (f : FmtM) (s p t u b v : State) (os : List Opnd) (vs : List (Nat × List Byte)) (base val good : List (Nat × Word64)),
  let ts := threads (s.gmask f.g)
  let off := f.off.toNat % 2 ^ 20
  let n := accessBytes f
  let loadRefs : List Ref := vs.map (fun x => ⟨x.1, n64 (leNat x.2), false⟩)
  let heal (eas : List Ea) : List (Nat × Word64 × Word64 × Word64) := (eas.zip (loadRefs.zip good)).map (fun e => (e.1.t, e.1.ea, e.2.1.r, e.2.2.2))
  let slots : List Ea := eaList t.cg (os.getD 0 (.const 0)) (baseSrc f true) (f.off.signExtend 64) ts
  let read (w : State) (eas : List Ea) : Flight := { path := 0, kind := .load, ext := w.loadExt .global eas }
  let counted (w : State) (x : Flight) (back : Group → Group) : State := w.modCg (fun g => ((back g).putRefs (hIdx f.vd) good).fly x)
  (s.CanIssue (.hldSlot f) → s.prepAll (.hldSlot f) ts [baseSrc f true] = .ok (t, os) → t.cg.inflight 0 < 63 →
    t.loadThreads .global 8 8 false slots = .ok (u, vs) → u.barAll loadRefs = .ok (b, good) → b.healSlots (heal slots) = .ok v →
    Completes (.hldSlot f) s (counted v (read t slots) id)) ∧
  (s.CanIssue (.hldField f) → s.barAll (s.refsOf (hIdx f.addr) true ts) = .ok (t, base) → t.fieldRange base off 8 = .ok t → t.cg.inflight 0 < 63 →
    t.loadThreads .global 8 8 true (fieldEas base off) = .ok (u, vs) → u.barAll loadRefs = .ok (b, good) → b.healSlots (heal (fieldEas base off)) = .ok v →
    Completes (.hldField f) s (counted v (read t (fieldEas base off)) (fun g => g.putRefs (hIdx f.addr) base))) ∧
  (s.CanIssue (.hfld f) → s.rangeCheck f.vd (accessRegs f) = .ok s → s.barAll (s.refsOf (hIdx f.addr) true ts) = .ok (t, base) →
    t.fieldRange base off n = .ok t → t.cg.inflight 0 < 63 → t.loadThreads .global n n true (fieldEas base off) = .ok (u, vs) →
    Completes (.hfld f) s (((u.modCg (fun g => g.putRefs (hIdx f.addr) base)).putLoads f vs).modCg (fun g => g.fly (read t (fieldEas base off))))) ∧
  (s.CanIssue (.hstSlot f) → s.prepAll (.hstSlot f) ts [baseSrc f true] = .ok (t, os) → t.barAll (t.refsOf (hIdx f.vd) false ts) = .ok (b, val) →
    (isRel f.ord = true → b.cg.sideLog = []) → heapStore f false 8 slots (fun th => leBytes 8 (thrOf val th).toNat) b = .ok u →
    Completes (.hstSlot f) s (u.modCg (fun g => g.putRefs (hIdx f.vd) val))) ∧
  (s.CanIssue (.hstField f) → (∃ all, s.barAll ((ts.map (fun th => [(⟨th, s.cg.href (hIdx f.addr) th, true⟩ : Ref), ⟨th, s.cg.href (hIdx f.vd) th, false⟩])).flatten) = .ok (p, all)) →
    p.barAll (p.refsOf (hIdx f.addr) true ts) = .ok (t, base) → t.barAll (t.refsOf (hIdx f.vd) false ts) = .ok (b, val) →
    b.fieldRange base off 8 = .ok b → (isRel f.ord = true → b.cg.sideLog = []) →
    heapStore f true 8 (fieldEas base off) (fun th => leBytes 8 (thrOf val th).toNat) b = .ok u →
    Completes (.hstField f) s (u.modCg (fun g => (g.putRefs (hIdx f.addr) base).putRefs (hIdx f.vd) val))) ∧
  (s.CanIssue (.hstr f) → s.rangeCheck f.vd (accessRegs f) = .ok s → s.prepAll (.hstr f) ts [⟨0, f.vd, f.ty⟩] = .ok (t, os) →
    t.barAll (t.refsOf (hIdx f.addr) true ts) = .ok (b, base) → b.fieldRange base off n = .ok b → (isRel f.ord = true → b.cg.sideLog = []) →
    heapStore f true n (fieldEas base off) (fun th => storeData f (os.getD 0 (.const 0)) b.cg th) b = .ok u →
    Completes (.hstr f) s (u.modCg (fun g => g.putRefs (hIdx f.addr) base))) ∧
  (∀ l, s.barAll l = .ok (t, base) → t.mem = s.mem ∧ t.groups = s.groups ∧ t.wgs = s.wgs ∧ (∀ e ∈ l, ∃ r, s.barOne e.r = .good r ∧ (e.t, r) ∈ base)))

/-- R130, R265: HPIN raises the PIN of each reference's page and gives its address and a true predicate, or 0 and false where PIN is full or the object
is not among those that move from a page that does; HUNPIN lowers the PIN of the page of each address. R265: HTNULL tests for null as the register
stands, HTEQ compares addresses behind the barrier, HMOV moves references between reference registers, from 64-bit sources that are null or well formed,
and to vector pairs. The model's choices: log 38. -/
def Obligations.HeapPinsTestsMoves : Prop :=
(∀ (f : FmtM) (s t u : State) (os : List Opnd) (d : Fin 192) (refs : List (Nat × Word64)) (pg : Nat → Option (Xlat × Nat)),
  let ts := threads (s.gmask f.g)
  let take (a : State × List (Nat × Word64 × Bool)) (e : Nat × Word64) : State × List (Nat × Word64 × Bool) := match pg e.1 with
    | some (x, addr) =>
      let w := a.1.rd x.pa 8
      if w % 2 ^ 12 = 4095 then (a.1, a.2 ++ [(e.1, 0, false)]) else (a.1.putWord x (w + 1), a.2 ++ [(e.1, n64 addr, true)])
    | none => (a.1, a.2 ++ [(e.1, 0, false)])
  let r := refs.foldl take (t, [])
  (s.CanIssue (.hpin f) → f.vd = .v d → s.rangeCheck f.vd 2 = .ok s → s.barAll (s.refsOf (hIdx f.addr) false ts) = .ok (t, refs) →
    (∀ e ∈ refs, t.pinOne 16 e.2 = (match pg e.1 with
      | some (x, addr) => .page x addr
      | none => .no)) → t.cg.sideLog = [] → t.cg.inflight 0 < 63 →
    Completes (.hpin f) s ((r.1.writePred (f.off.toNat % 8) (s.gmask f.g) (r.2.map (fun e => (e.1, e.2.2)))).modCg (fun g =>
      (g.putV d.val true (r.2.map (fun e => (e.1, e.2.1)))).fly { path := 0, kind := .load }))) ∧
  (s.CanIssue (.hunpin f) → s.prepAll (.hunpin f) ts [baseSrc f true] = .ok (t, os) →
    let eas := eaList t.cg (os.getD 0 (.const 0)) (baseSrc f true) (f.off.signExtend 64) ts
    t.addressCheck .global eas 1 false true = .ok t → t.cg.sideLog = [] → t.cg.inflight 1 < 63 →
    (ts = [] → Completes (.hunpin f) s (t.modCg (fun g => g.fly { path := 1, kind := .store }))) ∧
    (∀ pw : Nat → Xlat, (∀ e ∈ eas, t.onManaged e.ea.toNat = .ok (pw e.t) ∧ (pw e.t).mg = true ∧ t.wordStop e.ea.toNat (pw e.t) true = none) →
      foldE (fun (a : State) (e : Ea) => if a.rd (pw e.t).pw 8 % 2 ^ 12 = 0 then trapThr t cHeapPin e.ea e.t
        else .ok (a.putWord (pw e.t).word (a.rd (pw e.t).pw 8 - 1))) t eas = .ok u →
      Completes (.hunpin f) s (u.modCg (fun g => g.fly { path := 1, kind := .store })))) ∧
  (∀ (x : Xlat) (v : Nat), SMap.wf 0 s.mem = true → v < 2 ^ 64 → x.word.pa = x.pw ∧ (s.putWord x.word v).rd x.pw 8 = v ∧
    ∀ a, a < x.pw ∨ x.pw + 8 ≤ a → (s.putWord x.word v).rd8 a = s.rd8 a)) ∧
(∀ (f : FmtM) (s t u v : State) (os : List Opnd) (a b : List (Nat × Word64)),
  let m := s.gmask f.g
  let ts := threads m
  let p := f.off.toNat % 8
  (s.CanIssue (.htnull f) → Completes (.htnull f) s (s.writePred p m (ts.map (fun th => (th, decide (s.cg.href (f.addr.enc % 16) th = 0)))))) ∧
  (s.CanIssue (.hteq f) → (∃ all, s.barAll ((ts.map (fun th => [(⟨th, s.cg.href (hIdx f.vd) th, false⟩ : Ref), ⟨th, s.cg.href (hIdx f.addr) th, false⟩])).flatten) = .ok (t, all)) →
    t.barAll (t.refsOf (hIdx f.vd) false ts) = .ok (v, a) → v.barAll (v.refsOf (hIdx f.addr) false ts) = .ok (u, b) →
    Completes (.hteq f) s ((u.modCg (fun g => (g.putRefs (hIdx f.vd) a).putRefs (hIdx f.addr) b)).writePred p m
      (ts.map (fun th => (th, decide ((thrOf a th).toNat % 2 ^ 57 = (thrOf b th).toNat % 2 ^ 57)))))) ∧
  (s.CanIssue (.hmovRef f) → Completes (.hmovRef f) s (s.modCg (fun g => g.putRefs (f.vd.enc % 16) (ts.map (fun th => (th, s.cg.href (f.addr.enc % 16) th)))))) ∧
  (s.CanIssue (.hmovToRef f) → s.prepAll (.hmovToRef f) ts [⟨1, f.addr, .n64⟩] = .ok (t, os) →
    let vals := ts.map (fun th => (th, n64 ((os.getD 0 (.const 0)).read t.cg .n64 th)))
    (∀ e ∈ vals, e.2 = 0 ∨ e.2.toNat / 2 ^ 57 % 2 ^ 4 = 0 ∧ e.2.toNat % 8 = 0) → Completes (.hmovToRef f) s (t.modCg (fun g => g.putRefs (hIdx f.vd) vals))) ∧
  (s.CanIssue (.hmovFromRef f) → s.rangeCheck f.vd 2 = .ok s → s.writeDst f.vd true (ts.map (fun th => (th, s.cg.href (hIdx f.addr) th))) = .ok u →
    Completes (.hmovFromRef f) s u))

/-- R136, R267 to R270: APXB opens a true execution where the region has no record, has a surrogate in FALLBACK, or one in OBSERVE or at its sampled
execution, whose inputs it records; a surrogate in SERVE answers for the fragment; APXE closes the execution and gives a recorded one to the surrogate,
which while it trains only counts what it drops; APXINV takes a region's surrogates away; APXSTAT gives the status word of R137. R135: the end of a
training step: the weights of that surrogate take the gradient sums, rounded and saturated, and the sums are cleared. The model's choices: log 39. -/
def Obligations.ApproximableRegions : Prop :=
((∀ (f : FmtP) (s : State) (r : Region) (k : Kite),
  let i := Instr.apxb f
  let id := f.aux.toNat % 16
  let nin := f.sc.enc % 8 + 1
  let nout := f.aux.toNat / 16 % 4 + 1
  let m := s.gmask f.g
  let opened (t : State) (sampled record : Bool) (a : ApxOpen) (u : State) : Prop :=
    Completes i s u ∧ u = t.modCg (fun g => { g with apx := some a }) ∧ a.region = id ∧ a.sampled = sampled ∧ a.record = record ∧ a.mask = m ∧
    a.joins = s.cg.pendingIds ∧ (record = true → ∀ th ∈ threads m, ∀ j, j < nin → SMap.get 0 a.inputs (8 * th + j) = s.cg.vreg (f.sa.enc + j) th)
  s.CanIssue i → s.rangeCheck f.sa nin = .ok s → s.rangeCheck f.sb nout = .ok s →
  (s.region? id = none → ∃ a u, opened s false false a u) ∧
  (s.region? id = some r → s.kite? id = some k → k.isSaved = false → k.training = false →
    (k.nin ≠ nin ∨ k.nout ≠ nout → ∃ a u, opened s false false a u) ∧
    (k.nin = nin → k.nout = nout →
      (k.state = .fallback → ∃ a u, opened s false false a u) ∧
      (k.state = .observe → ∃ a u, opened s false true a u) ∧
      (k.state = .serve → k.scnt = k.samplen - 1 → ∃ a u, opened (s.modKite k (fun k => { k with scnt := 0 })) true true a u) ∧
      (k.state = .serve → k.scnt ≠ k.samplen - 1 → MovesTo i s (((s.modKite k (fun k => { k with scnt := k.scnt + 1 })).countCtx k.ctx 2).holdIssuer
        (.serve id ((threads m).map (fun th => ((k.serve ((List.range nin).map (fun j => s.cg.vreg (f.sa.enc + j) th))).zipIdx).map (fun e =>
          (32 * (f.sb.enc + e.2) + th, e.1)))).flatten (offsetFrom s.curHdr (f.skip.toNat : Int)))))))) ∧
(∀ (f : FmtP) (s : State) (a : ApxOpen) (k : Kite),
  let i := Instr.apxe f
  let nout := f.aux.toNat / 16 % 4 + 1
  let closed := s.modCg (fun g => { g with apx := none })
  let sample (th : Nat) : List Word32 × List Word32 :=
    ((List.range k.nin).map (fun j => SMap.get 0 a.inputs (8 * th + j)), (List.range k.nout).map (fun j => s.cg.vreg (f.sb.enc + j) th))
  let samples := (threads (s.gmask f.g &&& a.mask)).map sample
  s.CanIssue i →
  (s.cg.apx = none → Completes i s s) ∧
  (s.cg.apx = some a → a.region ≠ f.aux.toNat % 16 ∨ (∃ j ∈ s.cg.pendingIds, j ∉ a.joins) →
    exec i s = .next (s.takeTrap s.cur.gid s.cur.fid cApx s.instrAddr none false false none)) ∧
  (s.cg.apx = some a → a.region = f.aux.toNat % 16 → (∀ j ∈ s.cg.pendingIds, j ∈ a.joins) → s.rangeCheck f.sb nout = .ok s →
    (a.record = false → Completes i s closed) ∧
    (a.record = true → ∀ r, s.region? a.region = some r → s.kite? a.region = some k → k.isSaved = false → k.training = false →
      (a.sampled = false → k.state = .observe → Completes i s (closed.modKite k (fun k => k.observe samples))) ∧
      (a.sampled = true → k.state = .serve → Completes i s (closed.modKite k (fun k => k.compare samples)))) ∧
    (a.record = true → ∀ r, s.region? a.region = some r → s.kite? a.region = some k → k.isSaved = false → k.training = true →
      Completes i s (closed.modKite k (fun k => { k with drops := min 63 (k.drops + samples.length) }))))) ∧
(∀ (f : FmtV) (s t : State) (os : List Opnd),
  let id := (valueAt os 0).toNat
  (s.CanIssue (.apxinv f) → s.prepAll (.apxinv f) [0] [⟨1, f.sa, .n64⟩] = .ok (t, os) → id < 16 →
    ∃ u, Completes (.apxinv f) s u ∧ u.kites = t.kites.filter (fun k => !(k.ctx == t.cw.ctx && k.id == id)) ∧ u.groups = t.groups ∧ u.mem = t.mem) ∧
  (s.CanIssue (.apxstat f) → s.prepAll (.apxstat f) [0] [⟨1, f.sa, .n64⟩] = .ok (t, os) → id < 16 → ∀ d, f.vd = .s d →
    (t.region? id = none ∨ t.kite? id = none → Completes (.apxstat f) s (t.setS d.val 0)) ∧
    (∀ k, (t.region? id).isSome = true → t.kite? id = some k → k.isSaved = false →
      Completes (.apxstat f) s (t.setS d.val (n64 ((match k.state with
        | .invalid => 0
        | .observe => 1
        | .serve => 2
        | .fallback => 3) * 2 ^ 62 + min k.drops 63 * 2 ^ 56 + k.batches * 2 ^ 48 + k.scnt * 2 ^ 40 + k.est.toNat))))))) ∧
(∀ (s : State) (die cluster ctx id : Nat),
  MovesTo (.kiteTrainingEnd die cluster ctx id) s { s with kites := s.kites.map (fun k =>
    if k.die = die ∧ k.cluster = cluster ∧ k.ctx = ctx ∧ k.id = id ∧ k.training = true then { k.apply with training := false } else k) } ∧
  ∀ (k : Kite) (i : Nat), k.apply.grads = [] ∧ (i < 484 → k.apply.wt i =
    max (-32768) (min 32767 (k.wt i - (k.gr i + (2 ^ (k.shift - 1) : Nat)) / (2 ^ k.shift : Nat)))))

/-- R51, R52, R82, R83, R102, R105, R108, R242, R314: events of a group: a ready fragment that has not issued for 65,536 ticks is marked to issue next;
the oldest operation of a path lands, and that path's counter alone goes down by one; the oldest matrix operation ends; an assist writes its tile; the
oldest entry of the side log is written to its line. The model's choices: log 3, 4, 47. -/
def Obligations.GroupEvents : Prop := ∀ (s : State) (gid : Nat) (g : Group), s.group? gid = some g →
  let lands (i : Instr) (path : Nat) : Prop := ∃ u, MovesTo i s u ∧ (u.group gid).inflight path = g.inflight path - 1 ∧
    (∀ p, p ≠ path → (u.group gid).inflight p = g.inflight p) ∧ u.mem = s.mem
  let oldest (path : Nat) (kind : FlightKind) (x : Flight) : Prop := g.flights.find? (fun x => x.path == path) = some x ∧ x.kind = kind
  (∀ fid f, g.frag? fid = some f → g.tlevel ≤ f.level → f.wait.external = false → 65536 ≤ (s.clock - f.last).toNat →
    ∃ u, MovesTo (.issueAgingExpiry gid fid) s u ∧ (u.group gid).frag fid = { f with aged := true } ∧ u.mem = s.mem) ∧
  (∀ path x, oldest path .load x → lands (.loadReturn gid path) path) ∧
  (∀ path x, oldest path .store x → (∀ l ∈ x.lines, s.lineWaits l = false) → lands (.storePerformed gid path) path) ∧
  (∀ x, oldest 3 .copy x → g.matrix = [] → lands (.accCopyComplete gid) 3) ∧
  (∀ m l, g.matrix = m :: l → m.assist = none →
    (m.poison = none → ∃ u, MovesTo (.matrixOpComplete gid) s u ∧ u.group? gid = some { g with matrix := l } ∧ u.mem = s.mem) ∧
    (∀ v, m.poison = some v → ∃ u, MovesTo (.matrixOpComplete gid) s u ∧ u.group? gid = some ({ g with matrix := l }.raise cPoison v) ∧ u.mem = s.mem)) ∧
  (∀ m words, g.matrix.find? (fun m => m.assist.isSome) = some m → m.assist = some words →
    ∃ u, MovesTo (.dmmaAssistDone gid) s u ∧ (u.group gid).acc = (g.putAcc words).acc ∧ (∀ x ∈ (u.group gid).matrix, x.assist = none) ∧ u.mem = s.mem) ∧
  (∀ e l x, g.sideLog = e :: l → e.tag = none → s.fate (s.wg g.wid).who (e.line.toNat * 128) true = .ok x → (x.mg = true → s.pin x ≠ 0) →
    s.lineBusy x 128 true = false →
    ∃ u, MovesTo (.sideLogReplay gid) s u ∧ (u.group gid).sideLog = l ∧
      (e.op = 0 → u.mem = (s.replayStore (s.wg g.wid).who x e).mem ∧
        (x.dirty = none → SMap.wf 0 s.mem = true → ∀ b, e.bytes = [b] → u.rd8 (x.pa + b.1) = b.2 ∧ ∀ a, a ≠ x.pa + b.1 → u.rd8 a = s.rd8 a)) ∧
      (e.op ≠ 0 → u.mem = (s.replayRed gid (s.wg g.wid).who x e).mem)) ∧
  (∀ f id words target, g.frags.find? Frag.served = some f → f.wait = .serve id words target →
    ∃ u, MovesTo (.kiteServeDone gid) s u ∧ (u.group gid).vregs = words.foldl (fun m e => SMap.set 0 m e.1 e.2) g.vregs ∧
      ((u.group gid).frag f.fid).hdr = target ∧ ((u.group gid).frag f.fid).widx = 0 ∧ ((u.group gid).frag f.fid).wait = .none ∧ u.mem = s.mem) ∧
  (∀ w, let x := g.streams.getD w {}
    let els := (List.range 32).map (s.aheadElem g (x.after x.ahead.length))
    (x.bound = true → x.dir = false → (∀ e ∈ els, e.isSome = true) → w < g.streams.length →
      ∃ u, MovesTo (.streamFetchAhead gid w) s u ∧ (u.group gid).streams = g.streams.set w { x with ahead := x.ahead ++ [els.filterMap id] } ∧ u.mem = s.mem) ∧
    ((∃ e ∈ els, e = none) → MovesTo (.streamFetchAhead gid w) s s))

/-- R54, R78, R229, R231, R232, R234: a command first registers on its object; a copy lands whole 8-byte units of one row with their poison marks; a
fill appends a table to the sparsity queue of its group, in order, while there is room; after each landing the object takes the bytes, and the command
ends with the last. R56, R57: a tile of a subscription moves once its slot's object allows it: inbound from memory to the ring slot with the full object
registered and landed, outbound from the ring slot to memory with an arrival on the empty object; the last outbound tile ends the subscription. R127,
R128: a relocation engine visits the slots of its table, claims a FREE entry, copies its object and goes on; with the table's last object copied it
arrives on its object; an assisted copy that ends lets the fragment issue again. The model's choices: log 42, 45. -/
def Obligations.EngineEvents : Prop :=
(∀ (s t v w : State) (id off n : Nat) (c : Cmd) (bytes : List (Byte × Bool)),
  s.cmd? id = some c → c.fault = none →
  let a := s.cmdWho c
  let base := (c.dst.plus (((off / c.rbytes : Nat) : Int) * c.dpitch.toInt)).num
  let row (p : Where) (pitch : BitVec 32) : Where := p.plus (((off / c.rbytes : Nat) : Int) * pitch.toInt + ((off % c.rbytes : Nat) : Int))
  (c.registered = false → s.registerObj a c.wid c.object = .ok t → MovesTo (.asyncLand id off n) s (t.modCmd id (fun c => { c with registered := true }))) ∧
  (c.registered = true → c.kind = .copy ∨ c.kind = .twin → (∀ g k o, c.dst ≠ .twin g k o) → 0 < n → n ≤ rangeRest c.todo off → off % c.rbytes + n ≤ c.rbytes →
    (base + off % c.rbytes) % 8 = 0 ∨ off % c.rbytes = 0 → (base + off % c.rbytes + n) % 8 = 0 ∨ off % c.rbytes + n = c.rbytes →
    s.engRead a c.wid (row c.src c.spitch) n = .ok (t, bytes) → t.engCheck a c.wid (row c.dst c.dpitch) n = .ok v → v.objReach a c.wid c.object = .ok w →
    w.lastReady c (cutRange off n c.todo) = .ok w →
    MovesTo (.asyncLand id off n) s ((w.engWrite a c.wid (row c.dst c.dpitch) bytes).landed c n (cutRange off n c.todo))) ∧
  (c.registered = true → c.kind = .chain → (∀ g k o, c.dst ≠ .twin g k o) → s.landChain c = .ok t → MovesTo (.asyncLand id off n) s t) ∧
  (∀ g i left l, c.registered = true → c.kind = .fill → (∀ g k o, c.dst ≠ .twin g k o) → c.todo = (i, left) :: l → s.group? c.gid = some g → g.spq.length < 16 →
    (s.cmds.find? (fun d => d.kind == .fill && d.gid == c.gid)).map (·.id) = some c.id →
    s.engRead a c.wid (c.src.plus ((256 * i : Nat) : Int)) 256 = .ok (t, bytes) → (∀ b ∈ bytes, b.2 = false) → t.objReach a c.wid c.object = .ok w →
    MovesTo (.asyncLand id off n) s ((w.modGroup c.gid (fun g => { g with spq := g.spq ++ [bytes.map Prod.fst] })).landed c 256
      (if left = 1 then [] else [(i + 1, left - 1)]))) ∧
  (∀ cause, c.registered = true → c.kind = .chain → (∀ g k o, c.dst ≠ .twin g k o) → s.landChain c = .error (.stop cause) →
    MovesTo (.asyncLand id off n) s (s.stopCmd c cause))) ∧
(∀ (s t : State) (wid idx o p : Nat) (b : Sub),
  let a := s.subWho wid b
  let next (u : State) : State := u.modSub wid idx (fun b => { b with next := b.next + 1 })
  s.sub? wid idx = some b → b.fault = none → (s.wg wid).ending = false → (s.wg wid).stopping = false → b.next < b.tcount →
  s.objReach a wid (some b.full) = .ok s → s.objReach a wid (some b.empty) = .ok s → s.objRead a wid b.full = .ok o → s.objRead a wid b.empty = .ok p →
  (b.outbound = false → p % 2 = b.next / b.slots % 2 → o / 2 ^ 16 % 2 ^ 16 ≠ 65535 → s.tileCopy a wid b b.memRow b.winRow = .ok t →
    MovesTo (.streamerTileInbound wid idx) s (next ((t.objPut a wid b.full .register).landObj a wid (some b.full) (b.trows * b.tbytes) 0 true))) ∧
  (b.outbound = true → o % 2 = (b.next / b.slots + 1) % 2 → s.tileCopy a wid b b.winRow b.memRow = .ok t →
    (b.next + 1 < b.tcount → MovesTo (.streamerTileOutbound wid idx) s (next (t.landObj a wid (some b.empty) 0 1 false))) ∧
    (b.next + 1 = b.tcount → MovesTo (.streamerTileOutbound wid idx) s ((next (t.landObj a wid (some b.empty) 0 1 false)).dropSub wid idx))) ∧
  (b.outbound = false → p % 2 ≠ b.next / b.slots % 2 → MovesTo (.streamerTileInbound wid idx) s s) ∧
  (b.outbound = true → o % 2 ≠ (b.next / b.slots + 1) % 2 → MovesTo (.streamerTileOutbound wid idx) s s)) ∧
(∀ (s t v : State) (id : Nat) (c : Cmd) (x k left : Nat) (l : List (Nat × Nat)),
  let a := s.cmdWho c
  (s.cmd? id = some c → c.fault = none → c.kind = .reloc → c.registered = true →
    (c.begun = false → s.engFwd a c.table = .ok (v, x) → MovesTo (.relocEntryClaim id) s (v.modCmd id (fun c => { c with begun := true, todo := [(0, 2 ^ (x / 2 ^ 64 % 2 ^ 4))] }))) ∧
    (c.begun = true → c.slot = none → c.todo = (k, left) :: l → s.engFwd a (c.table + 16 + 16 * k) = .ok (v, x) →
      (x % 4 = 1 → v.claimFwd a (c.table + 16 + 16 * k) c.rbytes = .ok t → v.claimBusy a (c.table + 16 + 16 * k) = none → MovesTo (.relocEntryClaim id) s (t.modCmd id (fun c => { c with slot := some k }))) ∧
      (x % 4 ≠ 1 → MovesTo (.relocEntryClaim id) s (v.modCmd id (fun c => { c with todo := nextSlot c.todo })))) ∧
    (c.slot = some k → s.copyObject a c.table k = .ok t → MovesTo (.relocCopyDone id) s (t.modCmd id (fun c => { c with slot := none, todo := nextSlot c.todo }))) ∧
    (c.begun = true → c.slot = none → c.todo = [] → s.engFwd a c.table = .ok (v, x) → x / 2 ^ 32 % 2 ^ 32 = x % 2 ^ 32 → v.objReach a c.wid c.object = .ok t →
      MovesTo (.relocTableDone id) s ((t.landObj a c.wid c.object 0 1 true).endCmd c))) ∧
  (∀ g f table slot, s.group? id = some g → g.frags.find? Frag.copies = some f → f.wait = .copying table slot none →
    s.copyObject (s.wg g.wid).who table slot = .ok t →
    MovesTo (.assistedCopyDone id) s (t.modGroup id (fun g => g.modFrag f.fid (fun f => { f with wait := .none }))).settleKills))

/-- R60, R360, R361, R378, R381: acknowledgements, grants and responses: the last acknowledgement makes the requester the owner and gives those that
came meanwhile their turn; a remote line is granted in state M; a back-invalidation drops both halves of a line and answers for both; a snoop takes the
line away or leaves it shared; a response leaves its agent out of the entry, with an M holder's data in memory; a filter entry that is evicted has every
holder back-invalidated; a recall ends with an entry rebuilt. R361, R362, R368, R369, R371, R374, R380: accesses from outside: a CXL.mem access to
memory of a CB7-L that no coherent extent covers, or whose line nothing holds up, and a Cerlink peer's access, are performed and answered; one that must
wait has the other holders back-invalidated; a peer's write that the world map refuses is not performed. The model's choices: log 13, 23, 56. -/
def Obligations.CoherenceExpansion : Prop :=
(∀ (s : State) (line : Nat),
  let e := s.dirEntry line
  let q := s.snoopEntry line
  let own (h : Nat) : Option (List Byte) := if SMap.get none s.remote (h / 2) = some true then some (s.rdN (64 * h) 64) else none
  let turns (d : DirEntry) : DirEntry := e.waiting.foldl (fun d r => d.request r.1 r.2) d
  (s.fitting = .l → (s.evictFilter line).mem = s.mem ∧ ∀ a, (a ∈ q.sharers ∨ q.owner = some a) → a ∈ ((s.evictFilter line).snoopEntry line).awaited) ∧
  (∀ c, c ∈ e.acks → s.late = [] → let rest := e.acks.filter (· ≠ c)
    ∃ u, MovesTo (.coarseInvalidationAck line c) s u ∧ u.mem = s.mem ∧ (∀ x ∈ u.l1, x.line = line → x.cluster ≠ c) ∧
      u.dirEntry line = (if rest ≠ [] ∨ e.recallAt ≠ none then { e with acks := rest } else turns (match e.requester with
      | some r => { line := line, dstate := 2, owner := some r }
      | none => { line := line }))) ∧
  (s.askedFor line = true → s.late = [] → SMap.wf none s.remote = true →
    ∃ u, MovesTo (.remoteOwnershipGrant line) s u ∧ u.askedFor line = false ∧ SMap.get none u.remote line = some true ∧ u.mem = s.mem) ∧
  (SMap.wf [] s.modified = true → SMap.wf none s.remote = true → s.boot.fatal = none → let l := line / 2
    let gone (i : Instr) : Prop := ∃ u, MovesTo i s u ∧ SMap.get [] u.modified l = [] ∧ SMap.get none u.remote l = none ∧ u.dirEntry l = { line := l } ∧
      (∀ x ∈ u.l1, x.line ≠ l) ∧ l ∉ u.l2 ∧ u.mem = s.mem ∧ u.out = s.out ++ [.snoopReply (2 * l) (own (2 * l)), .snoopReply (2 * l + 1) (own (2 * l + 1))]
    gone (.backInvalidateReceive line) ∧ gone (.cxlCacheSnoop line true) ∧
    (SMap.get none s.remote l = some true → ∃ u, MovesTo (.cxlCacheSnoop line false) s u ∧ SMap.get [] u.modified l = [] ∧
      SMap.get none u.remote l = some false ∧ u.mem = s.mem ∧
      u.out = s.out ++ [.snoopReply (2 * l) (some (s.rdN (64 * (2 * l)) 64)), .snoopReply (2 * l + 1) (some (s.rdN (64 * (2 * l + 1)) 64))])) ∧
  (s.boot.fatal ≠ none → ∀ i, i = Instr.backInvalidateReceive line ∨ i = .cxlCacheSnoop line true ∨ i = .cxlCacheSnoop line false →
    ∃ u, MovesTo i s u ∧ u.out = s.out ++ [.snoopReply (line / 2 * 2) none, .snoopReply (line / 2 * 2 + 1) none]) ∧
  (∀ agent, s.late = [] → let left : SnoopEntry := { q with awaited := q.awaited.filter (· ≠ agent), sharers := q.sharers.filter (· ≠ agent), owner := if q.owner = some agent then none else q.owner }
    (∀ d, d = none ∨ q.owner ≠ some agent → ∃ u, MovesTo (.backInvalidateResponse line agent d) s u ∧ u.snoopEntry line = left ∧ u.mem = s.mem) ∧
    (∀ d p, q.owner = some agent → d.length = 64 → SMap.wf 0 s.mem = true → (∀ b, b < 64 → s.byteRule (64 * line + b) = (0, 0)) →
      ∃ u, MovesTo (.backInvalidateResponse line agent (some (d, p))) s u ∧ u.snoopEntry line = left ∧ u.rdN (64 * line) 64 = d ∧ (p = true → line / 2 ∈ u.poison))) ∧
  (∀ x, e.recallAt = some x → (e.acks = [] → s.late = [] → ∃ u, MovesTo (.recallComplete line false) s u ∧ u.dirEntry line = turns { line := line } ∧ u.mem = s.mem) ∧
    (e.acks ≠ [] → MovesTo (.recallComplete line false) s s) ∧
    (2 ^ 20 ≤ (s.clock - x).toNat → s.late = [] →
      ∃ u, MovesTo (.recallTimeout line) s u ∧ u.dirEntry line = turns { line := line } ∧ line ∈ u.poison ∧ u.mem = s.mem)) ∧
  (∀ x, q.recallAt = some x → (q.awaited = [] → s.late = [] → ∃ u, MovesTo (.recallComplete line true) s u ∧ u.snoopEntry line = { line := line } ∧ u.mem = s.mem) ∧
    (q.awaited ≠ [] → MovesTo (.recallComplete line true) s s))) ∧
(∀ (s : State),
  (∀ (r : CxlReq), s.fitting = .l → r.pa < s.capacity → let h := r.pa / 64
    let answer := OutMsg.cxlReply r.agent (if s.poisoned (64 * h) 64 then none else some (s.outsideRead (64 * h) 64))
    let stored (u : State) : State := if r.poison then (u.outsideStore (64 * h) (r.data.take 64)).poisonLine (h / 2) else u.outsideStore (64 * h) (r.data.take 64)
    (s.extentAt r.pa = none ∨ (∃ x, s.extentAt r.pa = some x ∧ s.extentState x ≠ 3 ∧ s.extentCoh x = false) →
      (r.write = false → MovesTo (.cxlMemRequest r) s (s.emit answer)) ∧
      (r.write = true → MovesTo (.cxlMemRequest r) s ((stored s).emit (.cxlReply r.agent (some []))))) ∧
    (∀ x, s.extentAt r.pa = some x → s.extentState x = 3 → MovesTo (.cxlMemRequest r) s (s.emit (.cxlReply r.agent (if r.write then some [] else none)))) ∧
    (∀ x, s.extentAt r.pa = some x → s.extentState x ≠ 3 → s.extentCoh x = true → s.cxlWaits r = false →
      (r.write = false → r.agent < 16 → r.uncached = false →
        (r.exclusive = false → ∃ u, MovesTo (.cxlMemRequest r) s u ∧ u.out = s.out ++ [answer] ∧ r.agent ∈ (u.snoopEntry h).sharers ∧ u.mem = s.mem) ∧
        (r.exclusive = true → ∃ u, MovesTo (.cxlMemRequest r) s u ∧ u.out = s.out ++ [answer] ∧ (u.snoopEntry h).owner = some r.agent ∧ u.mem = s.mem)) ∧
      (r.write = false → 16 ≤ r.agent ∨ r.uncached = true → MovesTo (.cxlMemRequest r) s (s.emit answer)) ∧
      (r.write = true → ∃ u, MovesTo (.cxlMemRequest r) s u ∧ u.mem = (stored s).mem ∧ u.out = (stored s).out ++ [.cxlReply r.agent (some [])] ∧
        r.agent ∉ (u.snoopEntry h).sharers ∧ (u.snoopEntry h).owner ≠ some r.agent)) ∧
    (∀ x, s.extentAt r.pa = some x → s.extentState x ≠ 3 → s.extentCoh x = true → s.cxlWaits r = true →
      ∃ u, MovesTo (.cxlMemRequest r) s u ∧ (∀ b ∈ s.cxlHolders r h, b ∈ (u.snoopEntry h).awaited) ∧ u.mem = s.mem)) ∧
  (∀ (r : PeerReq), s.cerlink = true → r.off + r.len ≤ s.capacity →
    let page := s.pageWorld physFn r.off
    let foreign := page.1 ≠ r.world ∧ page.2 = false
    let stored := if r.poison then (linesOf r.off r.len).foldl State.poisonLine (s.outsideStore r.off r.data) else s.outsideStore r.off r.data
    (¬foreign ∨ s.worldProtected page.1 = false ∧ (r.write = true → r.prot = false) → r.op = 0 →
      (r.write = false → s.poisoned r.off r.len = false → MovesTo (.cerlinkPeerRequest r) s (s.emit (.peerReply r.peer (some (s.outsideRead r.off r.len))))) ∧
      (r.write = true → MovesTo (.cerlinkPeerRequest r) s (stored.emit (.peerReply r.peer (some []))))) ∧
    (foreign → r.write = true → r.prot = true → MovesTo (.cerlinkPeerRequest r) s (s.emit (.peerReply r.peer none))) ∧
    (¬foreign → r.op ≠ 0 → s.poisoned r.off r.ty.bytes = false → ∀ v, (AtomOp.ofCode r.op).new r.ty (s.rd r.off r.ty.bytes) (leNat r.data) r.cmp = some v →
      MovesTo (.cerlinkPeerRequest r) s ((s.outsideStore r.off (leBytes r.ty.bytes v)).emit (.peerReply r.peer (some (leBytes r.ty.bytes (s.rd r.off r.ty.bytes))))))))

/-- R62, R374 to R378: errors: a line is poisoned, an entry is recalled, a CB7-L goes viral; a CB7-H marks a viral range, and contexts resume; lines
whose only modified copy a dead agent held are poisoned; a lost expander's lines leave the caches. R62: a request from a cluster of another coherence
domain is never performed; its line is poisoned and it is logged. The model's choices: log 43, 44, 47. -/
def Obligations.ErrorsLosses : Prop := ∀ (s : State),
  let uerr := s.count 65 7 1
  let logged (u : State) (unit addr : Nat) : State := { u with errlog := u.errlog ++ [⟨u.clock, unit, 0, addr⟩] }
  (∀ pa, MovesTo (.uncorrectableError (.line pa)) s (logged (uerr.poisonLine (pa / 128)) 0 pa)) ∧
  (∀ line, let e := uerr.dirEntry line
    let waiting := e.requester.toList.map (fun c => (some c, true)) ++ e.waiting
    MovesTo (.uncorrectableError (.directory line)) s
      (logged (uerr.setDir { line := line, recallAt := some s.clock, acks := uerr.recallClusters line, waiting := waiting }) 1 (128 * line))) ∧
  (∀ h, ∃ u, MovesTo (.uncorrectableError (.snoopEntry h)) s u ∧ (u.snoopEntry h).recallAt = some s.clock ∧ (u.snoopEntry h).awaited = List.range 16 ∧
    (u.snoopEntry h).sharers = List.range 16 ∧ u.mem = s.mem) ∧
  (s.fitting = .l → ∀ x, x = .bridge ∨ x = .snoop → ∃ u, MovesTo (.uncorrectableError x) s u ∧ u.viralDevice = true ∧ u.out = s.out ++ [.viral 0] ∧ u.counters = s.counters ∧ u.mem = s.mem) ∧
  (∀ (base pages : Nat) (r : Nat × Nat × Nat × Nat), s.fitting = .h → s.ranges.filter (fun r => decide (r.2.2.1 < base + pages * 65536) && decide (base < r.2.2.1 + r.2.2.2)) = [r] →
    let t := s.wr (r.2.1 + 8) 8 (putFld (s.rd (r.2.1 + 8) 8) 16 1 1)
    MovesTo (.viralEventReceive base pages) s ((t.ctxsOf r.1).foldl (fun u c =>
      ((u.modCtx c (fun c => { c with blocked := true })).dropLogs c (fun pa => paTarget pa != 0)).raiseCtx c cViral (n64 r.2.2.1)) t)) ∧
  (∀ value : Word64, let c := value.toNat % 2 ^ 16
    (∀ i, i < 64 → s.rd (s.rrt (s.ctxFn c) i + 8) 8 / 2 ^ 16 % 2 = 0) → MovesTo (.outresume value) s (s.modCtx c (fun c => { c with blocked := false }))) ∧
  (∀ agent, s.late = [] → ∃ u, MovesTo (.outsideAgentDeath agent) s u ∧ (∀ e ∈ s.snoop, e.owner = some agent → e.line / 2 ∈ u.poison) ∧
    (∀ e ∈ u.snoop, e.owner ≠ some agent ∧ agent ∉ e.sharers ∧ agent ∉ e.awaited) ∧ u.mem = s.mem) ∧
  (∀ (i : Instr) (k : Nat), k < 16 → s.late = [] → i = .expanderLinkDown k ∨ i = .expanderTimeout k ∧ s.expanderLate k = true →
    let on (pa : Nat) : Bool := decide (pa / 2 ^ 50 % 4 = 1) && decide (expanderOf pa = k)
    ∃ u, MovesTo i s u ∧ k ∈ u.lost ∧ (∀ e ∈ u.modified, on (128 * e.1) = false) ∧ (∀ e ∈ u.remote, on (128 * e.1) = false) ∧
      (∀ e ∈ u.dir, on (128 * e.line) = false) ∧ (∀ e ∈ u.l1, on (128 * e.line) = false) ∧ (∀ l ∈ u.l2, on (128 * l) = false) ∧
      (∀ e ∈ u.asked, on (128 * e.1) = false)) ∧
  (∀ port : Nat, port < 4 → s.late = [] → ∃ u, MovesTo (.expanderLinkDown (16 + port)) s u ∧ ∀ n < 4, 4 * port + n ∈ u.lost) ∧
  (∀ k : Nat, s.expanderLate k = false → MovesTo (.expanderTimeout k) s s) ∧
  (∀ (a : Who) (x : Xlat) (va : Nat) (w : Bool) (y : Xlat), paTarget x.pa < 2 → s.rejects a x = true → s.fateAt a x va w ≠ .ok y) ∧
  (∀ (a : Who) (x : Xlat) (va : Nat), s.translate a.fn a.ctx (va % 2 ^ 57) .read a.place = .ok x → s.fateAt a x va false = .reject →
    (s.rejectTaken a va).mem = s.mem ∧ x.pa / 128 ∈ (s.rejectTaken a va).poison ∧ (s.rejectTaken a va).errlog = s.errlog ++ [⟨s.clock, 6, 0, x.pa⟩])

/-- R302 to R305, R313, R325: a doorbell write moves TAIL forward, stops an overrun queue, and is counted where no queue is; a LAUNCH command at HEAD is
taken up or fails its checks, ORDER and KILL take effect; a malformed command stops its queue; DOMKILL kills a domain. The model's choices: log 14,
20, 50. -/
def Obligations.LaunchQueues : Prop := ∀ (s : State) (ctx q : Nat),
  let l := s.lq ctx q
  (∀ (fn : Nat) (v : Word64), s.running = true → v.toNat / 2 ^ 32 % 2 ^ 16 = ctx → v.toNat / 2 ^ 60 = q →
    let new := v.toNat % 2 ^ 32
    let ahead (b : Nat) : Nat := (new + 2 ^ 32 - b) % 2 ^ 32
    ((s.ctx? ctx = none ∨ s.ctxFn ctx ≠ fn ∨ s.nlq ctx ≤ q) → MovesTo (.doorbell fn v) s (s.count fn 2 1)) ∧
    ((s.ctx? ctx).isSome = true → s.ctxFn ctx = fn → q < s.nlq ctx →
      (l.qerr ≠ 0 → MovesTo (.doorbell fn v) s s) ∧
      (l.qerr = 0 → (ctx, q) ∉ s.stopped →
        (ahead l.tail = 0 ∨ 2 ^ 31 ≤ ahead l.tail → MovesTo (.doorbell fn v) s s) ∧
        (0 < ahead l.tail → ahead l.tail < 2 ^ 31 → ahead l.head ≤ 2 ^ l.logn → MovesTo (.doorbell fn v) s (s.wr (l.addr + 16) 4 new)) ∧
        (0 < ahead l.tail → ahead l.tail < 2 ^ 31 → 2 ^ l.logn < ahead l.head → MovesTo (.doorbell fn v) s (s.stopQueue ctx q 1))))) ∧
  (∀ d0 d1, s.command ctx q = some (d0, d1) →
    let t := s.wr (l.addr + 20) 4 (l.head + 1)
    (commandOp d0 d1 = some 1 → ∀ fail, t.launchFail ctx d1 = fail →
      (fail ≠ 0 → MovesTo (.launch ctx q) s (t.setRcbState d1 7 fail)) ∧
      (fail = 0 → t.orders = [] → t.rcbD d1 11 / 2 ^ 8 % 2 ^ 8 = 0 → SMap.wf 0 s.mem = true →
        ∃ u, MovesTo (.launch ctx q) s u ∧ d1 ∈ u.candidates ∧ (ctx, q, d1) ∈ u.queued ∧ u.rcbState d1 = 1)) ∧
    (commandOp d0 d1 = some 2 → MovesTo (.order ctx q) s { t with orders := t.orders.filter (fun e => !(e.1 == ctx && e.2.1 == q)) ++
      [(ctx, q, ((t.queued.filter (fun e => e.1 == ctx && e.2.1 == q)).map (·.2.2)).filter (fun r => !t.launchOver r))] }) ∧
    (commandOp d0 d1 = some 3 → MovesTo (.kill ctx q) s (t.killDomain ctx (d0 % 2 ^ 8) 4 0 0 0 0)) ∧
    (commandOp d0 d1 = none → ∀ i, i = Instr.launch ctx q ∨ i = .order ctx q ∨ i = .kill ctx q → MovesTo i s (t.stopQueue ctx q 2))) ∧
  (∀ (g : Group) (v : Word64), s.group? g.gid = some g → (s.wg g.wid).priv = true →
    MovesTo (.domkill g.gid v) s (s.killDomain (s.wg g.wid).ctx (v.toNat % 2 ^ 8) 5 g.tlevel 0 0 0))

/-- R307 to R313, R326, R329, R331: a scheduling epoch reads the fields again; the next workgroup of a candidate whose turn it is starts on the core that
the scheduler prefers, each group in its partition with 32 threads at ENTRY and ARG in s0, or the launch fails; a chosen victim is marked with its gang,
and the gang is saved whole once all of it has drained, or runs on where its images do not fit; a saved workgroup is restored on a core where it fits,
and kills its domain where its seal does not match. The model's choices: log 10, 51, 52. -/
def Obligations.Placement : Prop := ∀ (s t : State),
  (s.running = true → 4096 ≤ (s.clock - s.lastEpoch).toNat →
    let r := (State.refresh { s with lastEpoch := s.clock }).recheckDeps.growAll
    MovesTo .schedEpoch s (r.ctxs.foldl State.colourStep r).gangEpoch) ∧
  (s.running = false ∨ (s.clock - s.lastEpoch).toNat < 4096 → MovesTo .schedEpoch s s) ∧
  (∀ (rcb : Nat) (places : List Place) (k : Work), s.workOf rcb = some k → s.turn k = true → s.nextWg rcb < s.nwg rcb →
    (s.neverFail k = none → s.tryStart k places = some t → MovesTo (.workgroupStart rcb places) s t) ∧
    (∀ f, s.neverFail k = some f → MovesTo (.workgroupStart rcb places) s (s.rcbEnd rcb 7 f).recheckOrders) ∧
    (∀ p, s.neverFail k = none → k.gang < 2 → s.machPaused k.ctx = false → s.pathRoom rcb (s.freshUnits k) = true →
      s.bestPlace (s.newUnit k s.nextId (s.nextWg rcb) 1) = some p → ∃ u, MovesTo (.workgroupStart rcb places) s u ∧
        (∃ w ∈ u.wgs, w.wid = s.nextId ∧ w.rcb = rcb ∧ w.wgx = s.nextWg rcb ∧ w.ctx = k.ctx ∧ w.place = p ∧ w.winSize = (s.footOf rcb).scrk * 1024) ∧
        ∀ i, i < (s.footOf rcb).ngrp → ∃ g ∈ u.groups, g.wid = s.nextId ∧ g.gidx = i ∧ g.part = (p.p0 + i) % 4)) ∧
  (∀ (ctx rcb wid wgx i : Nat) (f : Wave), let g := s.newGroup ctx rcb wid wgx i f
    g.wid = wid ∧ g.gidx = i ∧ g.sreg 0 = n64 (s.rcbD rcb 10) ∧ (∀ r, r ≠ 0 → g.sreg r = 0) ∧ g.vside = f.vgran ∧ g.mside = f.mgran ∧ g.tiles = f.acct ∧
    g.tlevel = 0 ∧ g.frags = [{ fid := 0, mask := BitVec.allOnes 32, hdr := n64 (s.rcbD rcb 8 % 2 ^ 57) }] ∧
    (let x := BitVec.ofNat 32 (s.rcbD (s.ctxRcb ctx) 8 / 2 ^ 32) ^^^ BitVec.ofNat 32 (wgx * 0x9E3779B9) ^^^ BitVec.ofNat 32 i
     g.srstate = if x = 0 then 1 else x)) ∧
  (∀ (w : Workgroup), s.wg? w.wid = some w → s.running = true → s.doomedWg w = false →
    (w.stopping = true → (∃ v ∈ s.gangOf w, s.drained v.wid = false) → MovesTo (.preemptSave w.wid) s s) ∧
    (w.stopping = true → (∀ v ∈ s.gangOf w, s.drained v.wid = true) →
      (s.poolFits w = true → s.sealable w = true → MovesTo (.preemptSave w.wid) s ((s.gangOf w).foldl (fun u v => u.saveWg v.wid) (s.shiftGang w.rcb w.gang))) ∧
      (s.poolFits w = false ∨ s.sealable w = false → MovesTo (.preemptSave w.wid) s ((s.setStopping w false).count w.fn 3 1)) ∧
      (s.poolFits w = true → s.sealable w = true → w.gangSize < 2 → ∃ u, MovesTo (.preemptSave w.wid) s u ∧ u.wg? w.wid = none ∧
        (∀ g ∈ u.groups, g.wid ≠ w.wid) ∧ ∃ i ∈ u.saved, i.wg.wid = w.wid ∧ i.fn = w.fn ∧ i.groups.length = (s.groupsOf w.wid).length)) ∧
    (w.stopping = false → w.wid ∈ s.chosen → MovesTo (.preemptSave w.wid) s (s.setStopping w true))) ∧
  (∀ (i : Saved) (place : Place) (k : Work), s.saved.find? (fun j => j.id == i.id) = some i → s.workOf i.wg.rcb = some k → s.turn k = true →
    ((∀ j ∈ s.savedUnit i, s.unsealOk j = true) → s.tryRestore i (if 2 ≤ i.wg.gangSize then [] else [place]) = some t →
      MovesTo (.workgroupRestore i.id place) s t) ∧
    ((∃ j ∈ s.savedUnit i, s.unsealOk j = false) → MovesTo (.workgroupRestore i.id place) s (s.killDomain i.wg.ctx k.fdom 6 0 0 0 0)))

/-- R340 to R344, R347: a walk's translation is held from then on; an answer to a posted fault takes its record away and has its accesses tried again or
declared invalid; INVCTL writes are taken up, and an invalidation that is complete leaves nothing of what it covers in a TLB and is counted; MRESUME
clears PAUSED. R348 to R350, R355: the request at HEAD of a context's ring: an APPEND maps pages of the pool or gets the status of its check, a
PROMOTE starts and its copy is committed or discarded; a function-level reset kills the contexts of a virtual function. The model's choices: log 48,
49. -/
def Obligations.FaultsPaging : Prop :=
(∀ (s : State) (fn : Nat),
  (∀ (place : Place) (ctx : Nat) (va : Word64) (acc : Acc), let v := va.toNat % 2 ^ 57
    let f := s.ctxFn ctx
    (∀ x, s.walkBoth f ctx v acc = .ok x → place.die < 4 → 0 < x.leafSize → x.leafSize % 65536 = 0 → x.pa % x.leafSize = v % x.leafSize →
        x.gpa % x.leafSize = v % x.leafSize → (acc = .write → x.w = true) → (acc = .fetch → x.x = true) →
      ∃ u y, MovesTo (.pageWalk ⟨place, ctx⟩ va acc) s u ∧ u.mem = s.mem ∧ u.translate f ctx v acc place = .ok y ∧ y.pa = x.pa ∧ y.sh = x.sh ∧ y.mg = x.mg ∧
        ∃ e ∈ u.tlb, e.ctx = ctx ∧ e.covers v = true ∧ e.leafSize = x.leafSize ∧ (e.at v).pa = x.pa) ∧
    (∀ x, s.walkBoth f ctx v acc = .error x → ∃ u, MovesTo (.pageWalk ⟨place, ctx⟩ va acc) s u ∧ u.mem = s.mem ∧
      ∀ e ∈ u.tlb, ¬(e.ctx = ctx ∧ e.machine = s.machOf f ∧ e.covers v = true ∧ e.seenBy place = true))) ∧
  (∀ (tag : Nat) (r : FaultRec), s.answered fn tag = some r →
    let again := (s.dropRecord r).retryAll r
    (s.worldFails r = false → MovesTo (.retry fn tag) s (again.postWaiting fn again.faults)) ∧
    (s.worldFails r = true → MovesTo (.retry fn tag) s (s.declineRecord r)) ∧
    MovesTo (.decline fn tag) s (s.declineRecord r) ∧
    (∀ (g : Group) (f : Frag) va thr saved, f ∈ g.frags → f.wait = .fault fn tag va thr →
      { f with wait := .none } ∈ (Group.retried r saved g).frags ∧
      { f with wait := .trap cTranslation va thr f.clause.isNone false none } ∈ (Group.declined (fn, tag) g).frags) ∧
    (∀ (g : Group), g.bank1.posted = some (fn, tag) → (Group.retried r true g).bank1.again = some (r.va, r.acc) ∧ (Group.retried r true g).bank1.posted = none)) ∧
  MovesTo (.fqHeadRaise fn) s (s.postWaiting fn s.faults) ∧
  (∀ value : Word64, let pending := { s with invPending := s.invPending ++ [(fn, value, s.barReg fn 0x30)] }
    (value.toNat % 4 = 0 → MovesTo (.invalidatePage fn value) s pending) ∧ (value.toNat % 4 = 1 → MovesTo (.invalidateContext fn value) s pending) ∧
    (value.toNat % 4 = 2 → fn = 64 → MovesTo (.invalidateMachine fn value) s pending) ∧ (fn ≠ 64 → MovesTo (.invalidateMachine fn value) s s)) ∧
  (∀ (e : Nat × Word64 × Word64), s.invPending.find? (fun e => e.1 == fn) = some e → SMap.wf 0 s.invDone = true →
    let v := e.2.1.toNat
    let who := v / 2 ^ 48
    let n := leafBytes (v / 2 ^ 4 % 4)
    let base := e.2.2.toNat / n * n
    ∃ u, MovesTo (.invalidationComplete fn) s u ∧ u.mem = s.mem ∧ u.invPending.length + 1 = s.invPending.length ∧
      SMap.get 0 u.invDone fn = (SMap.get 0 s.invDone fn + 1) &&& 0xFFFFFFFF ∧
      (v % 4 = 0 → ∀ x ∈ u.tlb, x.ctx = who → x.base + x.leafSize ≤ base ∨ base + n ≤ x.base) ∧ (v % 4 = 1 → ∀ x ∈ u.tlb, x.ctx ≠ who) ∧
      (v % 4 = 2 → ∀ x ∈ u.tlb, x.machine = who → x.gpaBase + x.leafSize ≤ base ∨ base + n ≤ x.gpaBase)) ∧
  (∀ value : Word64, let a := s.machBlock (value.toNat % 2 ^ 6) + 24
    s.faults = [] → s.late = [] → MovesTo (.mresume value) s (s.wr a 8 (putFld (s.rd a 8) 0 1 0)))) ∧
(∀ (s : State) (ctx : Nat) (q : PageReq) (c : Ctx),
  let fn := s.ctxFn ctx
  let pages := (List.range q.npg).map (fun i => q.va + 65536 * i)
  s.prqHead ctx = some q → s.ctx? ctx = some c → c.held = none →
    (∀ leaf : Nat → Nat × Nat, q.op = 1 → q.ok = true → (∀ va ∈ pages, s.leafSlot fn ctx va = .ok (some (leaf va)) ∧ s.rd (leaf va).1 8 % 2 = 0) →
      (s.pageStatus fn q.npg = none → (∀ va ∈ pages, s.serviceReady fn ctx (leaf va).2 8 = .ok s) →
        (∀ p ∈ s.poolTop fn q.npg, s.serviceReady fn ctx p 65536 = .ok s) →
        MovesTo (.append ctx) s ((pages.foldl (fun t va => t.appendPage fn (leaf va).1) (s.setUsed fn (s.usedPages fn + q.npg))).prqDone ctx q 1)) ∧
      (s.quota fn < s.usedPages fn + q.npg → MovesTo (.append ctx) s ((s.count fn 5 1).prqDone ctx q 2)) ∧
      (s.usedPages fn + q.npg ≤ s.quota fn → s.poolCount fn < q.npg → MovesTo (.append ctx) s (s.prqDone ctx q 3))) ∧
    (q.op ≠ 1 → q.op ≠ 2 → MovesTo (.append ctx) s (s.prqDone ctx q 4)) ∧ (q.op = 1 → q.ok = false → MovesTo (.append ctx) s (s.prqDone ctx q 4)) ∧
    (q.op = 2 → c.promote = none → s.leafSlot fn ctx q.va = .ok none → MovesTo (.promote ctx) s (s.prqDone ctx q 4)) ∧
    (∀ leaf, q.op = 2 → c.promote = none → s.leafSlot fn ctx q.va = .ok (some leaf) →
      let e := s.rd leaf.1 8
      (q.npg = 1 → q.ok = true → e % 2 = 1 → malformed e 0 true = false →
        (∀ v, s.hintGen ctx q = .ok v → v ≠ q.hgen → MovesTo (.promote ctx) s (s.prqDone ctx q 5)) ∧
        (s.hintGen ctx q = .ok q.hgen → s.pageStatus fn 1 = none → s.serviceReady fn ctx leaf.2 8 = .ok s →
          let t := ((s.poolPop fn).1.setUsed fn ((s.poolPop fn).1.usedPages fn + 1)).wr leaf.1 8 (putFld e 2 1 0)
          MovesTo (.promote ctx) s ((t.dropPage ctx q.va).modCtx ctx (fun c => { c with promote := some ⟨q.va, (s.poolPop fn).2, leaf.1, leaf.2, e⟩ })))) ∧
      (q.npg ≠ 1 ∨ e % 2 = 0 → MovesTo (.promote ctx) s (s.prqDone ctx q 4))) ∧
    (∀ p t v, c.promote = some p → s.pageCopy fn ctx (leafAddr p.was) p.new = .ok t → t.hintGen ctx q = .ok v → t.serviceReady fn ctx p.slot 8 = .ok t →
      let now := t.rd p.leaf 8
      (v = q.hgen → now = putFld p.was 2 1 0 →
        MovesTo (.promoteCopyDone ctx) s (((((t.wr p.leaf 8 (putFld (putFld now 16 36 (p.new / 65536)) 2 1 1)).wr (q.slot + 24) 8
          (leafAddr p.was))).prqDone ctx q 1).serviceEnd ctx p.va)) ∧
      (v ≠ q.hgen ∨ now ≠ putFld p.was 2 1 0 →
        let u := (t.poolPush fn p.new).setUsed fn (t.usedPages fn - 1)
        MovesTo (.promoteCopyDone ctx) s ((((u.wr p.leaf 8 (putFld now 2 1 (p.was / 2 ^ 2 % 2))).count fn 4 1).prqDone ctx q 5).serviceEnd ctx p.va)))) ∧
(∀ (s : State),
  (∀ f, f < 64 → MovesTo (.functionLevelReset f) s ((s.ctxsOf f).foldl State.killContext s)))

/-- R362 to R365, R379, R382: an extent is added, gets its owner, and is released; a scrub that ends leaves its lines zero and unmarked, but for what the
device then writes there itself (the receipt, the event record, the extent's own record), a signed receipt in the buffer and a free record; a tenant's
tail is read, and the packet at HEAD is refused with its status or accepted: status 1, HEAD raised, SEQ remembered, and a launch of its fields that is a
candidate, or that fails with status 9. The model's choices: log 11, 31, 53. -/
def Obligations.ExtentsTasks : Prop := ∀ (s : State) (i : Nat),
  let apart (a n b m : Nat) : Prop := a + n ≤ b ∨ b + m ≤ a
  let r := (s.barReg physFn 0x150).toNat + 32 * i
  let st := s.rd r 8 / 2 ^ 50 % 2 ^ 3
  (s.fitting = .l → i < 2048 → (s.barReg physFn 0x150).toNat ≠ 0 → SMap.wf 0 s.mem = true →
    (∀ (tag : BitVec 128) (dpag : Nat), st = 0 → ∃ u, MovesTo (.dcExtentAdd i tag dpag) s u ∧ u.rd r 8 / 2 ^ 50 % 2 ^ 3 = 1 ∧ u.rd r 8 / 2 ^ 53 % 2 ^ 11 = dpag % 2 ^ 11 ∧
      u.rd r 8 / 2 ^ 49 % 2 = 0 ∧ u.rd (r + 16) 16 = tag.toNat ∧ ∀ a, a < r ∨ r + 32 ≤ a → u.rd8 a = s.rd8 a) ∧
    (∀ tenant : Word64, st = 1 → ∃ u, MovesTo (.tenantWrite i tenant) s u ∧ u.rd r 8 / 2 ^ 50 % 2 ^ 3 = 2 ∧ u.rd (r + 8) 8 = tenant.toNat ∧
      ∀ a, a < r ∨ r + 16 ≤ a → u.rd8 a = s.rd8 a) ∧
    (∀ value : Word64, value.toNat = i → st = 1 ∨ st = 2 → s.tasks = [] → s.ordered = [] → s.modified = [] → s.late = [] →
      ∃ u, MovesTo (.xrel value) s u ∧ u.rd r 8 / 2 ^ 50 % 2 ^ 3 = 3 ∧ (i, s.clock) ∈ u.scrubs ∧ ∀ e ∈ u.snoop, s.lineIn i (e.line / 2) = false)) ∧
  (∀ (clk : Word64) (unverified : List Nat), s.scrubs.find? (fun e => e.1 == i) = some (i, clk) →
    let base := s.extentBase i
    let es := receiptEntries (base / 128) ((base + 2 ^ 30) / 128) (s.cuts i unverified)
    let msg := leBytes 64 (s.extentTag i * 2 ^ 384 + s.extentTenant i * 2 ^ 320 + clk.toNat * 2 ^ 256 + s.clock.toNat * 2 ^ 192 + base * 2 ^ 128 +
      2 ^ 30 * 2 ^ 64 + s.rseq.toNat * 2 ^ 32 + es.length % 2 ^ 32) ++ es.flatten
    let signed := msg ++ leBytes 64 (Config.sm2Sign msg).toNat
    let buf := (s.barReg physFn 0x160).toNat
    let ev := s.fnBlock physFn + 48
    let slot := (s.ring ev).base + 32 * ((s.ring ev).tail % 2 ^ (s.ring ev).logn)
    ∃ u, MovesTo (.extentScrubDone i unverified) s u ∧ u.rseq = s.rseq + 1 ∧ (∀ e ∈ u.scrubs, e.1 ≠ i) ∧
      (∀ l ∈ unverified, s.lineIn i l = true → l / 512 ∈ u.retired) ∧ OutMsg.extentReleased i ∈ u.out ∧ OutMsg.report msg (Config.sm2Sign msg) ∈ u.out ∧
      (∀ l, s.lineIn i l = true → s.retired.contains (l / 512) = false → l ∉ u.poison) ∧
      (SMap.wf 0 s.mem = true → u.rd r 8 / 2 ^ 50 % 2 ^ 3 = 0 ∧ u.rd r 8 / 2 ^ 49 % 2 = 0) ∧
      (SMap.wf 0 s.mem = true → s.heldEvents = [] → apart ev 16 buf signed.length → apart ev 16 base (2 ^ 30) →
        (∀ k, s.lineIn i (k / 128) = true → s.retired.contains (k / 128 / 512) = false → apart k 1 buf signed.length → apart k 1 slot 32 → apart k 1 r 8 →
          u.rd8 k = 0) ∧
        (apart buf signed.length slot 32 → apart buf signed.length r 8 → u.rdN buf signed.length = signed))) ∧
  (s.tenantValid i = true →
    (∀ pa, s.tenantAt i (s.tenantRing i) 16 false = .ok pa → MovesTo (.taskRingPoll i) s { s with taskTails := SMap.set 0 s.taskTails i (BitVec.ofNat 32 (s.ring pa).tail) }) ∧
    (∀ ring slot, s.running = true → s.tenantAt i (s.tenantRing i) 16 true = .ok ring → (s.ring ring).head ≠ (SMap.get 0 s.taskTails i).toNat → 4 ≤ (s.ring ring).logn →
      let va := ((s.ring ring).base + 4096 * ((s.ring ring).head % 2 ^ (s.ring ring).logn)) % 2 ^ 57
      s.tenantAt i va 4096 true = .ok slot → let b := s.rdN slot 4096
      s.tabHold i b = none →
      (∀ status, s.packetCheck i b = .error status → let t := s.homeWrite (slot + 4088) (leBytes 8 status)
        MovesTo (.taskPacket i) s (t.homeWrite (ring + 12) (leBytes 4 ((t.ring ring).head + 1)))) ∧
      (∀ j entry image a, s.packetCheck i b = .ok (j, entry, image) → s.waveSlot (s.tenantCtx j) = some a →
        MovesTo (.taskPacket i) s (s.startTask j ring slot va entry image a (packetAt b)) ∧
        (let p := packetAt b
        let ctx := s.tenantCtx j
        let last := s.tenantRec j + 24
        let task : Task := { rcb := a, tenant := p.tenant, slot := slot, tags := p.tags.take p.next }
        let w : State := { ((s.slotDone ring slot 1).wr last 8 p.seq).wrN a ((s.taskRcb ctx entry image (va + 176) p).map (leBytes 8)).flatten with
          tasks := s.tasks ++ [task] }
        let u := s.startTask j ring slot va entry image a p
        SMap.wf 0 s.mem = true → apart (slot + 4088) 8 (ring + 12) 4 → apart (slot + 4088) 8 last 8 → apart (slot + 4088) 8 a 128 →
        apart (ring + 12) 4 last 8 → apart (ring + 12) 4 a 128 → apart last 8 a 128 → (∀ x ∈ s.tasks, x.rcb ≠ a) →
        u.rd (ring + 12) 4 = ((s.ring ring).head + 1) % 2 ^ 32 ∧ u.rd last 8 = p.seq ∧ u.rcbD a 1 = s.ctxRcb ctx % 2 ^ 64 ∧ u.rcbD a 8 = entry % 2 ^ 64 ∧
        u.rcbD a 9 = image % 2 ^ 64 ∧ u.rcbD a 10 = va + 176 ∧ u.rcbD a 11 = p.nwg * 2 ^ 32 ∧ u.rcbD a 12 = p.cword ∧
        (w.launchFail ctx a = 0 → u.rd (slot + 4088) 8 = 1 ∧ u.rcbD a 0 = 3 * 2 ^ 60 + 2 ^ 56 + 2 ^ 53 ∧ task ∈ u.tasks ∧ a ∈ u.candidates ∧ a ∈ u.reached ∧
          ∃ k ∈ u.work, k.rcb = a ∧ k.ctx = ctx) ∧
        (w.launchFail ctx a ≠ 0 → w.snoopBusy (slot + 4088) 8 true = false →
          u.rd (slot + 4088) 8 = 9 ∧ u.rcbD a 0 = 3 * 2 ^ 60 + 7 * 2 ^ 56 + 2 ^ 53 + w.launchFail ctx a ∧ ∀ x ∈ u.tasks, x.rcb ≠ a)))))

/-- R372, R373: an engine takes a well-formed descriptor at HEAD of a context's collective queue, whose members are on the roster: HEAD goes up by one
and the collective is in progress with its result; with the end DST is written and BOBJ takes one arrival; the loss of a member sets ERR. The model's
choices: log 2, 32, 53. -/
def Obligations.Collectives : Prop := ∀ (s r t v w : State) (ctx : Nat),
  let a := s.ctxWho ctx
  (∀ (i : Instr) (others : List (List Byte)) (root : List Byte) (x : Xlat) (h : QHeader) (va : Nat) (bs ms own : List (Byte × Bool)) (res : List Byte),
    s.collHead ctx = .ok (r, x, h, va) → r.engRead a 0 (.glob (n64 (va % 2 ^ 57))) 64 = .ok (v, bs) → va / 2 ^ 57 % 2 ^ 7 = 0 →
    let c := collDesc (leNat (bs.map Prod.fst))
    c.ok = true → v.engRead a 0 (.glob (n64 c.members)) (2 * c.nmem) = .ok (w, ms) →
    (∀ m, m < c.nmem → m ≠ c.rank → leNat (((ms.map Prod.fst).drop (2 * m)).take 2) < 4096 ∧ w.onRoster ctx (leNat (((ms.map Prod.fst).drop (2 * m)).take 2)) = true) →
    w.engRead a 0 (.glob (n64 c.src)) c.bytes = .ok (t, own) →
    (i = .allreduce ctx others ∧ c.op = 1 ∧ others.length + 1 = c.nmem ∧ (∀ b ∈ others, b.length = c.bytes) ∧
        res = c.reduce (others.take c.rank ++ [own.map Prod.fst] ++ others.drop c.rank) ∨
      i = .broadcast ctx root ∧ c.op = 2 ∧ (c.rank = 0 ∧ res = own.map Prod.fst ∨ c.rank ≠ 0 ∧ root.length = c.bytes ∧ res = root)) →
    ∃ u z, MovesTo i s u ∧ u.collectives = s.collectives ++ [z] ∧ z.ctx = ctx ∧ z.dst = n64 c.dst ∧ z.bobj = n64 c.bobj ∧
      z.result = res.map (fun b => (b, own.any Prod.snd)) ∧ u.out = t.out ++ [.collective (n64 c.ctag) (own.map Prod.fst)] ∧ u.mem = (t.performWrite a x (leBytes 8 ((h.head + 1) % 2 ^ 64))).mem) ∧
  (∀ (c : Collective), s.coll? c.id = some c → let a := s.ctxWho c.ctx
    (s.engCheck a 0 (.glob c.dst) c.result.length = .ok v → v.engReady a 0 (.glob c.bobj, 16) = .ok t →
      MovesTo (.collectiveDone c.id) s (((t.engWrite a 0 (.glob c.dst) c.result).landObj a 0 (some (.glob c.bobj)) 0 1 false).dropColl c.id)) ∧
    (∀ f, s.engCheck a 0 (.glob c.dst) c.result.length = .error f → MovesTo (.collectiveMemberLoss c.id) s ((s.objPut a 0 (.glob c.bobj) (.setErr false)).dropColl c.id)) ∧
    (s.engCheck a 0 (.glob c.dst) c.result.length = .ok v → ∃ bytes, bytes.length = c.result.length ∧
      MovesTo (.collectiveMemberLoss c.id) s (((v.engWrite a 0 (.glob c.dst) bytes).objPut a 0 (.glob c.bobj) (.setErr false)).dropColl c.id)))

/-- R388 to R393: what an interval draws: never more than the last draw and RAMP, nor, in an emergency or from a draw near it, more than PCAP; a first
rise under a live Tether is delayed by its slots, at the level of the last draw; outside an emergency, where work and Ballast together can, never less
than the last draw less RAMP, nor than the floor that RAMP and PCAP admit; Ballast burns only what work leaves below that; an emergency turns Ballast
off, and power off turns everything off. PWRCTL's fields stay in their ranges and are the limits of the intervals after the one in which it is written.
R391, R394, R395: emergencies begin and end; a Tether is sent under the next sequence number, taken once and sent on with one hop less; it lapses with
its lifetime, and a delay that has run out ends. The model's choices: log 41, 54. -/
def Obligations.PowerEvents : Prop :=
(∀ (s : State) (demand filler : Nat),
  let d := s.drawOf demand filler
  (SMap.wf 0 s.bar = true → ∃ u, MovesTo (.powerInterval demand filler) s u ∧ u.power.hist = ((d.1 + d.2) :: s.power.hist).take 20000 ∧ u.power.ballast = d.2 ∧
    u.power.left = s.power.left - 1 ∧ u.power.limits = s.barReg physFn 0x200 ∧ u.mem = s.mem ∧ u.groups = s.groups ∧ u.barReg physFn 0x208 =
      n64 ((d.1 + d.2) % 2 ^ 16 * 2 ^ 48 + (((d.1 + d.2) :: s.power.hist).take 20000).sum / 20000 % 2 ^ 16 * 2 ^ 32 + s.floorNow % 2 ^ 16 * 2 ^ 16 + d.2 % 2 ^ 16)) ∧
  d.1 ≤ demand ∧ d.2 ≤ filler ∧ (s.power.isOff = true → d = (0, 0)) ∧ (s.emergency = true → d.2 = 0) ∧ d.1 + d.2 ≤ s.lastDraw + s.ramp ∧
  (s.emergency = true ∨ s.lastDraw ≤ s.pcap + s.ramp → d.1 + d.2 ≤ s.pcap) ∧
  (s.emergency = false → s.drawLow ≤ demand + filler → s.lastDraw ≤ d.1 + d.2 + s.ramp ∧
    min s.floorNow (min (s.lastDraw + s.ramp) s.pcap) ≤ d.1 + d.2) ∧
  (s.delayNow demand = none → d.2 ≠ 0 → d.1 + d.2 ≤ s.drawLow) ∧
  (∀ x, s.power.tether = some x → 0 < s.power.left → s.power.delay = none → s.power.used = false → 0 < s.power.slot * x.slotw → s.emergency = false →
    0 < s.power.ballast ∨ s.lastDraw ≤ s.drawLow → max s.drawLow s.lastDraw < demand → s.delayNow demand = some (s.power.slot * x.slotw) ∧
      d.1 + d.2 ≤ max s.drawLow (min s.lastDraw s.drawHigh)) ∧
  (SMap.wf 0 s.bar = true → ∀ v : Word64, ∃ u, MovesTo (.pwrctl v) s u ∧ u.power = s.power ∧ u.mem = s.mem ∧ let w := (u.barReg physFn 0x200).toNat
    w % 2 = v.toNat % 2 ∧ w / 2 ^ 24 % 2 ^ 6 = max 2 (min 40 (v.toNat / 2 ^ 24 % 2 ^ 6)) ∧ w / 2 ^ 32 % 2 ^ 8 = min 90 (v.toNat / 2 ^ 32 % 2 ^ 8) ∧
    w / 2 ^ 48 = (if s.fitting = .h then max 1000 (min 3200 (v.toNat / 2 ^ 48)) else max 300 (min 1000 (v.toNat / 2 ^ 48))))) ∧
(∀ (s : State),
  let e := s.count 65 1 1
  MovesTo .thermalTrip s { e with power := { s.power with thermal := true } } ∧ MovesTo .railOvercurrent s { e with power := { s.power with overcurrent := true } } ∧
  MovesTo .powerOffRequest s { e with power := { s.power with isOff := true } } ∧ MovesTo .thermalTripClear s { s with power := { s.power with thermal := false } } ∧
  MovesTo .overcurrentClear s { s with power := { s.power with overcurrent := false } } ∧
  (∀ v : Word64, let slotw := v.toNat / 2 ^ 52
    let life := v.toNat / 2 ^ 36 % 2 ^ 8
    (s.cerlink = true → slotw ≠ 0 → life ≠ 0 → ∃ u, MovesTo (.tethertx v) s u ∧ u.power.txSeq = s.power.txSeq + 1 ∧ u.mem = s.mem ∧
      u.out = s.out ++ (List.range 32).map (fun p => .tether p ⟨slotw, v.toNat / 2 ^ 44 % 2 ^ 8, life, s.peerId.toNat, s.power.txSeq + 1, 8⟩)) ∧
    (slotw = 0 ∨ life = 0 → MovesTo (.tethertx v) s s)) ∧
  (∀ (m : Tether) (port : Nat), s.cerlink = true → (m.sender, m.seq) ∉ s.power.taken →
    ∃ u, MovesTo (.tetherReceive m port) s u ∧ (m.sender, m.seq) ∈ u.power.taken ∧ u.power.tether = some m ∧ u.power.left = 1000 * m.life ∧
      u.power.slot = s.peerId.toNat % (m.ngrp + 1) ∧ u.mem = s.mem ∧
      u.out = s.out ++ (if m.hops = 0 then [] else ((List.range 32).filter (· ≠ port)).map (fun p => .tether p { m with hops := m.hops - 1 }))) ∧
  (∀ (m : Tether) (port : Nat), (m.sender, m.seq) ∈ s.power.taken → MovesTo (.tetherReceive m port) s s) ∧
  (s.power.left = 0 → SMap.wf 0 s.bar = true → ∃ u, MovesTo .tetherLapse s u ∧ u.power = { s.power with tether := none } ∧ u.barReg physFn 0x220 = 0 ∧ u.mem = s.mem) ∧
  (s.power.delay = some 0 → MovesTo .tetherDelayEnd s { s with power := { s.power with delay := none } }))

/-- R6, R391, R396 to R402: a cold reset starts anew, counts the start, and leaves nothing resident, no device memory and PWRCTL at its reset value; a
start that fails is counted, and a third failure in a row leads to minimal mode; a fatal error holds the device, in which no move of a group or Mule
does anything; its dump, measurements, certificates and replies go out; plain registers keep what is written. The model's choices: log 6, 11, 43, 54,
55. -/
def Obligations.StartupManagement : Prop := ∀ (s : State),
  (∀ reached, 7 ≤ reached → ∃ u, MovesTo (.coldReset reached none) s u ∧ u.boot.stage = 7 ∧ u.boot.mode = (if s.boot.fails = 3 then 1 else 0) ∧
    (s.boot.fails ≠ 3 → u.boot.fails = 0) ∧ u.boot.starts = (if s.boot.starts = BitVec.allOnes 32 then s.boot.starts else s.boot.starts + 1) ∧
    u.groups = [] ∧ u.wgs = [] ∧ u.cmds = [] ∧ u.tlb = [] ∧ u.clock = 0 ∧ (∀ a, paTarget a = 0 → u.rd8 a = 0) ∧ (∀ a, paTarget a ≠ 0 → u.rd8 a = s.rd8 a) ∧
    u.barReg physFn 0x200 = (if s.fitting = .h then 0x0C8000460A000001 else 0x03E800460A000001)) ∧
  (∀ reached error, reached < 7 → ∃ u, MovesTo (.coldReset reached (some error)) s u ∧ u.boot.stage = reached ∧
    u.boot.reason = (if error = 8 then 8 else reached + 1) ∧ u.boot.lastStage = reached ∧ u.running = false ∧ (s.boot.fails ≠ 3 → u.boot.fails = min 3 (s.boot.fails + 1)) ∧ (s.boot.fails = 3 → u.boot.mode = 3)) ∧
  (s.boot.stage < 7 → s.boot.starts ≠ 0 → s.boot.minimal = false → s.boot.ended = false → 30 * 1400000000 ≤ s.clock.toNat →
    ∃ u, MovesTo .startWatchdogExpiry s u ∧ u.boot.reason = 9 ∧ u.boot.lastStage = s.boot.stage ∧ u.boot.fails = min 3 (s.boot.fails + 1) ∧
      MovesTo .startWatchdogExpiry u u) ∧
  (∀ v : Word64, (v.toNat % 2 ^ 16 = 0xB007 → MovesTo (.bootclr v) s (s.setBoot { s.boot with fails := 0 })) ∧ (v.toNat % 2 ^ 16 ≠ 0xB007 → MovesTo (.bootclr v) s s)) ∧
  MovesTo .firmwareUpdate s (s.setBoot { s.boot with fails := 0, firmware := s.boot.firmware + 1 }) ∧
  (∀ cause, s.boot.fatal = none → ∃ u, MovesTo (.fatalError cause) s u ∧ u.boot.fatal = some (s.errlog.length, s.clock) ∧ u.boot.mode = s.boot.mode ∧ u.running = false ∧ u.mem = s.mem) ∧
  (s.running = false → ∀ gid fid order, runMove s (.issue gid fid order) = .next s ∧ runMove s (.mule gid) = .next s) ∧
  (∀ x, s.boot.fatal = some x → s.boot.dumped = false → ∃ u, MovesTo .dumpComplete s u ∧ u.boot.dumped = true ∧ u.boot.mode = 2 ∧ u.boot.minimal = s.boot.minimal ∧ OutMsg.msix physFn 1 ∈ u.out ∧
    (s.barReg physFn 0x298 = 0 → u.boot.onchip = s.dump (4 * 2 ^ 20) true)) ∧
  (∀ nonce, ∃ blocks, MovesTo (.getMeasurements nonce) s (s.emit (.report blocks (Config.sm2Sign (nonce ++ blocks))))) ∧
  MovesTo .certificateRequest s (s.emit (.management (Config.certificates 0))) ∧ (∀ x, MovesTo (.spdmRequest x) s
    ({ s with spdm := s.spdm ++ [x] }.emit (.management (Config.spdmReply s.spdm s.boot.firmware x)))) ∧
  (∀ (fn off : Nat) (v : Word64),
    (fn ≤ 64 → off = 0x20 ∨ off = 0x28 → MovesTo (.registerWrite fn off v) s (s.setBar fn off (v >>> 12 <<< 12))) ∧
    (fn ≤ 64 → off = 0x30 → MovesTo (.registerWrite fn off v) s (s.setBar fn off (v >>> 16 <<< 16))) ∧
    (fn = 64 → off = 0x290 ∨ off = 0x298 → MovesTo (.registerWrite fn off v) s (s.setBar fn off (v >>> 12 <<< 12))) ∧
    (fn = 64 → off = 0x100 ∨ off = 0x108 ∨ off = 0x118 ∨ off = 0x128 ∨ off = 0x130 ∨ off = 0x148 ∨ off = 0x150 ∨ off = 0x160 ∨ off = 0x2A0 ∨ off = 0x2A8 → MovesTo (.registerWrite fn off v) s (s.setBar fn off v)))

/-- R139 to R142, R146, R147: a clause whose header, role, word or privilege check fails traps at its header, and nothing of it issues. R205, R315: a
misaligned address of a load or store traps before anything is read or written: the lowest such thread's address is the trap value. The model's
choices: log 18. -/
def Obligations.FetchAlignmentTraps : Prop :=
(∀ (s : State) (h : Nat) (words : List Nat),
  s.hasFetcher = true → s.cur.mule = false → s.cf.widx = 0 → s.cf.atRecon = false → s.cg.pending = [] → s.cg.good = s.ctxGood s.cw.ctx →
  s.fetchClause s.cw.who s.cf.hdr = .ok (h, words) →
  let d := decodeClause h words s.cg.role s.cw.priv s.cg.tlevel
  let traps (code : Nat) (tval : Word64) : Prop := exec .clauseFetch s =
    .next ((s.noteFetch s.cw.who s.cf.hdr.toNat (words.length + 1)).takeTrap s.cur.gid s.cur.fid code tval none true false none)
  (d = .error .header → traps cIllegal s.cf.hdr) ∧ (d = .error .role → traps cRole s.cf.hdr) ∧
  (∀ k, d = .error (.word k) → traps cIllegal (s.cf.hdr + n64 (4 * (k + 1)))) ∧ (∀ k, d = .error (.priv k) → traps cPriv (s.cf.hdr + n64 (4 * (k + 1)))) ∧
  (decodeHeader h = none → d = .error .header) ∧
  (∀ x, decodeHeader h = some x → litOccurrences (words.take x.count) (x.count - x.litn) 16 0 = x.litn → s.cg.role.allows x.cls = false → d = .error .role)) ∧
(∀ (f : FmtM) (s t : State) (os : List Opnd) (e : Ea) (i : Instr) (m : Mode) (wide : Bool),
  i = .ld f ∧ m = .generic ∧ wide = true ∨ i = .ldg f ∧ m = .global ∧ wide = true ∨ i = .lds f ∧ m = .window ∧ wide = false →
  s.CanIssue i → s.rangeCheck f.vd (accessRegs f) = .ok s → s.prepAll i (threads (s.gmask f.g)) [baseSrc f wide] = .ok (t, os) →
  t.cg.inflight (if wide then 0 else 2) < 63 → t.cur.mule = false →
  let l := formedEas s t f wide (f.off.signExtend 64) (os.getD 0 (.const 0))
  (∀ x ∈ l, (∃ a, placeOf m x.ea = some (.glob a)) ∨ ∃ o, placeOf m x.ea = some (.win o) ∧ o < t.cw.winSize) →
  l.find? (fun x => x.ea.toNat % accessBytes f ≠ 0) = some e →
  exec i s = .next (t.takeTrap t.cur.gid t.cur.fid cMisaligned e.ea (some e.t) false false none)) ∧
(∀ (f : FmtM) (s t : State) (os : List Opnd) (e : Ea) (i : Instr) (m : Mode) (wide : Bool),
  i = .st f ∧ m = .generic ∧ wide = true ∨ i = .stg f ∧ m = .global ∧ wide = true ∨ i = .sts f ∧ m = .window ∧ wide = false →
  s.CanIssue i → s.rangeCheck f.vd (accessRegs f) = .ok s → s.prepAll i (threads (s.gmask f.g)) [⟨0, f.vd, f.ty⟩, baseSrc f wide] = .ok (t, os) →
  (isRel f.ord = true → t.cg.sideLog = []) → t.cur.mule = false →
  let l := formedEas s t f wide (f.off.signExtend 64) (os.getD 1 (.const 0))
  (∀ x ∈ l, (∃ a, placeOf m x.ea = some (.glob a)) ∨ ∃ o, placeOf m x.ea = some (.win o) ∧ o < t.cw.winSize ∧ t.cw.readOnly o = false) →
  l.find? (fun x => x.ea.toNat % accessBytes f ≠ 0) = some e →
  exec i s = .next (t.takeTrap t.cur.gid t.cur.fid cMisaligned e.ea (some e.t) false false none))

/-- R146, R147, R149: a step takes the next move from the agenda. Where that is a fragment or Mule that may issue, it runs the instruction that the
words of its clause hold at its position, or the fetch of the clause, with the time of the fragment's issue noted; where it is an event that may happen,
it runs the event; a trap that waits to be taken is taken; pages whose world the step changes have other keys from then on. Every instruction of a
decoded clause is well formed. The model's choices: log 1, 8, 60. -/
def Obligations.StepRunsDecoded : Prop := ∀ (s : State) (l : List Move),
  let t : State := { s.tick with agenda := l }
  (t.clock = s.clock + ticks s.freeCtr ∧ t.freeCtr = s.freeCtr + 1 ∧ t.mem = s.mem ∧ t.groups = s.groups ∧ t.wgs = s.wgs) ∧
  let runs (r : Host.Outcome State Fault Refusal) : Prop := step s = (match r with
    | .next v => .next (t.rekeyed v)
    | r => r)
  (∀ v : State, (∀ p, (v.pageWorld physFn (65536 * p)).1 = (t.pageWorld physFn (65536 * p)).1) → t.rekeyed v = v) ∧
  (∀ (gid fid : Nat) (order : List Nat) (g : Group) (f : Frag), s.agenda = .issue gid fid order :: l → s.running = true →
    s.group? gid = some g → g.frag? fid = some f → g.canIssue f = true → t.parked g f = false → t.mustYield g f = false →
    let u := t.noteChoice gid fid
    (u.mem = t.mem ∧ u.wgs = t.wgs ∧ u.clock = t.clock ∧ (t.heldStill g f = true → u = t) ∧ (t.heldStill g f = false →
      u.groups = (t.modGroup gid (fun g => g.modFrag fid (fun f => { f with last := t.clock, turn := t.freeCtr, aged := false }))).groups) ∧
      (f.wait = .none → t.heldStill g f = false)) ∧
    (∀ code tval thr atHdr deferred posted, f.wait = .trap code tval thr atHdr deferred posted →
      runs (.next (t.takeTrap gid fid code tval thr atHdr deferred posted))) ∧
    ((∀ code tval thr atHdr deferred posted, f.wait ≠ .trap code tval thr atHdr deferred posted) →
      (f.clause = none → runs (exec .clauseFetch { u with cur := ⟨gid, fid, false, [], order⟩ })) ∧
      (∀ c i lits, f.clause = some c → c.instrAt f.widx = .ok (i, lits) → runs (exec i { u with cur := ⟨gid, fid, false, lits, order⟩ })))) ∧
  (∀ (gid : Nat) (g : Group) (m : Mule), s.agenda = .mule gid :: l → s.running = true → s.group? gid = some g → g.mule = some m →
    m.ended = false → m.fault = none → (s.wg g.wid).stopping = false → s.doomedWg (s.wg g.wid) = false →
    (t.readyList false).all (fun r => !t.owed r.ctx (s.wg g.wid).ctx) = true →
    let u := t.noteMule gid
    (∀ i lits, (u i lits).mem = t.mem ∧ (u i lits).groups = t.groups ∧ (u i lits).wgs = t.wgs) ∧
    (m.clause = none → runs (exec .clauseFetch { u .clauseFetch [] with cur := ⟨gid, 0, true, [], []⟩ })) ∧
    (∀ c i lits, m.clause = some c → c.instrAt m.widx = .ok (i, lits) → runs (exec i { u i lits with cur := ⟨gid, 0, true, lits, []⟩ }))) ∧
  (∀ i, s.agenda = .event i :: l → s.eventOk i = true → runs (exec i t)) ∧
  (∀ (h : Nat) (words : List Nat) (role : Role) (priv : Bool) (level k : Nat) (c : Clause), decodeClause h words role priv level = .ok c →
    startsAt c.words k 16 0 = true → k < c.nIns →
    ∃ i lits, c.instrAt k = .ok (i, lits) ∧ decodeWords (c.words.getD k 0) (c.words.getD (k + 1) 0) = .ok i ∧ i.wf = true ∧ i.litsOk lits = true)

/-- R150 to R171, R178: words of the spec's worked encodings decode to the instructions that they stand for: an addition of a literal, a comparison, a
fused multiply-add, a guarded branch, a matrix operation, a store, a heap load, a chained copy, the start of an approximable region, a wait and a
scalar move. -/
def Obligations.WorkedEncodingsDecode : Prop := decodeWords 0x201C8008 0x08FC0000 = .ok (.iadd ⟨⟨false, 7⟩, .i32, .rne, false, .v 8, .v 8, .lit, .v 0, 0⟩) ∧
  decodeWords 0x301C8000 0x00FD0011 = .ok (.icmp ⟨⟨false, 7⟩, .i32, .rne, false, .v 0, .v 0, .zero, .v 0, 0x11⟩) ∧
  decodeWords 0x28CA4006 0x01C30600 = .ok (.ffma ⟨⟨false, 2⟩, .f32, .rne, false, .v 6, .v 1, .s 3, .v 6, 0⟩) ∧
  decodeWords 0xA004000D 0x00001D00 = .ok (.bra ⟨⟨false, 1⟩, 13, 29, 0⟩) ∧
  decodeWords 0x801D4003 0x00628000 = .ok (.mma ⟨⟨false, 7⟩, 1, false, true, 3, 0, 6, 10⟩) ∧
  decodeWords 0x645DC0C8 0xEF000060 = .ok (.stg ⟨⟨false, 7⟩, .n64, .rlx, .grp, .s 8, .s 47, 0, 0x60⟩) ∧
  decodeWords 0xC01C1A02 0x01200008 = .ok (.hldField ⟨⟨false, 7⟩, .i8, .acq, .dev, .v 2, .v 1, 1, 8⟩) ∧
  decodeWords 0x904853F0 0 = .ok (.cpych ⟨some 8, some 20, none⟩) ∧
  decodeWords 0xC41C000C 0x08140103 = .ok (.apxb ⟨⟨false, 7⟩, 12, .v 8, .v 20, .v 1, 3⟩) ∧
  decodeWords 0xA51FF002 0 = .ok (.wait ⟨⟨false, 7⟩, none, some 0, 2⟩) ∧ decodeWords 0x0C0AFC00 0 = .ok (.smov ⟨.s 10, .lit, .v 0⟩)

/-- R150 to R160, R171: decoding what a well-formed instruction encodes to gives it back, whatever follows its words, and words that decode to a
well-formed instruction are the ones that it encodes to: no bit of a word is dropped. -/
def Obligations.EncodeDecodeAgree : Prop := ∀ (i : Instr),
  (i.wf = true → encode i ≠ [] → (∀ w ∈ encode i, w < 2 ^ 32) ∧ (encode i).length = instrWords ((encode i).getD 0 0) ∧
    ∀ x, decodeWords ((encode i).getD 0 0) ((encode i).getD 1 x) = .ok i) ∧
  (∀ w0 w1, w0 < 2 ^ 32 → w1 < 2 ^ 32 → decodeWords w0 w1 = .ok i → i.wf = true →
    encode i = if instrWords w0 = 2 then [w0, w1] else [w0])

/-- R357: every step keeps the canonical form of memory: addresses rise strictly and no listed byte is zero. The model's choices: log 5. -/
def Obligations.MemoryFormKept : Prop := ∀ (s t : State), Memory.wf s.mem → step s = .next t → Memory.wf t.mem

/-- R19, R249, R316, R318: every step keeps the form that statements about states presume: registers of groups and of the device in canonical form,
fragment numbers below the next one, and a trap level of 0, 1 or 2. The model's choices: log 6. -/
def Obligations.CanonicalKept : Prop := ∀ (s t : State), s.Canonical → step s = .next t → t.Canonical

/-- R196, R389, R396: the state after reset: CLOCK is 0, PWRCTL holds its reset value, no start-up stage has run, so nothing runs; and the forms that
every step keeps hold. Empty memory and the empty lists are the model's choice (log 6). -/
def Obligations.ResetState : Prop := State.reset.clock = 0 ∧ State.reset.barReg physFn 0x200 = 0x0C8000460A000001 ∧ State.reset.boot.stage = 0 ∧ State.reset.running = false ∧
  State.reset.mem = [] ∧ State.reset.groups = [] ∧ State.reset.wgs = [] ∧ State.reset.Canonical

/-- R19, R114, R161, R162, R173, R243, R244, R249: what an instruction that completes with a register or a predicate written leaves as it was. Completing
moves the issuer's position, streams and queues that the instruction names, and nothing else; making operands ready changes no memory and no register;
a vector destination changes VD of the threads written, a scalar one SD, a predicate its own bits of the threads written; a discarded result changes
nothing. -/
def Obligations.RegisterFrames : Prop := ∀ (s t u z : State) (i : Instr) (ts : List Nat) (srcs : List Src) (os : List Opnd),
  (Completes i s u → exec i s = .next z →
    z = { u with groups := z.groups } ∧ (∀ gid, gid ≠ u.cur.gid → z.group? gid = u.group? gid) ∧
    z.cg = { u.cg with frags := z.cg.frags, streams := z.cg.streams, queues := z.cg.queues, mule := z.cg.mule } ∧
    (∀ fid, fid ≠ u.cur.fid → z.cg.frag? fid = u.cg.frag? fid) ∧
    (∀ k, (∀ x : Fin 8, x.val = k → Sel.w x ∉ operandSels i) → z.stream k = u.stream k) ∧
    (∀ k, (∀ x : Fin 4, x.val = k → Sel.q x ∉ operandSels i) → z.queue k = u.queue k) ∧
    z.cm.sregs = u.cm.sregs ∧ z.cm.preds = u.cm.preds ∧ (u.cur.mule = false → z.cg.mule = u.cg.mule)) ∧
  (s.prepAll i ts srcs = .ok (t, os) →
    t.mem = s.mem ∧ t.cur = s.cur ∧ t.cg = { s.cg with flights := t.cg.flights, pending := t.cg.pending } ∧
    (∀ gid, gid ≠ s.cur.gid → t.group? gid = s.group? gid) ∧ ((∀ x ∈ srcs, ∀ k, x.sel ≠ .w k) → t = s)) ∧
  (∀ (vd : Sel) (is64 : Bool) (vals : List (Nat × Word64)), (∀ k, vd ≠ .w k) → (∀ e ∈ vals, e.1 < 32) → t.writeDst vd is64 vals = .ok u →
    u = { t with groups := u.groups } ∧ (∀ gid, gid ≠ t.cur.gid → u.group? gid = t.group? gid) ∧ u.cg = { t.cg with vregs := u.cg.vregs } ∧
    ((∀ d, vd ≠ .v d) → u = t) ∧
    ∀ r th, th < 32 → (∀ d, vd = .v d → (∃ e ∈ vals, e.1 = th) → r ≠ d.val ∧ (is64 = true → r ≠ d.val + 1)) → u.cg.vreg r th = t.cg.vreg r th) ∧
  (∀ (d : UDst) (x : Word64), t.writeSD d x = .ok u →
    (d = .discard → u = t) ∧
    (∀ r, d = .s r → u = { t with groups := u.groups } ∧ (∀ gid, gid ≠ t.cur.gid → u.group? gid = t.group? gid) ∧
      (t.cur.mule = false → u.cg = { t.cg with sregs := u.cg.sregs }) ∧ (t.cur.mule = true → u.cg = { t.cg with mule := u.cg.mule }) ∧
      ∀ k, k ≠ r.val → u.sreg k = t.sreg k) ∧
    (∀ q, d = .q q → u = { t with groups := u.groups } ∧ u.cg = { t.cg with queues := u.cg.queues } ∧ ∀ k, k ≠ q.val → u.queue k = t.queue k)) ∧
  (∀ (p : Nat) (m : BitVec 32) (vals : List (Nat × Bool)),
    let v := t.writePred p m vals
    v = { t with groups := v.groups } ∧ (∀ gid, gid ≠ t.cur.gid → v.group? gid = t.group? gid) ∧ v.cg = { t.cg with preds := v.cg.preds } ∧
    (p = 7 → v.cg.preds = t.cg.preds) ∧ (∀ k, k ≠ p → v.cg.pred k = t.cg.pred k) ∧
    ∀ th, th < 32 → m.getLsbD th = false → (v.cg.pred p).getLsbD th = (t.cg.pred p).getLsbD th)

/-- R51, R64, R204, R206, R211, R214, R219: what accesses leave as it was. Loaded data goes to VD of the loading threads alone. Where every thread's
place can be written, a store instruction is its threads' stores one after the other, with one operation counted; each changes the bytes at its own
address, which is read off the state it acts on, and no other byte of memory or of a window; so does each thread's operation of an atomic. No register
changes by a store. The model's choices: log 3. -/
def Obligations.MemoryFrames : Prop := ∀ (s : State),
  let global (m : Mode) (ea : Word64) : Option Fate := match placeOf m ea with
    | some (.glob a) => some (s.fate s.cw.who a.toNat true)
    | _ => none
  (∀ (f : FmtM) (vs : List (Nat × List Byte)), (∀ e ∈ vs, e.1 < 32) →
    let u := s.putLoads f vs
    u = { s with groups := u.groups } ∧ (∀ gid, gid ≠ s.cur.gid → u.group? gid = s.group? gid) ∧ u.cg = { s.cg with vregs := u.cg.vregs } ∧
    ((∀ d, f.vd ≠ .v d) → u = s) ∧
    ∀ r th, th < 32 → (∀ d, f.vd = .v d → (∃ e ∈ vs, e.1 = th) → r < d.val ∨ d.val + accessRegs f ≤ r) → u.cg.vreg r th = s.cg.vreg r th) ∧
  (∀ (m : Mode) (n scope path : Nat) (clear pinned mayLog : Bool) (l : List St),
    (∀ x ∈ l, x.t < 32 ∧ x.data.length = n ∧ s.Writable m n x.ea) → (l.map (fun x => x.t)).Nodup → s.cg.inflight path < 63 → s.cg.sideLog = [] →
    ∃ (v : State) (x : Flight), x.path = path ∧ x.kind = .store ∧ v.mem = s.mem ∧ v.groups = s.groups ∧ (∀ wid o, (v.wg wid).winByte o = (s.wg wid).winByte o) ∧
      s.storeThreads m n scope path clear pinned mayLog l =
        .ok ((l.foldl (fun a x => a.storeOne m clear x (global m x.ea)) v).modCg (fun g => g.fly x))) ∧
  (∀ (m : Mode) (clear : Bool) (x : St),
    (∀ a, placeOf m x.ea = some (.glob a) → ∃ y, s.fate s.cw.who a.toNat true = .ok y ∧ y.dirty = none) →
    let u := s.storeOne m clear x (global m x.ea)
    u.groups = s.groups ∧
    (∀ a, (∀ pa, (s.storeAt m x.ea).1 = some pa → a < pa ∨ pa + x.data.length ≤ a) → u.rd8 a = s.rd8 a) ∧
    (∀ wid o, (∀ p, wid = s.cg.wid → (s.storeAt m x.ea).2 = some p → o < p ∨ p + x.data.length ≤ o) → (u.wg wid).winByte o = (s.wg wid).winByte o)) ∧
  (∀ (op : AtomOp) (ty : Ty) (x : AtomArg),
    (∀ a, placeOf .generic x.ea = some (.glob a) → ∃ y, s.fate s.cw.who a.toNat true = .ok y ∧ y.dirty = none) →
    let u := (s.atomOne op ty x (global .generic x.ea)).1
    u.groups = s.groups ∧
    (∀ a, (∀ pa, (s.storeAt .generic x.ea).1 = some pa → a < pa ∨ pa + ty.bytes ≤ a) → u.rd8 a = s.rd8 a) ∧
    (∀ wid o, (∀ p, wid = s.cg.wid → (s.storeAt .generic x.ea).2 = some p → o < p ∨ p + ty.bytes ≤ o) → (u.wg wid).winByte o = (s.wg wid).winByte o))
end

