-- ==== Sys2Proof/Laws/Memory.lean ====
section
/-! SUPPORT. Sparse maps and memory: what a read finds after a write, and that every memory operation keeps the canonical
form. -/

namespace Sys2Proof

variable {α : Type} {d : α}

theorem SMap.get_erase_ne (m : SMap α) {a k : Nat} (h : k ≠ a) : SMap.get d (SMap.erase m a) k = SMap.get d m k := by
  induction m with
  | nil => rfl
  | cons e m ih =>
    obtain ⟨j, v⟩ := e
    by_cases hj : j = a
    · subst hj; simp [SMap.erase, SMap.get, Ne.symm h]
    · simp only [SMap.erase, hj, if_false, SMap.get, ih]

theorem SMap.get_insert_ne (m : SMap α) (x : α) {a k : Nat} (h : k ≠ a) : SMap.get d (SMap.insert m a x) k = SMap.get d m k := by
  induction m with
  | nil => simp [SMap.insert, SMap.get, Ne.symm h]
  | cons e m ih =>
    obtain ⟨j, v⟩ := e
    simp only [SMap.insert]
    split
    · simp [SMap.get, Ne.symm h]
    · split
      · next hj => subst hj; simp [SMap.get, Ne.symm h]
      · simp only [SMap.get, ih]

theorem SMap.get_insert_same (m : SMap α) (a : Nat) (x : α) : SMap.get d (SMap.insert m a x) a = x := by
  induction m with
  | nil => simp [SMap.insert, SMap.get]
  | cons e m ih =>
    obtain ⟨j, v⟩ := e
    simp only [SMap.insert]
    split
    · simp [SMap.get]
    · split
      · simp [SMap.get]
      · next hj => simp only [SMap.get, hj, if_false, ih]

variable [DecidableEq α]

theorem SMap.wfFrom_mono {m : SMap α} {a b : Nat} (h : a ≤ b) (hw : SMap.wfFrom d b m = true) : SMap.wfFrom d a m = true := by
  cases m with
  | nil => rfl
  | cons e m =>
    obtain ⟨k, v⟩ := e
    simp only [SMap.wfFrom, Bool.and_eq_true, decide_eq_true_eq] at hw ⊢
    exact ⟨⟨Nat.le_trans h hw.1.1, hw.1.2⟩, hw.2⟩

/-- A key below all keys of a map is not listed. -/
theorem SMap.get_below {m : SMap α} {lo a : Nat} (hw : SMap.wfFrom d lo m = true) (h : a < lo) : SMap.get d m a = d := by
  induction m generalizing lo with
  | nil => rfl
  | cons e m ih =>
    obtain ⟨k, v⟩ := e
    simp only [SMap.wfFrom, Bool.and_eq_true, decide_eq_true_eq] at hw
    simp only [SMap.get, show k ≠ a by omega, if_false]
    exact ih hw.2 (by omega)

/-- A write leaves every other key alone. -/
theorem SMap.get_set_ne (m : SMap α) (x : α) {a k : Nat} (h : k ≠ a) : SMap.get d (SMap.set d m a x) k = SMap.get d m k := by
  unfold SMap.set; split
  · exact SMap.get_erase_ne m h
  · exact SMap.get_insert_ne m x h

theorem SMap.get_erase_same {m : SMap α} {lo : Nat} (hw : SMap.wfFrom d lo m = true) (a : Nat) : SMap.get d (SMap.erase m a) a = d := by
  induction m generalizing lo with
  | nil => rfl
  | cons e m ih =>
    obtain ⟨j, v⟩ := e
    simp only [SMap.wfFrom, Bool.and_eq_true, decide_eq_true_eq] at hw
    simp only [SMap.erase]
    split
    · next hj => exact SMap.get_below hw.2 (by omega)
    · next hj => simp only [SMap.get, hj, if_false]; exact ih hw.2

/-- In a canonical map, a read after a write of the key gives the value written. -/
theorem SMap.get_set_same {m : SMap α} (hw : SMap.wf d m = true) (a : Nat) (x : α) : SMap.get d (SMap.set d m a x) a = x := by
  unfold SMap.set; split
  · next h => rw [h]; exact SMap.get_erase_same hw a
  · exact SMap.get_insert_same m a x

/-- Without the canonical form, where the value written is no default. -/
theorem SMap.get_set_same' (m : SMap α) (a : Nat) {x : α} (h : x ≠ d) : SMap.get d (SMap.set d m a x) a = x := by
  simp only [SMap.set, h, if_false]; exact SMap.get_insert_same m a x

theorem SMap.wfFrom_erase {m : SMap α} {lo : Nat} (hw : SMap.wfFrom d lo m = true) (a : Nat) : SMap.wfFrom d lo (SMap.erase m a) = true := by
  induction m generalizing lo with
  | nil => exact hw
  | cons e m ih =>
    obtain ⟨j, v⟩ := e
    simp only [SMap.wfFrom, Bool.and_eq_true, decide_eq_true_eq] at hw
    simp only [SMap.erase]
    split
    · exact SMap.wfFrom_mono (by omega) hw.2
    · simp only [SMap.wfFrom, Bool.and_eq_true, decide_eq_true_eq]; exact ⟨hw.1, ih hw.2⟩

theorem SMap.wfFrom_insert {m : SMap α} {lo a : Nat} {x : α} (hx : x ≠ d) (ha : lo ≤ a) (hw : SMap.wfFrom d lo m = true) :
    SMap.wfFrom d lo (SMap.insert m a x) = true := by
  induction m generalizing lo with
  | nil => simp [SMap.insert, SMap.wfFrom, ha, hx]
  | cons e m ih =>
    obtain ⟨j, v⟩ := e
    simp only [SMap.wfFrom, Bool.and_eq_true, decide_eq_true_eq] at hw
    simp only [SMap.insert]
    split
    · next h => simp only [SMap.wfFrom, Bool.and_eq_true, decide_eq_true_eq]; exact ⟨⟨ha, hx⟩, ⟨by omega, hw.1.2⟩, hw.2⟩
    · split
      · next h => subst h; simp only [SMap.wfFrom, Bool.and_eq_true, decide_eq_true_eq]; exact ⟨⟨ha, hx⟩, hw.2⟩
      · simp only [SMap.wfFrom, Bool.and_eq_true, decide_eq_true_eq]; exact ⟨hw.1, ih (by omega) hw.2⟩

/-- A write keeps the canonical form. -/
theorem SMap.wf_set {m : SMap α} (hw : SMap.wf d m = true) (a : Nat) (x : α) : SMap.wf d (SMap.set d m a x) = true := by
  unfold SMap.set; split
  · exact SMap.wfFrom_erase hw a
  · next h => exact SMap.wfFrom_insert h (Nat.zero_le a) hw

/-- So does dropping entries. -/
theorem SMap.wfFrom_filter {m : SMap α} {lo : Nat} (p : Nat × α → Bool) (hw : SMap.wfFrom d lo m = true) : SMap.wfFrom d lo (m.filter p) = true := by
  induction m generalizing lo with
  | nil => exact hw
  | cons e m ih =>
    obtain ⟨j, v⟩ := e
    simp only [SMap.wfFrom, Bool.and_eq_true, decide_eq_true_eq] at hw
    simp only [List.filter_cons]
    split
    · simp only [SMap.wfFrom, Bool.and_eq_true, decide_eq_true_eq]; exact ⟨hw.1, ih hw.2⟩
    · exact ih (SMap.wfFrom_mono (by omega) hw.2)

theorem SMap.wf_filter {m : SMap α} (p : Nat × α → Bool) (hw : SMap.wf d m = true) : SMap.wf d (m.filter p) = true := SMap.wfFrom_filter p hw

/-- Two canonical maps, the keys of the first below those of the second, make one. -/
theorem SMap.wfFrom_append {m n : SMap α} {lo hi : Nat} (hm : SMap.wfFrom d lo m = true) (hn : SMap.wfFrom d hi n = true) (hl : lo ≤ hi)
    (hk : ∀ e ∈ m, e.1 < hi) : SMap.wfFrom d lo (m ++ n) = true := by
  induction m generalizing lo with
  | nil => exact SMap.wfFrom_mono hl hn
  | cons e m ih =>
    obtain ⟨j, v⟩ := e
    simp only [SMap.wfFrom, Bool.and_eq_true, decide_eq_true_eq] at hm
    simp only [List.cons_append, SMap.wfFrom, Bool.and_eq_true, decide_eq_true_eq]
    have hj := hk (j, v) (by simp)
    exact ⟨hm.1, ih hm.2 (by simp at hj; omega) (fun e he => hk e (by simp [he]))⟩

namespace Machine

/-! ### Memory -/

theorem Memory.wf_writeBytes {m : SMap Byte} (hw : Memory.wf m) (a : Nat) (l : List Byte) : Memory.wf (writeBytes m a l) := by
  induction l generalizing m a with
  | nil => exact hw
  | cons b l ih => exact ih (SMap.wf_set hw a b) (a + 1)

theorem SMap.wfFrom_above {m : SMap Byte} {lo hi : Nat} (hw : SMap.wfFrom 0 lo m = true) :
    SMap.wfFrom 0 hi (m.filter (fun e => decide (hi ≤ e.1))) = true := by
  induction m generalizing lo with
  | nil => rfl
  | cons e m ih =>
    obtain ⟨j, v⟩ := e
    simp only [SMap.wfFrom, Bool.and_eq_true, decide_eq_true_eq] at hw
    simp only [List.filter_cons]
    split
    · next h =>
      simp only [decide_eq_true_eq] at h
      simp only [SMap.wfFrom, Bool.and_eq_true, decide_eq_true_eq]
      exact ⟨⟨h, hw.1.2⟩, SMap.wfFrom_filter _ hw.2⟩
    · exact ih hw.2

theorem SMap.wfFrom_zip (a : Nat) (l : List Byte) :
    SMap.wfFrom 0 a (((l.zipIdx a).filter (fun e => e.1 ≠ 0)).map (fun e => (e.2, e.1))) = true ∧
    ∀ e ∈ ((l.zipIdx a).filter (fun e => e.1 ≠ 0)).map (fun e => (e.2, e.1)), e.1 < a + l.length := by
  induction l generalizing a with
  | nil => exact ⟨rfl, by simp⟩
  | cons b l ih =>
    obtain ⟨h1, h2⟩ := ih (a + 1)
    simp only [List.zipIdx_cons, List.filter_cons]
    split
    · next h =>
      refine ⟨?_, ?_⟩
      · simp only [List.map_cons, SMap.wfFrom, Bool.and_eq_true, decide_eq_true_eq]
        exact ⟨⟨Nat.le_refl a, by simpa using h⟩, h1⟩
      · intro e he
        simp only [List.map_cons, List.mem_cons, List.length_cons] at he ⊢
        rcases he with rfl | he
        · simp
        · have := h2 e he; omega
    · refine ⟨SMap.wfFrom_mono (Nat.le_succ a) h1, fun e he => ?_⟩
      have := h2 e he; simp only [List.length_cons]; omega

theorem Memory.wf_writeRange {m : SMap Byte} (hw : Memory.wf m) (a : Nat) (l : List Byte) : Memory.wf (writeRange m a l) := by
  unfold writeRange Memory.wf SMap.wf
  obtain ⟨h1, h2⟩ := SMap.wfFrom_zip a l
  refine SMap.wfFrom_append (hi := a + l.length) (SMap.wfFrom_append (hi := a) (SMap.wfFrom_filter _ hw) h1 (Nat.zero_le a) ?_)
    (SMap.wfFrom_above hw) (Nat.zero_le _) ?_
  · intro e he; simpa using (List.mem_filter.mp he).2
  · intro e he
    rcases List.mem_append.mp he with he | he
    · have := (List.mem_filter.mp he).2; simp only [decide_eq_true_eq] at this; omega
    · exact h2 e he

theorem State.wrN_wf {s : State} (hw : Memory.wf s.mem) (a : Nat) (l : List Byte) : Memory.wf (s.wrN a l).mem := Memory.wf_writeBytes hw a l
theorem State.wr_wf {s : State} (hw : Memory.wf s.mem) (a n x : Nat) : Memory.wf (s.wr a n x).mem := Memory.wf_writeBytes hw a _
theorem State.wrBig_wf {s : State} (hw : Memory.wf s.mem) (a : Nat) (l : List Byte) : Memory.wf (s.wrBig a l).mem := Memory.wf_writeRange hw a l

/-- Reset memory is canonical. -/
theorem State.reset_wf : Memory.wf State.reset.mem := rfl

/-- Bytes outside those written stay. -/
theorem get_writeBytes_out (m : SMap Byte) {a k : Nat} {l : List Byte} (h : k < a ∨ a + l.length ≤ k) :
    SMap.get 0 (writeBytes m a l) k = SMap.get 0 m k := by
  induction l generalizing m a with
  | nil => rfl
  | cons b l ih =>
    simp only [List.length_cons] at h
    simp only [writeBytes]
    rw [ih _ (by omega), SMap.get_set_ne m b (by omega)]

/-- Bytes written are read back. -/
theorem get_writeBytes_in {m : SMap Byte} (hw : Memory.wf m) {a i : Nat} {l : List Byte} (h : i < l.length) :
    SMap.get 0 (writeBytes m a l) (a + i) = l.getD i 0 := by
  induction l generalizing m a i with
  | nil => simp at h
  | cons b l ih =>
    simp only [writeBytes]
    cases i with
    | zero => simp only [Nat.add_zero]; rw [get_writeBytes_out _ (by omega), SMap.get_set_same hw]; rfl
    | succ i =>
      have := ih (m := SMap.set 0 m a b) (SMap.wf_set hw a b) (a := a + 1) (i := i) (by simpa using h)
      rw [show a + (i + 1) = a + 1 + i by omega, this]; simp

theorem State.rd8_wrN_out (s : State) {a k : Nat} {l : List Byte} (h : k < a ∨ a + l.length ≤ k) : (s.wrN a l).rd8 k = s.rd8 k :=
  get_writeBytes_out s.mem h

/-- The bytes at the place of a write are those written. -/
theorem State.rdN_wrN {s : State} (hw : Memory.wf s.mem) (a : Nat) (l : List Byte) : (s.wrN a l).rdN a l.length = l := by
  refine List.ext_getElem (by simp [State.rdN]) fun i h _ => ?_
  have hi : i < l.length := by simpa [State.rdN] using h
  simp only [State.rdN, List.getElem_map, List.getElem_range, State.rd8, State.wrN]
  rw [get_writeBytes_in hw hi]; simp [hi]

/-! ### Window bytes -/

theorem get_writeWin_out (m : SMap (Option Byte)) {o k : Nat} {l : List Byte} (h : k < o ∨ o + l.length ≤ k) :
    SMap.get none (writeWin m o l) k = SMap.get none m k := by
  induction l generalizing m o with
  | nil => rfl
  | cons b l ih =>
    simp only [List.length_cons] at h
    simp only [writeWin]
    rw [ih _ (by omega), SMap.get_set_ne m (some b) (by omega)]

theorem Workgroup.winByte_out (w : Workgroup) {o k : Nat} {l : List Byte} (h : k < o ∨ o + l.length ≤ k) :
    (w.setWinN o l).winByte k = w.winByte k := by
  simp only [Workgroup.winByte, Workgroup.setWinN, get_writeWin_out w.win h]; rfl

theorem get_writeWin_in (m : SMap (Option Byte)) {o i : Nat} {l : List Byte} (h : i < l.length) :
    SMap.get none (writeWin m o l) (o + i) = some (l.getD i 0) := by
  induction l generalizing m o i with
  | nil => simp at h
  | cons b l ih =>
    simp only [writeWin]
    cases i with
    | zero => simp only [Nat.add_zero]; rw [get_writeWin_out _ (by omega), SMap.get_set_same' m o (by simp)]; rfl
    | succ i =>
      rw [show o + (i + 1) = o + 1 + i by omega, ih _ (by simpa using h)]; simp

theorem Workgroup.winByte_in (w : Workgroup) {o i : Nat} {l : List Byte} (h : i < l.length) :
    (w.setWinN o l).winByte (o + i) = l.getD i 0 := by
  simp only [Workgroup.winByte, Workgroup.setWinN, get_writeWin_in w.win h]

/-! ### Registers -/

theorem Group.sreg_setS_ne (g : Group) (x : Word64) {i k : Nat} (h : k ≠ i) : (g.setS i x).sreg k = g.sreg k := SMap.get_set_ne g.sregs x h
theorem Group.sreg_setS_same {g : Group} (hw : SMap.wf 0 g.sregs = true) (i : Nat) (x : Word64) : (g.setS i x).sreg i = x := SMap.get_set_same hw i x
theorem Group.vreg_setV_ne (g : Group) (x : Word32) {r t k u : Nat} (ht : t < 32) (hu : u < 32) (h : k ≠ r ∨ u ≠ t) :
    (g.setV r t x).vreg k u = g.vreg k u := SMap.get_set_ne g.vregs x (by omega)

end Machine

end Sys2Proof
end

