-- ==== Sys2Proof/Laws/State.lean ====
section
/-! SUPPORT. The fields of an updated state, group by group of updates: one lemma per field and update, true by definition. -/

namespace Sys2Proof.Machine

variable (s : State) (g : Group)

/-! ### `modGroup` -/

@[simp] theorem State.modGroup_fitting (gid : Nat) (f : Group → Group) : (s.modGroup gid f).fitting = s.fitting := rfl
@[simp] theorem State.modGroup_mem (gid : Nat) (f : Group → Group) : (s.modGroup gid f).mem = s.mem := rfl
@[simp] theorem State.modGroup_poison (gid : Nat) (f : Group → Group) : (s.modGroup gid f).poison = s.poison := rfl
@[simp] theorem State.modGroup_modified (gid : Nat) (f : Group → Group) : (s.modGroup gid f).modified = s.modified := rfl
@[simp] theorem State.modGroup_l1 (gid : Nat) (f : Group → Group) : (s.modGroup gid f).l1 = s.l1 := rfl
@[simp] theorem State.modGroup_l2 (gid : Nat) (f : Group → Group) : (s.modGroup gid f).l2 = s.l2 := rfl
@[simp] theorem State.modGroup_dir (gid : Nat) (f : Group → Group) : (s.modGroup gid f).dir = s.dir := rfl
@[simp] theorem State.modGroup_snoop (gid : Nat) (f : Group → Group) : (s.modGroup gid f).snoop = s.snoop := rfl
@[simp] theorem State.modGroup_remote (gid : Nat) (f : Group → Group) : (s.modGroup gid f).remote = s.remote := rfl
@[simp] theorem State.modGroup_asked (gid : Nat) (f : Group → Group) : (s.modGroup gid f).asked = s.asked := rfl
@[simp] theorem State.modGroup_tlb (gid : Nat) (f : Group → Group) : (s.modGroup gid f).tlb = s.tlb := rfl
@[simp] theorem State.modGroup_clock (gid : Nat) (f : Group → Group) : (s.modGroup gid f).clock = s.clock := rfl
@[simp] theorem State.modGroup_bar (gid : Nat) (f : Group → Group) : (s.modGroup gid f).bar = s.bar := rfl
@[simp] theorem State.modGroup_invDone (gid : Nat) (f : Group → Group) : (s.modGroup gid f).invDone = s.invDone := rfl
@[simp] theorem State.modGroup_invPending (gid : Nat) (f : Group → Group) : (s.modGroup gid f).invPending = s.invPending := rfl
@[simp] theorem State.modGroup_counters (gid : Nat) (f : Group → Group) : (s.modGroup gid f).counters = s.counters := rfl
@[simp] theorem State.modGroup_ctxs (gid : Nat) (f : Group → Group) : (s.modGroup gid f).ctxs = s.ctxs := rfl
@[simp] theorem State.modGroup_images (gid : Nat) (f : Group → Group) : (s.modGroup gid f).images = s.images := rfl
@[simp] theorem State.modGroup_wgs (gid : Nat) (f : Group → Group) : (s.modGroup gid f).wgs = s.wgs := rfl
@[simp] theorem State.modGroup_groups (gid : Nat) (f : Group → Group) : (s.modGroup gid f).groups = mapGroup s.groups gid f := rfl
@[simp] theorem State.modGroup_gangs (gid : Nat) (f : Group → Group) : (s.modGroup gid f).gangs = s.gangs := rfl
@[simp] theorem State.modGroup_leftovers (gid : Nat) (f : Group → Group) : (s.modGroup gid f).leftovers = s.leftovers := rfl
@[simp] theorem State.modGroup_cmds (gid : Nat) (f : Group → Group) : (s.modGroup gid f).cmds = s.cmds := rfl
@[simp] theorem State.modGroup_faults (gid : Nat) (f : Group → Group) : (s.modGroup gid f).faults = s.faults := rfl
@[simp] theorem State.modGroup_kills (gid : Nat) (f : Group → Group) : (s.modGroup gid f).kills = s.kills := rfl
@[simp] theorem State.modGroup_kites (gid : Nat) (f : Group → Group) : (s.modGroup gid f).kites = s.kites := rfl
@[simp] theorem State.modGroup_saved (gid : Nat) (f : Group → Group) : (s.modGroup gid f).saved = s.saved := rfl
@[simp] theorem State.modGroup_seals (gid : Nat) (f : Group → Group) : (s.modGroup gid f).seals = s.seals := rfl
@[simp] theorem State.modGroup_candidates (gid : Nat) (f : Group → Group) : (s.modGroup gid f).candidates = s.candidates := rfl
@[simp] theorem State.modGroup_reached (gid : Nat) (f : Group → Group) : (s.modGroup gid f).reached = s.reached := rfl
@[simp] theorem State.modGroup_waves (gid : Nat) (f : Group → Group) : (s.modGroup gid f).waves = s.waves := rfl
@[simp] theorem State.modGroup_work (gid : Nat) (f : Group → Group) : (s.modGroup gid f).work = s.work := rfl
@[simp] theorem State.modGroup_budgets (gid : Nat) (f : Group → Group) : (s.modGroup gid f).budgets = s.budgets := rfl
@[simp] theorem State.modGroup_stopped (gid : Nat) (f : Group → Group) : (s.modGroup gid f).stopped = s.stopped := rfl
@[simp] theorem State.modGroup_ordered (gid : Nat) (f : Group → Group) : (s.modGroup gid f).ordered = s.ordered := rfl
@[simp] theorem State.modGroup_queued (gid : Nat) (f : Group → Group) : (s.modGroup gid f).queued = s.queued := rfl
@[simp] theorem State.modGroup_orders (gid : Nat) (f : Group → Group) : (s.modGroup gid f).orders = s.orders := rfl
@[simp] theorem State.modGroup_reserved (gid : Nat) (f : Group → Group) : (s.modGroup gid f).reserved = s.reserved := rfl
@[simp] theorem State.modGroup_gangWait (gid : Nat) (f : Group → Group) : (s.modGroup gid f).gangWait = s.gangWait := rfl
@[simp] theorem State.modGroup_lastEpoch (gid : Nat) (f : Group → Group) : (s.modGroup gid f).lastEpoch = s.lastEpoch := rfl
@[simp] theorem State.modGroup_lastStart (gid : Nat) (f : Group → Group) : (s.modGroup gid f).lastStart = s.lastStart := rfl
@[simp] theorem State.modGroup_collectives (gid : Nat) (f : Group → Group) : (s.modGroup gid f).collectives = s.collectives := rfl
@[simp] theorem State.modGroup_pushers (gid : Nat) (f : Group → Group) : (s.modGroup gid f).pushers = s.pushers := rfl
@[simp] theorem State.modGroup_retired (gid : Nat) (f : Group → Group) : (s.modGroup gid f).retired = s.retired := rfl
@[simp] theorem State.modGroup_heldEvents (gid : Nat) (f : Group → Group) : (s.modGroup gid f).heldEvents = s.heldEvents := rfl
@[simp] theorem State.modGroup_errlog (gid : Nat) (f : Group → Group) : (s.modGroup gid f).errlog = s.errlog := rfl
@[simp] theorem State.modGroup_rseq (gid : Nat) (f : Group → Group) : (s.modGroup gid f).rseq = s.rseq := rfl
@[simp] theorem State.modGroup_scrubs (gid : Nat) (f : Group → Group) : (s.modGroup gid f).scrubs = s.scrubs := rfl
@[simp] theorem State.modGroup_spdm (gid : Nat) (f : Group → Group) : (s.modGroup gid f).spdm = s.spdm := rfl
@[simp] theorem State.modGroup_tasks (gid : Nat) (f : Group → Group) : (s.modGroup gid f).tasks = s.tasks := rfl
@[simp] theorem State.modGroup_late (gid : Nat) (f : Group → Group) : (s.modGroup gid f).late = s.late := rfl
@[simp] theorem State.modGroup_taskTails (gid : Nat) (f : Group → Group) : (s.modGroup gid f).taskTails = s.taskTails := rfl
@[simp] theorem State.modGroup_lost (gid : Nat) (f : Group → Group) : (s.modGroup gid f).lost = s.lost := rfl
@[simp] theorem State.modGroup_domains (gid : Nat) (f : Group → Group) : (s.modGroup gid f).domains = s.domains := rfl
@[simp] theorem State.modGroup_viralDevice (gid : Nat) (f : Group → Group) : (s.modGroup gid f).viralDevice = s.viralDevice := rfl
@[simp] theorem State.modGroup_power (gid : Nat) (f : Group → Group) : (s.modGroup gid f).power = s.power := rfl
@[simp] theorem State.modGroup_peerId (gid : Nat) (f : Group → Group) : (s.modGroup gid f).peerId = s.peerId := rfl
@[simp] theorem State.modGroup_boot (gid : Nat) (f : Group → Group) : (s.modGroup gid f).boot = s.boot := rfl
@[simp] theorem State.modGroup_nextId (gid : Nat) (f : Group → Group) : (s.modGroup gid f).nextId = s.nextId := rfl
@[simp] theorem State.modGroup_nextTag (gid : Nat) (f : Group → Group) : (s.modGroup gid f).nextTag = s.nextTag := rfl
@[simp] theorem State.modGroup_agenda (gid : Nat) (f : Group → Group) : (s.modGroup gid f).agenda = s.agenda := rfl
@[simp] theorem State.modGroup_cur (gid : Nat) (f : Group → Group) : (s.modGroup gid f).cur = s.cur := rfl
@[simp] theorem State.modGroup_freeCtr (gid : Nat) (f : Group → Group) : (s.modGroup gid f).freeCtr = s.freeCtr := rfl
@[simp] theorem State.modGroup_out (gid : Nat) (f : Group → Group) : (s.modGroup gid f).out = s.out := rfl

/-! ### `modWg` -/

@[simp] theorem State.modWg_fitting (wid : Nat) (f : Workgroup → Workgroup) : (s.modWg wid f).fitting = s.fitting := rfl
@[simp] theorem State.modWg_mem (wid : Nat) (f : Workgroup → Workgroup) : (s.modWg wid f).mem = s.mem := rfl
@[simp] theorem State.modWg_poison (wid : Nat) (f : Workgroup → Workgroup) : (s.modWg wid f).poison = s.poison := rfl
@[simp] theorem State.modWg_modified (wid : Nat) (f : Workgroup → Workgroup) : (s.modWg wid f).modified = s.modified := rfl
@[simp] theorem State.modWg_l1 (wid : Nat) (f : Workgroup → Workgroup) : (s.modWg wid f).l1 = s.l1 := rfl
@[simp] theorem State.modWg_l2 (wid : Nat) (f : Workgroup → Workgroup) : (s.modWg wid f).l2 = s.l2 := rfl
@[simp] theorem State.modWg_dir (wid : Nat) (f : Workgroup → Workgroup) : (s.modWg wid f).dir = s.dir := rfl
@[simp] theorem State.modWg_snoop (wid : Nat) (f : Workgroup → Workgroup) : (s.modWg wid f).snoop = s.snoop := rfl
@[simp] theorem State.modWg_remote (wid : Nat) (f : Workgroup → Workgroup) : (s.modWg wid f).remote = s.remote := rfl
@[simp] theorem State.modWg_asked (wid : Nat) (f : Workgroup → Workgroup) : (s.modWg wid f).asked = s.asked := rfl
@[simp] theorem State.modWg_tlb (wid : Nat) (f : Workgroup → Workgroup) : (s.modWg wid f).tlb = s.tlb := rfl
@[simp] theorem State.modWg_clock (wid : Nat) (f : Workgroup → Workgroup) : (s.modWg wid f).clock = s.clock := rfl
@[simp] theorem State.modWg_bar (wid : Nat) (f : Workgroup → Workgroup) : (s.modWg wid f).bar = s.bar := rfl
@[simp] theorem State.modWg_invDone (wid : Nat) (f : Workgroup → Workgroup) : (s.modWg wid f).invDone = s.invDone := rfl
@[simp] theorem State.modWg_invPending (wid : Nat) (f : Workgroup → Workgroup) : (s.modWg wid f).invPending = s.invPending := rfl
@[simp] theorem State.modWg_counters (wid : Nat) (f : Workgroup → Workgroup) : (s.modWg wid f).counters = s.counters := rfl
@[simp] theorem State.modWg_ctxs (wid : Nat) (f : Workgroup → Workgroup) : (s.modWg wid f).ctxs = s.ctxs := rfl
@[simp] theorem State.modWg_images (wid : Nat) (f : Workgroup → Workgroup) : (s.modWg wid f).images = s.images := rfl
@[simp] theorem State.modWg_wgs (wid : Nat) (f : Workgroup → Workgroup) : (s.modWg wid f).wgs = s.wgs.map (fun w => if w.wid = wid then f w else w) := rfl
@[simp] theorem State.modWg_groups (wid : Nat) (f : Workgroup → Workgroup) : (s.modWg wid f).groups = s.groups := rfl
@[simp] theorem State.modWg_gangs (wid : Nat) (f : Workgroup → Workgroup) : (s.modWg wid f).gangs = s.gangs := rfl
@[simp] theorem State.modWg_leftovers (wid : Nat) (f : Workgroup → Workgroup) : (s.modWg wid f).leftovers = s.leftovers := rfl
@[simp] theorem State.modWg_cmds (wid : Nat) (f : Workgroup → Workgroup) : (s.modWg wid f).cmds = s.cmds := rfl
@[simp] theorem State.modWg_faults (wid : Nat) (f : Workgroup → Workgroup) : (s.modWg wid f).faults = s.faults := rfl
@[simp] theorem State.modWg_kills (wid : Nat) (f : Workgroup → Workgroup) : (s.modWg wid f).kills = s.kills := rfl
@[simp] theorem State.modWg_kites (wid : Nat) (f : Workgroup → Workgroup) : (s.modWg wid f).kites = s.kites := rfl
@[simp] theorem State.modWg_saved (wid : Nat) (f : Workgroup → Workgroup) : (s.modWg wid f).saved = s.saved := rfl
@[simp] theorem State.modWg_seals (wid : Nat) (f : Workgroup → Workgroup) : (s.modWg wid f).seals = s.seals := rfl
@[simp] theorem State.modWg_candidates (wid : Nat) (f : Workgroup → Workgroup) : (s.modWg wid f).candidates = s.candidates := rfl
@[simp] theorem State.modWg_reached (wid : Nat) (f : Workgroup → Workgroup) : (s.modWg wid f).reached = s.reached := rfl
@[simp] theorem State.modWg_waves (wid : Nat) (f : Workgroup → Workgroup) : (s.modWg wid f).waves = s.waves := rfl
@[simp] theorem State.modWg_work (wid : Nat) (f : Workgroup → Workgroup) : (s.modWg wid f).work = s.work := rfl
@[simp] theorem State.modWg_budgets (wid : Nat) (f : Workgroup → Workgroup) : (s.modWg wid f).budgets = s.budgets := rfl
@[simp] theorem State.modWg_stopped (wid : Nat) (f : Workgroup → Workgroup) : (s.modWg wid f).stopped = s.stopped := rfl
@[simp] theorem State.modWg_ordered (wid : Nat) (f : Workgroup → Workgroup) : (s.modWg wid f).ordered = s.ordered := rfl
@[simp] theorem State.modWg_queued (wid : Nat) (f : Workgroup → Workgroup) : (s.modWg wid f).queued = s.queued := rfl
@[simp] theorem State.modWg_orders (wid : Nat) (f : Workgroup → Workgroup) : (s.modWg wid f).orders = s.orders := rfl
@[simp] theorem State.modWg_reserved (wid : Nat) (f : Workgroup → Workgroup) : (s.modWg wid f).reserved = s.reserved := rfl
@[simp] theorem State.modWg_gangWait (wid : Nat) (f : Workgroup → Workgroup) : (s.modWg wid f).gangWait = s.gangWait := rfl
@[simp] theorem State.modWg_lastEpoch (wid : Nat) (f : Workgroup → Workgroup) : (s.modWg wid f).lastEpoch = s.lastEpoch := rfl
@[simp] theorem State.modWg_lastStart (wid : Nat) (f : Workgroup → Workgroup) : (s.modWg wid f).lastStart = s.lastStart := rfl
@[simp] theorem State.modWg_collectives (wid : Nat) (f : Workgroup → Workgroup) : (s.modWg wid f).collectives = s.collectives := rfl
@[simp] theorem State.modWg_pushers (wid : Nat) (f : Workgroup → Workgroup) : (s.modWg wid f).pushers = s.pushers := rfl
@[simp] theorem State.modWg_retired (wid : Nat) (f : Workgroup → Workgroup) : (s.modWg wid f).retired = s.retired := rfl
@[simp] theorem State.modWg_heldEvents (wid : Nat) (f : Workgroup → Workgroup) : (s.modWg wid f).heldEvents = s.heldEvents := rfl
@[simp] theorem State.modWg_errlog (wid : Nat) (f : Workgroup → Workgroup) : (s.modWg wid f).errlog = s.errlog := rfl
@[simp] theorem State.modWg_rseq (wid : Nat) (f : Workgroup → Workgroup) : (s.modWg wid f).rseq = s.rseq := rfl
@[simp] theorem State.modWg_scrubs (wid : Nat) (f : Workgroup → Workgroup) : (s.modWg wid f).scrubs = s.scrubs := rfl
@[simp] theorem State.modWg_spdm (wid : Nat) (f : Workgroup → Workgroup) : (s.modWg wid f).spdm = s.spdm := rfl
@[simp] theorem State.modWg_tasks (wid : Nat) (f : Workgroup → Workgroup) : (s.modWg wid f).tasks = s.tasks := rfl
@[simp] theorem State.modWg_late (wid : Nat) (f : Workgroup → Workgroup) : (s.modWg wid f).late = s.late := rfl
@[simp] theorem State.modWg_taskTails (wid : Nat) (f : Workgroup → Workgroup) : (s.modWg wid f).taskTails = s.taskTails := rfl
@[simp] theorem State.modWg_lost (wid : Nat) (f : Workgroup → Workgroup) : (s.modWg wid f).lost = s.lost := rfl
@[simp] theorem State.modWg_domains (wid : Nat) (f : Workgroup → Workgroup) : (s.modWg wid f).domains = s.domains := rfl
@[simp] theorem State.modWg_viralDevice (wid : Nat) (f : Workgroup → Workgroup) : (s.modWg wid f).viralDevice = s.viralDevice := rfl
@[simp] theorem State.modWg_power (wid : Nat) (f : Workgroup → Workgroup) : (s.modWg wid f).power = s.power := rfl
@[simp] theorem State.modWg_peerId (wid : Nat) (f : Workgroup → Workgroup) : (s.modWg wid f).peerId = s.peerId := rfl
@[simp] theorem State.modWg_boot (wid : Nat) (f : Workgroup → Workgroup) : (s.modWg wid f).boot = s.boot := rfl
@[simp] theorem State.modWg_nextId (wid : Nat) (f : Workgroup → Workgroup) : (s.modWg wid f).nextId = s.nextId := rfl
@[simp] theorem State.modWg_nextTag (wid : Nat) (f : Workgroup → Workgroup) : (s.modWg wid f).nextTag = s.nextTag := rfl
@[simp] theorem State.modWg_agenda (wid : Nat) (f : Workgroup → Workgroup) : (s.modWg wid f).agenda = s.agenda := rfl
@[simp] theorem State.modWg_cur (wid : Nat) (f : Workgroup → Workgroup) : (s.modWg wid f).cur = s.cur := rfl
@[simp] theorem State.modWg_freeCtr (wid : Nat) (f : Workgroup → Workgroup) : (s.modWg wid f).freeCtr = s.freeCtr := rfl
@[simp] theorem State.modWg_out (wid : Nat) (f : Workgroup → Workgroup) : (s.modWg wid f).out = s.out := rfl

/-! ### `modCg` -/

@[simp] theorem State.modCg_fitting (f : Group → Group) : (s.modCg f).fitting = s.fitting := rfl
@[simp] theorem State.modCg_mem (f : Group → Group) : (s.modCg f).mem = s.mem := rfl
@[simp] theorem State.modCg_poison (f : Group → Group) : (s.modCg f).poison = s.poison := rfl
@[simp] theorem State.modCg_modified (f : Group → Group) : (s.modCg f).modified = s.modified := rfl
@[simp] theorem State.modCg_l1 (f : Group → Group) : (s.modCg f).l1 = s.l1 := rfl
@[simp] theorem State.modCg_l2 (f : Group → Group) : (s.modCg f).l2 = s.l2 := rfl
@[simp] theorem State.modCg_dir (f : Group → Group) : (s.modCg f).dir = s.dir := rfl
@[simp] theorem State.modCg_snoop (f : Group → Group) : (s.modCg f).snoop = s.snoop := rfl
@[simp] theorem State.modCg_remote (f : Group → Group) : (s.modCg f).remote = s.remote := rfl
@[simp] theorem State.modCg_asked (f : Group → Group) : (s.modCg f).asked = s.asked := rfl
@[simp] theorem State.modCg_tlb (f : Group → Group) : (s.modCg f).tlb = s.tlb := rfl
@[simp] theorem State.modCg_clock (f : Group → Group) : (s.modCg f).clock = s.clock := rfl
@[simp] theorem State.modCg_bar (f : Group → Group) : (s.modCg f).bar = s.bar := rfl
@[simp] theorem State.modCg_invDone (f : Group → Group) : (s.modCg f).invDone = s.invDone := rfl
@[simp] theorem State.modCg_invPending (f : Group → Group) : (s.modCg f).invPending = s.invPending := rfl
@[simp] theorem State.modCg_counters (f : Group → Group) : (s.modCg f).counters = s.counters := rfl
@[simp] theorem State.modCg_ctxs (f : Group → Group) : (s.modCg f).ctxs = s.ctxs := rfl
@[simp] theorem State.modCg_images (f : Group → Group) : (s.modCg f).images = s.images := rfl
@[simp] theorem State.modCg_wgs (f : Group → Group) : (s.modCg f).wgs = s.wgs := rfl
@[simp] theorem State.modCg_gangs (f : Group → Group) : (s.modCg f).gangs = s.gangs := rfl
@[simp] theorem State.modCg_leftovers (f : Group → Group) : (s.modCg f).leftovers = s.leftovers := rfl
@[simp] theorem State.modCg_cmds (f : Group → Group) : (s.modCg f).cmds = s.cmds := rfl
@[simp] theorem State.modCg_faults (f : Group → Group) : (s.modCg f).faults = s.faults := rfl
@[simp] theorem State.modCg_kills (f : Group → Group) : (s.modCg f).kills = s.kills := rfl
@[simp] theorem State.modCg_kites (f : Group → Group) : (s.modCg f).kites = s.kites := rfl
@[simp] theorem State.modCg_saved (f : Group → Group) : (s.modCg f).saved = s.saved := rfl
@[simp] theorem State.modCg_seals (f : Group → Group) : (s.modCg f).seals = s.seals := rfl
@[simp] theorem State.modCg_candidates (f : Group → Group) : (s.modCg f).candidates = s.candidates := rfl
@[simp] theorem State.modCg_reached (f : Group → Group) : (s.modCg f).reached = s.reached := rfl
@[simp] theorem State.modCg_waves (f : Group → Group) : (s.modCg f).waves = s.waves := rfl
@[simp] theorem State.modCg_work (f : Group → Group) : (s.modCg f).work = s.work := rfl
@[simp] theorem State.modCg_budgets (f : Group → Group) : (s.modCg f).budgets = s.budgets := rfl
@[simp] theorem State.modCg_stopped (f : Group → Group) : (s.modCg f).stopped = s.stopped := rfl
@[simp] theorem State.modCg_ordered (f : Group → Group) : (s.modCg f).ordered = s.ordered := rfl
@[simp] theorem State.modCg_queued (f : Group → Group) : (s.modCg f).queued = s.queued := rfl
@[simp] theorem State.modCg_orders (f : Group → Group) : (s.modCg f).orders = s.orders := rfl
@[simp] theorem State.modCg_reserved (f : Group → Group) : (s.modCg f).reserved = s.reserved := rfl
@[simp] theorem State.modCg_gangWait (f : Group → Group) : (s.modCg f).gangWait = s.gangWait := rfl
@[simp] theorem State.modCg_lastEpoch (f : Group → Group) : (s.modCg f).lastEpoch = s.lastEpoch := rfl
@[simp] theorem State.modCg_lastStart (f : Group → Group) : (s.modCg f).lastStart = s.lastStart := rfl
@[simp] theorem State.modCg_collectives (f : Group → Group) : (s.modCg f).collectives = s.collectives := rfl
@[simp] theorem State.modCg_pushers (f : Group → Group) : (s.modCg f).pushers = s.pushers := rfl
@[simp] theorem State.modCg_retired (f : Group → Group) : (s.modCg f).retired = s.retired := rfl
@[simp] theorem State.modCg_heldEvents (f : Group → Group) : (s.modCg f).heldEvents = s.heldEvents := rfl
@[simp] theorem State.modCg_errlog (f : Group → Group) : (s.modCg f).errlog = s.errlog := rfl
@[simp] theorem State.modCg_rseq (f : Group → Group) : (s.modCg f).rseq = s.rseq := rfl
@[simp] theorem State.modCg_scrubs (f : Group → Group) : (s.modCg f).scrubs = s.scrubs := rfl
@[simp] theorem State.modCg_spdm (f : Group → Group) : (s.modCg f).spdm = s.spdm := rfl
@[simp] theorem State.modCg_tasks (f : Group → Group) : (s.modCg f).tasks = s.tasks := rfl
@[simp] theorem State.modCg_late (f : Group → Group) : (s.modCg f).late = s.late := rfl
@[simp] theorem State.modCg_taskTails (f : Group → Group) : (s.modCg f).taskTails = s.taskTails := rfl
@[simp] theorem State.modCg_lost (f : Group → Group) : (s.modCg f).lost = s.lost := rfl
@[simp] theorem State.modCg_domains (f : Group → Group) : (s.modCg f).domains = s.domains := rfl
@[simp] theorem State.modCg_viralDevice (f : Group → Group) : (s.modCg f).viralDevice = s.viralDevice := rfl
@[simp] theorem State.modCg_power (f : Group → Group) : (s.modCg f).power = s.power := rfl
@[simp] theorem State.modCg_peerId (f : Group → Group) : (s.modCg f).peerId = s.peerId := rfl
@[simp] theorem State.modCg_boot (f : Group → Group) : (s.modCg f).boot = s.boot := rfl
@[simp] theorem State.modCg_nextId (f : Group → Group) : (s.modCg f).nextId = s.nextId := rfl
@[simp] theorem State.modCg_nextTag (f : Group → Group) : (s.modCg f).nextTag = s.nextTag := rfl
@[simp] theorem State.modCg_agenda (f : Group → Group) : (s.modCg f).agenda = s.agenda := rfl
@[simp] theorem State.modCg_cur (f : Group → Group) : (s.modCg f).cur = s.cur := rfl
@[simp] theorem State.modCg_freeCtr (f : Group → Group) : (s.modCg f).freeCtr = s.freeCtr := rfl
@[simp] theorem State.modCg_out (f : Group → Group) : (s.modCg f).out = s.out := rfl

/-! ### `modCf` -/

@[simp] theorem State.modCf_fitting (h : Frag → Frag) : (s.modCf h).fitting = s.fitting := rfl
@[simp] theorem State.modCf_mem (h : Frag → Frag) : (s.modCf h).mem = s.mem := rfl
@[simp] theorem State.modCf_poison (h : Frag → Frag) : (s.modCf h).poison = s.poison := rfl
@[simp] theorem State.modCf_modified (h : Frag → Frag) : (s.modCf h).modified = s.modified := rfl
@[simp] theorem State.modCf_l1 (h : Frag → Frag) : (s.modCf h).l1 = s.l1 := rfl
@[simp] theorem State.modCf_l2 (h : Frag → Frag) : (s.modCf h).l2 = s.l2 := rfl
@[simp] theorem State.modCf_dir (h : Frag → Frag) : (s.modCf h).dir = s.dir := rfl
@[simp] theorem State.modCf_snoop (h : Frag → Frag) : (s.modCf h).snoop = s.snoop := rfl
@[simp] theorem State.modCf_remote (h : Frag → Frag) : (s.modCf h).remote = s.remote := rfl
@[simp] theorem State.modCf_asked (h : Frag → Frag) : (s.modCf h).asked = s.asked := rfl
@[simp] theorem State.modCf_tlb (h : Frag → Frag) : (s.modCf h).tlb = s.tlb := rfl
@[simp] theorem State.modCf_clock (h : Frag → Frag) : (s.modCf h).clock = s.clock := rfl
@[simp] theorem State.modCf_bar (h : Frag → Frag) : (s.modCf h).bar = s.bar := rfl
@[simp] theorem State.modCf_invDone (h : Frag → Frag) : (s.modCf h).invDone = s.invDone := rfl
@[simp] theorem State.modCf_invPending (h : Frag → Frag) : (s.modCf h).invPending = s.invPending := rfl
@[simp] theorem State.modCf_counters (h : Frag → Frag) : (s.modCf h).counters = s.counters := rfl
@[simp] theorem State.modCf_ctxs (h : Frag → Frag) : (s.modCf h).ctxs = s.ctxs := rfl
@[simp] theorem State.modCf_images (h : Frag → Frag) : (s.modCf h).images = s.images := rfl
@[simp] theorem State.modCf_wgs (h : Frag → Frag) : (s.modCf h).wgs = s.wgs := rfl
@[simp] theorem State.modCf_gangs (h : Frag → Frag) : (s.modCf h).gangs = s.gangs := rfl
@[simp] theorem State.modCf_leftovers (h : Frag → Frag) : (s.modCf h).leftovers = s.leftovers := rfl
@[simp] theorem State.modCf_cmds (h : Frag → Frag) : (s.modCf h).cmds = s.cmds := rfl
@[simp] theorem State.modCf_faults (h : Frag → Frag) : (s.modCf h).faults = s.faults := rfl
@[simp] theorem State.modCf_kills (h : Frag → Frag) : (s.modCf h).kills = s.kills := rfl
@[simp] theorem State.modCf_kites (h : Frag → Frag) : (s.modCf h).kites = s.kites := rfl
@[simp] theorem State.modCf_saved (h : Frag → Frag) : (s.modCf h).saved = s.saved := rfl
@[simp] theorem State.modCf_seals (h : Frag → Frag) : (s.modCf h).seals = s.seals := rfl
@[simp] theorem State.modCf_candidates (h : Frag → Frag) : (s.modCf h).candidates = s.candidates := rfl
@[simp] theorem State.modCf_reached (h : Frag → Frag) : (s.modCf h).reached = s.reached := rfl
@[simp] theorem State.modCf_waves (h : Frag → Frag) : (s.modCf h).waves = s.waves := rfl
@[simp] theorem State.modCf_work (h : Frag → Frag) : (s.modCf h).work = s.work := rfl
@[simp] theorem State.modCf_budgets (h : Frag → Frag) : (s.modCf h).budgets = s.budgets := rfl
@[simp] theorem State.modCf_stopped (h : Frag → Frag) : (s.modCf h).stopped = s.stopped := rfl
@[simp] theorem State.modCf_ordered (h : Frag → Frag) : (s.modCf h).ordered = s.ordered := rfl
@[simp] theorem State.modCf_queued (h : Frag → Frag) : (s.modCf h).queued = s.queued := rfl
@[simp] theorem State.modCf_orders (h : Frag → Frag) : (s.modCf h).orders = s.orders := rfl
@[simp] theorem State.modCf_reserved (h : Frag → Frag) : (s.modCf h).reserved = s.reserved := rfl
@[simp] theorem State.modCf_gangWait (h : Frag → Frag) : (s.modCf h).gangWait = s.gangWait := rfl
@[simp] theorem State.modCf_lastEpoch (h : Frag → Frag) : (s.modCf h).lastEpoch = s.lastEpoch := rfl
@[simp] theorem State.modCf_lastStart (h : Frag → Frag) : (s.modCf h).lastStart = s.lastStart := rfl
@[simp] theorem State.modCf_collectives (h : Frag → Frag) : (s.modCf h).collectives = s.collectives := rfl
@[simp] theorem State.modCf_pushers (h : Frag → Frag) : (s.modCf h).pushers = s.pushers := rfl
@[simp] theorem State.modCf_retired (h : Frag → Frag) : (s.modCf h).retired = s.retired := rfl
@[simp] theorem State.modCf_heldEvents (h : Frag → Frag) : (s.modCf h).heldEvents = s.heldEvents := rfl
@[simp] theorem State.modCf_errlog (h : Frag → Frag) : (s.modCf h).errlog = s.errlog := rfl
@[simp] theorem State.modCf_rseq (h : Frag → Frag) : (s.modCf h).rseq = s.rseq := rfl
@[simp] theorem State.modCf_scrubs (h : Frag → Frag) : (s.modCf h).scrubs = s.scrubs := rfl
@[simp] theorem State.modCf_spdm (h : Frag → Frag) : (s.modCf h).spdm = s.spdm := rfl
@[simp] theorem State.modCf_tasks (h : Frag → Frag) : (s.modCf h).tasks = s.tasks := rfl
@[simp] theorem State.modCf_late (h : Frag → Frag) : (s.modCf h).late = s.late := rfl
@[simp] theorem State.modCf_taskTails (h : Frag → Frag) : (s.modCf h).taskTails = s.taskTails := rfl
@[simp] theorem State.modCf_lost (h : Frag → Frag) : (s.modCf h).lost = s.lost := rfl
@[simp] theorem State.modCf_domains (h : Frag → Frag) : (s.modCf h).domains = s.domains := rfl
@[simp] theorem State.modCf_viralDevice (h : Frag → Frag) : (s.modCf h).viralDevice = s.viralDevice := rfl
@[simp] theorem State.modCf_power (h : Frag → Frag) : (s.modCf h).power = s.power := rfl
@[simp] theorem State.modCf_peerId (h : Frag → Frag) : (s.modCf h).peerId = s.peerId := rfl
@[simp] theorem State.modCf_boot (h : Frag → Frag) : (s.modCf h).boot = s.boot := rfl
@[simp] theorem State.modCf_nextId (h : Frag → Frag) : (s.modCf h).nextId = s.nextId := rfl
@[simp] theorem State.modCf_nextTag (h : Frag → Frag) : (s.modCf h).nextTag = s.nextTag := rfl
@[simp] theorem State.modCf_agenda (h : Frag → Frag) : (s.modCf h).agenda = s.agenda := rfl
@[simp] theorem State.modCf_cur (h : Frag → Frag) : (s.modCf h).cur = s.cur := rfl
@[simp] theorem State.modCf_freeCtr (h : Frag → Frag) : (s.modCf h).freeCtr = s.freeCtr := rfl
@[simp] theorem State.modCf_out (h : Frag → Frag) : (s.modCf h).out = s.out := rfl

/-! ### `modCm` -/

@[simp] theorem State.modCm_fitting (h : Mule → Mule) : (s.modCm h).fitting = s.fitting := rfl
@[simp] theorem State.modCm_mem (h : Mule → Mule) : (s.modCm h).mem = s.mem := rfl
@[simp] theorem State.modCm_poison (h : Mule → Mule) : (s.modCm h).poison = s.poison := rfl
@[simp] theorem State.modCm_modified (h : Mule → Mule) : (s.modCm h).modified = s.modified := rfl
@[simp] theorem State.modCm_l1 (h : Mule → Mule) : (s.modCm h).l1 = s.l1 := rfl
@[simp] theorem State.modCm_l2 (h : Mule → Mule) : (s.modCm h).l2 = s.l2 := rfl
@[simp] theorem State.modCm_dir (h : Mule → Mule) : (s.modCm h).dir = s.dir := rfl
@[simp] theorem State.modCm_snoop (h : Mule → Mule) : (s.modCm h).snoop = s.snoop := rfl
@[simp] theorem State.modCm_remote (h : Mule → Mule) : (s.modCm h).remote = s.remote := rfl
@[simp] theorem State.modCm_asked (h : Mule → Mule) : (s.modCm h).asked = s.asked := rfl
@[simp] theorem State.modCm_tlb (h : Mule → Mule) : (s.modCm h).tlb = s.tlb := rfl
@[simp] theorem State.modCm_clock (h : Mule → Mule) : (s.modCm h).clock = s.clock := rfl
@[simp] theorem State.modCm_bar (h : Mule → Mule) : (s.modCm h).bar = s.bar := rfl
@[simp] theorem State.modCm_invDone (h : Mule → Mule) : (s.modCm h).invDone = s.invDone := rfl
@[simp] theorem State.modCm_invPending (h : Mule → Mule) : (s.modCm h).invPending = s.invPending := rfl
@[simp] theorem State.modCm_counters (h : Mule → Mule) : (s.modCm h).counters = s.counters := rfl
@[simp] theorem State.modCm_ctxs (h : Mule → Mule) : (s.modCm h).ctxs = s.ctxs := rfl
@[simp] theorem State.modCm_images (h : Mule → Mule) : (s.modCm h).images = s.images := rfl
@[simp] theorem State.modCm_wgs (h : Mule → Mule) : (s.modCm h).wgs = s.wgs := rfl
@[simp] theorem State.modCm_gangs (h : Mule → Mule) : (s.modCm h).gangs = s.gangs := rfl
@[simp] theorem State.modCm_leftovers (h : Mule → Mule) : (s.modCm h).leftovers = s.leftovers := rfl
@[simp] theorem State.modCm_cmds (h : Mule → Mule) : (s.modCm h).cmds = s.cmds := rfl
@[simp] theorem State.modCm_faults (h : Mule → Mule) : (s.modCm h).faults = s.faults := rfl
@[simp] theorem State.modCm_kills (h : Mule → Mule) : (s.modCm h).kills = s.kills := rfl
@[simp] theorem State.modCm_kites (h : Mule → Mule) : (s.modCm h).kites = s.kites := rfl
@[simp] theorem State.modCm_saved (h : Mule → Mule) : (s.modCm h).saved = s.saved := rfl
@[simp] theorem State.modCm_seals (h : Mule → Mule) : (s.modCm h).seals = s.seals := rfl
@[simp] theorem State.modCm_candidates (h : Mule → Mule) : (s.modCm h).candidates = s.candidates := rfl
@[simp] theorem State.modCm_reached (h : Mule → Mule) : (s.modCm h).reached = s.reached := rfl
@[simp] theorem State.modCm_waves (h : Mule → Mule) : (s.modCm h).waves = s.waves := rfl
@[simp] theorem State.modCm_work (h : Mule → Mule) : (s.modCm h).work = s.work := rfl
@[simp] theorem State.modCm_budgets (h : Mule → Mule) : (s.modCm h).budgets = s.budgets := rfl
@[simp] theorem State.modCm_stopped (h : Mule → Mule) : (s.modCm h).stopped = s.stopped := rfl
@[simp] theorem State.modCm_ordered (h : Mule → Mule) : (s.modCm h).ordered = s.ordered := rfl
@[simp] theorem State.modCm_queued (h : Mule → Mule) : (s.modCm h).queued = s.queued := rfl
@[simp] theorem State.modCm_orders (h : Mule → Mule) : (s.modCm h).orders = s.orders := rfl
@[simp] theorem State.modCm_reserved (h : Mule → Mule) : (s.modCm h).reserved = s.reserved := rfl
@[simp] theorem State.modCm_gangWait (h : Mule → Mule) : (s.modCm h).gangWait = s.gangWait := rfl
@[simp] theorem State.modCm_lastEpoch (h : Mule → Mule) : (s.modCm h).lastEpoch = s.lastEpoch := rfl
@[simp] theorem State.modCm_lastStart (h : Mule → Mule) : (s.modCm h).lastStart = s.lastStart := rfl
@[simp] theorem State.modCm_collectives (h : Mule → Mule) : (s.modCm h).collectives = s.collectives := rfl
@[simp] theorem State.modCm_pushers (h : Mule → Mule) : (s.modCm h).pushers = s.pushers := rfl
@[simp] theorem State.modCm_retired (h : Mule → Mule) : (s.modCm h).retired = s.retired := rfl
@[simp] theorem State.modCm_heldEvents (h : Mule → Mule) : (s.modCm h).heldEvents = s.heldEvents := rfl
@[simp] theorem State.modCm_errlog (h : Mule → Mule) : (s.modCm h).errlog = s.errlog := rfl
@[simp] theorem State.modCm_rseq (h : Mule → Mule) : (s.modCm h).rseq = s.rseq := rfl
@[simp] theorem State.modCm_scrubs (h : Mule → Mule) : (s.modCm h).scrubs = s.scrubs := rfl
@[simp] theorem State.modCm_spdm (h : Mule → Mule) : (s.modCm h).spdm = s.spdm := rfl
@[simp] theorem State.modCm_tasks (h : Mule → Mule) : (s.modCm h).tasks = s.tasks := rfl
@[simp] theorem State.modCm_late (h : Mule → Mule) : (s.modCm h).late = s.late := rfl
@[simp] theorem State.modCm_taskTails (h : Mule → Mule) : (s.modCm h).taskTails = s.taskTails := rfl
@[simp] theorem State.modCm_lost (h : Mule → Mule) : (s.modCm h).lost = s.lost := rfl
@[simp] theorem State.modCm_domains (h : Mule → Mule) : (s.modCm h).domains = s.domains := rfl
@[simp] theorem State.modCm_viralDevice (h : Mule → Mule) : (s.modCm h).viralDevice = s.viralDevice := rfl
@[simp] theorem State.modCm_power (h : Mule → Mule) : (s.modCm h).power = s.power := rfl
@[simp] theorem State.modCm_peerId (h : Mule → Mule) : (s.modCm h).peerId = s.peerId := rfl
@[simp] theorem State.modCm_boot (h : Mule → Mule) : (s.modCm h).boot = s.boot := rfl
@[simp] theorem State.modCm_nextId (h : Mule → Mule) : (s.modCm h).nextId = s.nextId := rfl
@[simp] theorem State.modCm_nextTag (h : Mule → Mule) : (s.modCm h).nextTag = s.nextTag := rfl
@[simp] theorem State.modCm_agenda (h : Mule → Mule) : (s.modCm h).agenda = s.agenda := rfl
@[simp] theorem State.modCm_cur (h : Mule → Mule) : (s.modCm h).cur = s.cur := rfl
@[simp] theorem State.modCm_freeCtr (h : Mule → Mule) : (s.modCm h).freeCtr = s.freeCtr := rfl
@[simp] theorem State.modCm_out (h : Mule → Mule) : (s.modCm h).out = s.out := rfl

/-! ### `modCw` -/

@[simp] theorem State.modCw_fitting (f : Workgroup → Workgroup) : (s.modCw f).fitting = s.fitting := rfl
@[simp] theorem State.modCw_mem (f : Workgroup → Workgroup) : (s.modCw f).mem = s.mem := rfl
@[simp] theorem State.modCw_poison (f : Workgroup → Workgroup) : (s.modCw f).poison = s.poison := rfl
@[simp] theorem State.modCw_modified (f : Workgroup → Workgroup) : (s.modCw f).modified = s.modified := rfl
@[simp] theorem State.modCw_l1 (f : Workgroup → Workgroup) : (s.modCw f).l1 = s.l1 := rfl
@[simp] theorem State.modCw_l2 (f : Workgroup → Workgroup) : (s.modCw f).l2 = s.l2 := rfl
@[simp] theorem State.modCw_dir (f : Workgroup → Workgroup) : (s.modCw f).dir = s.dir := rfl
@[simp] theorem State.modCw_snoop (f : Workgroup → Workgroup) : (s.modCw f).snoop = s.snoop := rfl
@[simp] theorem State.modCw_remote (f : Workgroup → Workgroup) : (s.modCw f).remote = s.remote := rfl
@[simp] theorem State.modCw_asked (f : Workgroup → Workgroup) : (s.modCw f).asked = s.asked := rfl
@[simp] theorem State.modCw_tlb (f : Workgroup → Workgroup) : (s.modCw f).tlb = s.tlb := rfl
@[simp] theorem State.modCw_clock (f : Workgroup → Workgroup) : (s.modCw f).clock = s.clock := rfl
@[simp] theorem State.modCw_bar (f : Workgroup → Workgroup) : (s.modCw f).bar = s.bar := rfl
@[simp] theorem State.modCw_invDone (f : Workgroup → Workgroup) : (s.modCw f).invDone = s.invDone := rfl
@[simp] theorem State.modCw_invPending (f : Workgroup → Workgroup) : (s.modCw f).invPending = s.invPending := rfl
@[simp] theorem State.modCw_counters (f : Workgroup → Workgroup) : (s.modCw f).counters = s.counters := rfl
@[simp] theorem State.modCw_ctxs (f : Workgroup → Workgroup) : (s.modCw f).ctxs = s.ctxs := rfl
@[simp] theorem State.modCw_images (f : Workgroup → Workgroup) : (s.modCw f).images = s.images := rfl
@[simp] theorem State.modCw_groups (f : Workgroup → Workgroup) : (s.modCw f).groups = s.groups := rfl
@[simp] theorem State.modCw_gangs (f : Workgroup → Workgroup) : (s.modCw f).gangs = s.gangs := rfl
@[simp] theorem State.modCw_leftovers (f : Workgroup → Workgroup) : (s.modCw f).leftovers = s.leftovers := rfl
@[simp] theorem State.modCw_cmds (f : Workgroup → Workgroup) : (s.modCw f).cmds = s.cmds := rfl
@[simp] theorem State.modCw_faults (f : Workgroup → Workgroup) : (s.modCw f).faults = s.faults := rfl
@[simp] theorem State.modCw_kills (f : Workgroup → Workgroup) : (s.modCw f).kills = s.kills := rfl
@[simp] theorem State.modCw_kites (f : Workgroup → Workgroup) : (s.modCw f).kites = s.kites := rfl
@[simp] theorem State.modCw_saved (f : Workgroup → Workgroup) : (s.modCw f).saved = s.saved := rfl
@[simp] theorem State.modCw_seals (f : Workgroup → Workgroup) : (s.modCw f).seals = s.seals := rfl
@[simp] theorem State.modCw_candidates (f : Workgroup → Workgroup) : (s.modCw f).candidates = s.candidates := rfl
@[simp] theorem State.modCw_reached (f : Workgroup → Workgroup) : (s.modCw f).reached = s.reached := rfl
@[simp] theorem State.modCw_waves (f : Workgroup → Workgroup) : (s.modCw f).waves = s.waves := rfl
@[simp] theorem State.modCw_work (f : Workgroup → Workgroup) : (s.modCw f).work = s.work := rfl
@[simp] theorem State.modCw_budgets (f : Workgroup → Workgroup) : (s.modCw f).budgets = s.budgets := rfl
@[simp] theorem State.modCw_stopped (f : Workgroup → Workgroup) : (s.modCw f).stopped = s.stopped := rfl
@[simp] theorem State.modCw_ordered (f : Workgroup → Workgroup) : (s.modCw f).ordered = s.ordered := rfl
@[simp] theorem State.modCw_queued (f : Workgroup → Workgroup) : (s.modCw f).queued = s.queued := rfl
@[simp] theorem State.modCw_orders (f : Workgroup → Workgroup) : (s.modCw f).orders = s.orders := rfl
@[simp] theorem State.modCw_reserved (f : Workgroup → Workgroup) : (s.modCw f).reserved = s.reserved := rfl
@[simp] theorem State.modCw_gangWait (f : Workgroup → Workgroup) : (s.modCw f).gangWait = s.gangWait := rfl
@[simp] theorem State.modCw_lastEpoch (f : Workgroup → Workgroup) : (s.modCw f).lastEpoch = s.lastEpoch := rfl
@[simp] theorem State.modCw_lastStart (f : Workgroup → Workgroup) : (s.modCw f).lastStart = s.lastStart := rfl
@[simp] theorem State.modCw_collectives (f : Workgroup → Workgroup) : (s.modCw f).collectives = s.collectives := rfl
@[simp] theorem State.modCw_pushers (f : Workgroup → Workgroup) : (s.modCw f).pushers = s.pushers := rfl
@[simp] theorem State.modCw_retired (f : Workgroup → Workgroup) : (s.modCw f).retired = s.retired := rfl
@[simp] theorem State.modCw_heldEvents (f : Workgroup → Workgroup) : (s.modCw f).heldEvents = s.heldEvents := rfl
@[simp] theorem State.modCw_errlog (f : Workgroup → Workgroup) : (s.modCw f).errlog = s.errlog := rfl
@[simp] theorem State.modCw_rseq (f : Workgroup → Workgroup) : (s.modCw f).rseq = s.rseq := rfl
@[simp] theorem State.modCw_scrubs (f : Workgroup → Workgroup) : (s.modCw f).scrubs = s.scrubs := rfl
@[simp] theorem State.modCw_spdm (f : Workgroup → Workgroup) : (s.modCw f).spdm = s.spdm := rfl
@[simp] theorem State.modCw_tasks (f : Workgroup → Workgroup) : (s.modCw f).tasks = s.tasks := rfl
@[simp] theorem State.modCw_late (f : Workgroup → Workgroup) : (s.modCw f).late = s.late := rfl
@[simp] theorem State.modCw_taskTails (f : Workgroup → Workgroup) : (s.modCw f).taskTails = s.taskTails := rfl
@[simp] theorem State.modCw_lost (f : Workgroup → Workgroup) : (s.modCw f).lost = s.lost := rfl
@[simp] theorem State.modCw_domains (f : Workgroup → Workgroup) : (s.modCw f).domains = s.domains := rfl
@[simp] theorem State.modCw_viralDevice (f : Workgroup → Workgroup) : (s.modCw f).viralDevice = s.viralDevice := rfl
@[simp] theorem State.modCw_power (f : Workgroup → Workgroup) : (s.modCw f).power = s.power := rfl
@[simp] theorem State.modCw_peerId (f : Workgroup → Workgroup) : (s.modCw f).peerId = s.peerId := rfl
@[simp] theorem State.modCw_boot (f : Workgroup → Workgroup) : (s.modCw f).boot = s.boot := rfl
@[simp] theorem State.modCw_nextId (f : Workgroup → Workgroup) : (s.modCw f).nextId = s.nextId := rfl
@[simp] theorem State.modCw_nextTag (f : Workgroup → Workgroup) : (s.modCw f).nextTag = s.nextTag := rfl
@[simp] theorem State.modCw_agenda (f : Workgroup → Workgroup) : (s.modCw f).agenda = s.agenda := rfl
@[simp] theorem State.modCw_cur (f : Workgroup → Workgroup) : (s.modCw f).cur = s.cur := rfl
@[simp] theorem State.modCw_freeCtr (f : Workgroup → Workgroup) : (s.modCw f).freeCtr = s.freeCtr := rfl
@[simp] theorem State.modCw_out (f : Workgroup → Workgroup) : (s.modCw f).out = s.out := rfl

/-! ### `modCtx` -/

@[simp] theorem State.modCtx_fitting (n : Nat) (f : Ctx → Ctx) : (s.modCtx n f).fitting = s.fitting := rfl
@[simp] theorem State.modCtx_mem (n : Nat) (f : Ctx → Ctx) : (s.modCtx n f).mem = s.mem := rfl
@[simp] theorem State.modCtx_poison (n : Nat) (f : Ctx → Ctx) : (s.modCtx n f).poison = s.poison := rfl
@[simp] theorem State.modCtx_modified (n : Nat) (f : Ctx → Ctx) : (s.modCtx n f).modified = s.modified := rfl
@[simp] theorem State.modCtx_l1 (n : Nat) (f : Ctx → Ctx) : (s.modCtx n f).l1 = s.l1 := rfl
@[simp] theorem State.modCtx_l2 (n : Nat) (f : Ctx → Ctx) : (s.modCtx n f).l2 = s.l2 := rfl
@[simp] theorem State.modCtx_dir (n : Nat) (f : Ctx → Ctx) : (s.modCtx n f).dir = s.dir := rfl
@[simp] theorem State.modCtx_snoop (n : Nat) (f : Ctx → Ctx) : (s.modCtx n f).snoop = s.snoop := rfl
@[simp] theorem State.modCtx_remote (n : Nat) (f : Ctx → Ctx) : (s.modCtx n f).remote = s.remote := rfl
@[simp] theorem State.modCtx_asked (n : Nat) (f : Ctx → Ctx) : (s.modCtx n f).asked = s.asked := rfl
@[simp] theorem State.modCtx_tlb (n : Nat) (f : Ctx → Ctx) : (s.modCtx n f).tlb = s.tlb := rfl
@[simp] theorem State.modCtx_clock (n : Nat) (f : Ctx → Ctx) : (s.modCtx n f).clock = s.clock := rfl
@[simp] theorem State.modCtx_bar (n : Nat) (f : Ctx → Ctx) : (s.modCtx n f).bar = s.bar := rfl
@[simp] theorem State.modCtx_invDone (n : Nat) (f : Ctx → Ctx) : (s.modCtx n f).invDone = s.invDone := rfl
@[simp] theorem State.modCtx_invPending (n : Nat) (f : Ctx → Ctx) : (s.modCtx n f).invPending = s.invPending := rfl
@[simp] theorem State.modCtx_counters (n : Nat) (f : Ctx → Ctx) : (s.modCtx n f).counters = s.counters := rfl
@[simp] theorem State.modCtx_ctxs (n : Nat) (f : Ctx → Ctx) : (s.modCtx n f).ctxs = s.ctxs.map (fun c => if c.num = n then f c else c) := rfl
@[simp] theorem State.modCtx_images (n : Nat) (f : Ctx → Ctx) : (s.modCtx n f).images = s.images := rfl
@[simp] theorem State.modCtx_wgs (n : Nat) (f : Ctx → Ctx) : (s.modCtx n f).wgs = s.wgs := rfl
@[simp] theorem State.modCtx_groups (n : Nat) (f : Ctx → Ctx) : (s.modCtx n f).groups = s.groups := rfl
@[simp] theorem State.modCtx_gangs (n : Nat) (f : Ctx → Ctx) : (s.modCtx n f).gangs = s.gangs := rfl
@[simp] theorem State.modCtx_leftovers (n : Nat) (f : Ctx → Ctx) : (s.modCtx n f).leftovers = s.leftovers := rfl
@[simp] theorem State.modCtx_cmds (n : Nat) (f : Ctx → Ctx) : (s.modCtx n f).cmds = s.cmds := rfl
@[simp] theorem State.modCtx_faults (n : Nat) (f : Ctx → Ctx) : (s.modCtx n f).faults = s.faults := rfl
@[simp] theorem State.modCtx_kills (n : Nat) (f : Ctx → Ctx) : (s.modCtx n f).kills = s.kills := rfl
@[simp] theorem State.modCtx_kites (n : Nat) (f : Ctx → Ctx) : (s.modCtx n f).kites = s.kites := rfl
@[simp] theorem State.modCtx_saved (n : Nat) (f : Ctx → Ctx) : (s.modCtx n f).saved = s.saved := rfl
@[simp] theorem State.modCtx_seals (n : Nat) (f : Ctx → Ctx) : (s.modCtx n f).seals = s.seals := rfl
@[simp] theorem State.modCtx_candidates (n : Nat) (f : Ctx → Ctx) : (s.modCtx n f).candidates = s.candidates := rfl
@[simp] theorem State.modCtx_reached (n : Nat) (f : Ctx → Ctx) : (s.modCtx n f).reached = s.reached := rfl
@[simp] theorem State.modCtx_waves (n : Nat) (f : Ctx → Ctx) : (s.modCtx n f).waves = s.waves := rfl
@[simp] theorem State.modCtx_work (n : Nat) (f : Ctx → Ctx) : (s.modCtx n f).work = s.work := rfl
@[simp] theorem State.modCtx_budgets (n : Nat) (f : Ctx → Ctx) : (s.modCtx n f).budgets = s.budgets := rfl
@[simp] theorem State.modCtx_stopped (n : Nat) (f : Ctx → Ctx) : (s.modCtx n f).stopped = s.stopped := rfl
@[simp] theorem State.modCtx_ordered (n : Nat) (f : Ctx → Ctx) : (s.modCtx n f).ordered = s.ordered := rfl
@[simp] theorem State.modCtx_queued (n : Nat) (f : Ctx → Ctx) : (s.modCtx n f).queued = s.queued := rfl
@[simp] theorem State.modCtx_orders (n : Nat) (f : Ctx → Ctx) : (s.modCtx n f).orders = s.orders := rfl
@[simp] theorem State.modCtx_reserved (n : Nat) (f : Ctx → Ctx) : (s.modCtx n f).reserved = s.reserved := rfl
@[simp] theorem State.modCtx_gangWait (n : Nat) (f : Ctx → Ctx) : (s.modCtx n f).gangWait = s.gangWait := rfl
@[simp] theorem State.modCtx_lastEpoch (n : Nat) (f : Ctx → Ctx) : (s.modCtx n f).lastEpoch = s.lastEpoch := rfl
@[simp] theorem State.modCtx_lastStart (n : Nat) (f : Ctx → Ctx) : (s.modCtx n f).lastStart = s.lastStart := rfl
@[simp] theorem State.modCtx_collectives (n : Nat) (f : Ctx → Ctx) : (s.modCtx n f).collectives = s.collectives := rfl
@[simp] theorem State.modCtx_pushers (n : Nat) (f : Ctx → Ctx) : (s.modCtx n f).pushers = s.pushers := rfl
@[simp] theorem State.modCtx_retired (n : Nat) (f : Ctx → Ctx) : (s.modCtx n f).retired = s.retired := rfl
@[simp] theorem State.modCtx_heldEvents (n : Nat) (f : Ctx → Ctx) : (s.modCtx n f).heldEvents = s.heldEvents := rfl
@[simp] theorem State.modCtx_errlog (n : Nat) (f : Ctx → Ctx) : (s.modCtx n f).errlog = s.errlog := rfl
@[simp] theorem State.modCtx_rseq (n : Nat) (f : Ctx → Ctx) : (s.modCtx n f).rseq = s.rseq := rfl
@[simp] theorem State.modCtx_scrubs (n : Nat) (f : Ctx → Ctx) : (s.modCtx n f).scrubs = s.scrubs := rfl
@[simp] theorem State.modCtx_spdm (n : Nat) (f : Ctx → Ctx) : (s.modCtx n f).spdm = s.spdm := rfl
@[simp] theorem State.modCtx_tasks (n : Nat) (f : Ctx → Ctx) : (s.modCtx n f).tasks = s.tasks := rfl
@[simp] theorem State.modCtx_late (n : Nat) (f : Ctx → Ctx) : (s.modCtx n f).late = s.late := rfl
@[simp] theorem State.modCtx_taskTails (n : Nat) (f : Ctx → Ctx) : (s.modCtx n f).taskTails = s.taskTails := rfl
@[simp] theorem State.modCtx_lost (n : Nat) (f : Ctx → Ctx) : (s.modCtx n f).lost = s.lost := rfl
@[simp] theorem State.modCtx_domains (n : Nat) (f : Ctx → Ctx) : (s.modCtx n f).domains = s.domains := rfl
@[simp] theorem State.modCtx_viralDevice (n : Nat) (f : Ctx → Ctx) : (s.modCtx n f).viralDevice = s.viralDevice := rfl
@[simp] theorem State.modCtx_power (n : Nat) (f : Ctx → Ctx) : (s.modCtx n f).power = s.power := rfl
@[simp] theorem State.modCtx_peerId (n : Nat) (f : Ctx → Ctx) : (s.modCtx n f).peerId = s.peerId := rfl
@[simp] theorem State.modCtx_boot (n : Nat) (f : Ctx → Ctx) : (s.modCtx n f).boot = s.boot := rfl
@[simp] theorem State.modCtx_nextId (n : Nat) (f : Ctx → Ctx) : (s.modCtx n f).nextId = s.nextId := rfl
@[simp] theorem State.modCtx_nextTag (n : Nat) (f : Ctx → Ctx) : (s.modCtx n f).nextTag = s.nextTag := rfl
@[simp] theorem State.modCtx_agenda (n : Nat) (f : Ctx → Ctx) : (s.modCtx n f).agenda = s.agenda := rfl
@[simp] theorem State.modCtx_cur (n : Nat) (f : Ctx → Ctx) : (s.modCtx n f).cur = s.cur := rfl
@[simp] theorem State.modCtx_freeCtr (n : Nat) (f : Ctx → Ctx) : (s.modCtx n f).freeCtr = s.freeCtr := rfl
@[simp] theorem State.modCtx_out (n : Nat) (f : Ctx → Ctx) : (s.modCtx n f).out = s.out := rfl

/-! ### `modCmd` -/

@[simp] theorem State.modCmd_fitting (id : Nat) (f : Cmd → Cmd) : (s.modCmd id f).fitting = s.fitting := rfl
@[simp] theorem State.modCmd_mem (id : Nat) (f : Cmd → Cmd) : (s.modCmd id f).mem = s.mem := rfl
@[simp] theorem State.modCmd_poison (id : Nat) (f : Cmd → Cmd) : (s.modCmd id f).poison = s.poison := rfl
@[simp] theorem State.modCmd_modified (id : Nat) (f : Cmd → Cmd) : (s.modCmd id f).modified = s.modified := rfl
@[simp] theorem State.modCmd_l1 (id : Nat) (f : Cmd → Cmd) : (s.modCmd id f).l1 = s.l1 := rfl
@[simp] theorem State.modCmd_l2 (id : Nat) (f : Cmd → Cmd) : (s.modCmd id f).l2 = s.l2 := rfl
@[simp] theorem State.modCmd_dir (id : Nat) (f : Cmd → Cmd) : (s.modCmd id f).dir = s.dir := rfl
@[simp] theorem State.modCmd_snoop (id : Nat) (f : Cmd → Cmd) : (s.modCmd id f).snoop = s.snoop := rfl
@[simp] theorem State.modCmd_remote (id : Nat) (f : Cmd → Cmd) : (s.modCmd id f).remote = s.remote := rfl
@[simp] theorem State.modCmd_asked (id : Nat) (f : Cmd → Cmd) : (s.modCmd id f).asked = s.asked := rfl
@[simp] theorem State.modCmd_tlb (id : Nat) (f : Cmd → Cmd) : (s.modCmd id f).tlb = s.tlb := rfl
@[simp] theorem State.modCmd_clock (id : Nat) (f : Cmd → Cmd) : (s.modCmd id f).clock = s.clock := rfl
@[simp] theorem State.modCmd_bar (id : Nat) (f : Cmd → Cmd) : (s.modCmd id f).bar = s.bar := rfl
@[simp] theorem State.modCmd_invDone (id : Nat) (f : Cmd → Cmd) : (s.modCmd id f).invDone = s.invDone := rfl
@[simp] theorem State.modCmd_invPending (id : Nat) (f : Cmd → Cmd) : (s.modCmd id f).invPending = s.invPending := rfl
@[simp] theorem State.modCmd_counters (id : Nat) (f : Cmd → Cmd) : (s.modCmd id f).counters = s.counters := rfl
@[simp] theorem State.modCmd_ctxs (id : Nat) (f : Cmd → Cmd) : (s.modCmd id f).ctxs = s.ctxs := rfl
@[simp] theorem State.modCmd_images (id : Nat) (f : Cmd → Cmd) : (s.modCmd id f).images = s.images := rfl
@[simp] theorem State.modCmd_wgs (id : Nat) (f : Cmd → Cmd) : (s.modCmd id f).wgs = s.wgs := rfl
@[simp] theorem State.modCmd_groups (id : Nat) (f : Cmd → Cmd) : (s.modCmd id f).groups = s.groups := rfl
@[simp] theorem State.modCmd_gangs (id : Nat) (f : Cmd → Cmd) : (s.modCmd id f).gangs = s.gangs := rfl
@[simp] theorem State.modCmd_leftovers (id : Nat) (f : Cmd → Cmd) : (s.modCmd id f).leftovers = s.leftovers := rfl
@[simp] theorem State.modCmd_cmds (id : Nat) (f : Cmd → Cmd) : (s.modCmd id f).cmds = s.cmds.map (fun c => if c.id = id then f c else c) := rfl
@[simp] theorem State.modCmd_faults (id : Nat) (f : Cmd → Cmd) : (s.modCmd id f).faults = s.faults := rfl
@[simp] theorem State.modCmd_kills (id : Nat) (f : Cmd → Cmd) : (s.modCmd id f).kills = s.kills := rfl
@[simp] theorem State.modCmd_kites (id : Nat) (f : Cmd → Cmd) : (s.modCmd id f).kites = s.kites := rfl
@[simp] theorem State.modCmd_saved (id : Nat) (f : Cmd → Cmd) : (s.modCmd id f).saved = s.saved := rfl
@[simp] theorem State.modCmd_seals (id : Nat) (f : Cmd → Cmd) : (s.modCmd id f).seals = s.seals := rfl
@[simp] theorem State.modCmd_candidates (id : Nat) (f : Cmd → Cmd) : (s.modCmd id f).candidates = s.candidates := rfl
@[simp] theorem State.modCmd_reached (id : Nat) (f : Cmd → Cmd) : (s.modCmd id f).reached = s.reached := rfl
@[simp] theorem State.modCmd_waves (id : Nat) (f : Cmd → Cmd) : (s.modCmd id f).waves = s.waves := rfl
@[simp] theorem State.modCmd_work (id : Nat) (f : Cmd → Cmd) : (s.modCmd id f).work = s.work := rfl
@[simp] theorem State.modCmd_budgets (id : Nat) (f : Cmd → Cmd) : (s.modCmd id f).budgets = s.budgets := rfl
@[simp] theorem State.modCmd_stopped (id : Nat) (f : Cmd → Cmd) : (s.modCmd id f).stopped = s.stopped := rfl
@[simp] theorem State.modCmd_ordered (id : Nat) (f : Cmd → Cmd) : (s.modCmd id f).ordered = s.ordered := rfl
@[simp] theorem State.modCmd_queued (id : Nat) (f : Cmd → Cmd) : (s.modCmd id f).queued = s.queued := rfl
@[simp] theorem State.modCmd_orders (id : Nat) (f : Cmd → Cmd) : (s.modCmd id f).orders = s.orders := rfl
@[simp] theorem State.modCmd_reserved (id : Nat) (f : Cmd → Cmd) : (s.modCmd id f).reserved = s.reserved := rfl
@[simp] theorem State.modCmd_gangWait (id : Nat) (f : Cmd → Cmd) : (s.modCmd id f).gangWait = s.gangWait := rfl
@[simp] theorem State.modCmd_lastEpoch (id : Nat) (f : Cmd → Cmd) : (s.modCmd id f).lastEpoch = s.lastEpoch := rfl
@[simp] theorem State.modCmd_lastStart (id : Nat) (f : Cmd → Cmd) : (s.modCmd id f).lastStart = s.lastStart := rfl
@[simp] theorem State.modCmd_collectives (id : Nat) (f : Cmd → Cmd) : (s.modCmd id f).collectives = s.collectives := rfl
@[simp] theorem State.modCmd_pushers (id : Nat) (f : Cmd → Cmd) : (s.modCmd id f).pushers = s.pushers := rfl
@[simp] theorem State.modCmd_retired (id : Nat) (f : Cmd → Cmd) : (s.modCmd id f).retired = s.retired := rfl
@[simp] theorem State.modCmd_heldEvents (id : Nat) (f : Cmd → Cmd) : (s.modCmd id f).heldEvents = s.heldEvents := rfl
@[simp] theorem State.modCmd_errlog (id : Nat) (f : Cmd → Cmd) : (s.modCmd id f).errlog = s.errlog := rfl
@[simp] theorem State.modCmd_rseq (id : Nat) (f : Cmd → Cmd) : (s.modCmd id f).rseq = s.rseq := rfl
@[simp] theorem State.modCmd_scrubs (id : Nat) (f : Cmd → Cmd) : (s.modCmd id f).scrubs = s.scrubs := rfl
@[simp] theorem State.modCmd_spdm (id : Nat) (f : Cmd → Cmd) : (s.modCmd id f).spdm = s.spdm := rfl
@[simp] theorem State.modCmd_tasks (id : Nat) (f : Cmd → Cmd) : (s.modCmd id f).tasks = s.tasks := rfl
@[simp] theorem State.modCmd_late (id : Nat) (f : Cmd → Cmd) : (s.modCmd id f).late = s.late := rfl
@[simp] theorem State.modCmd_taskTails (id : Nat) (f : Cmd → Cmd) : (s.modCmd id f).taskTails = s.taskTails := rfl
@[simp] theorem State.modCmd_lost (id : Nat) (f : Cmd → Cmd) : (s.modCmd id f).lost = s.lost := rfl
@[simp] theorem State.modCmd_domains (id : Nat) (f : Cmd → Cmd) : (s.modCmd id f).domains = s.domains := rfl
@[simp] theorem State.modCmd_viralDevice (id : Nat) (f : Cmd → Cmd) : (s.modCmd id f).viralDevice = s.viralDevice := rfl
@[simp] theorem State.modCmd_power (id : Nat) (f : Cmd → Cmd) : (s.modCmd id f).power = s.power := rfl
@[simp] theorem State.modCmd_peerId (id : Nat) (f : Cmd → Cmd) : (s.modCmd id f).peerId = s.peerId := rfl
@[simp] theorem State.modCmd_boot (id : Nat) (f : Cmd → Cmd) : (s.modCmd id f).boot = s.boot := rfl
@[simp] theorem State.modCmd_nextId (id : Nat) (f : Cmd → Cmd) : (s.modCmd id f).nextId = s.nextId := rfl
@[simp] theorem State.modCmd_nextTag (id : Nat) (f : Cmd → Cmd) : (s.modCmd id f).nextTag = s.nextTag := rfl
@[simp] theorem State.modCmd_agenda (id : Nat) (f : Cmd → Cmd) : (s.modCmd id f).agenda = s.agenda := rfl
@[simp] theorem State.modCmd_cur (id : Nat) (f : Cmd → Cmd) : (s.modCmd id f).cur = s.cur := rfl
@[simp] theorem State.modCmd_freeCtr (id : Nat) (f : Cmd → Cmd) : (s.modCmd id f).freeCtr = s.freeCtr := rfl
@[simp] theorem State.modCmd_out (id : Nat) (f : Cmd → Cmd) : (s.modCmd id f).out = s.out := rfl

/-! ### `dropCmd` -/

@[simp] theorem State.dropCmd_fitting (id : Nat) : (s.dropCmd id).fitting = s.fitting := rfl
@[simp] theorem State.dropCmd_mem (id : Nat) : (s.dropCmd id).mem = s.mem := rfl
@[simp] theorem State.dropCmd_poison (id : Nat) : (s.dropCmd id).poison = s.poison := rfl
@[simp] theorem State.dropCmd_modified (id : Nat) : (s.dropCmd id).modified = s.modified := rfl
@[simp] theorem State.dropCmd_l1 (id : Nat) : (s.dropCmd id).l1 = s.l1 := rfl
@[simp] theorem State.dropCmd_l2 (id : Nat) : (s.dropCmd id).l2 = s.l2 := rfl
@[simp] theorem State.dropCmd_dir (id : Nat) : (s.dropCmd id).dir = s.dir := rfl
@[simp] theorem State.dropCmd_snoop (id : Nat) : (s.dropCmd id).snoop = s.snoop := rfl
@[simp] theorem State.dropCmd_remote (id : Nat) : (s.dropCmd id).remote = s.remote := rfl
@[simp] theorem State.dropCmd_asked (id : Nat) : (s.dropCmd id).asked = s.asked := rfl
@[simp] theorem State.dropCmd_tlb (id : Nat) : (s.dropCmd id).tlb = s.tlb := rfl
@[simp] theorem State.dropCmd_clock (id : Nat) : (s.dropCmd id).clock = s.clock := rfl
@[simp] theorem State.dropCmd_bar (id : Nat) : (s.dropCmd id).bar = s.bar := rfl
@[simp] theorem State.dropCmd_invDone (id : Nat) : (s.dropCmd id).invDone = s.invDone := rfl
@[simp] theorem State.dropCmd_invPending (id : Nat) : (s.dropCmd id).invPending = s.invPending := rfl
@[simp] theorem State.dropCmd_counters (id : Nat) : (s.dropCmd id).counters = s.counters := rfl
@[simp] theorem State.dropCmd_ctxs (id : Nat) : (s.dropCmd id).ctxs = s.ctxs := rfl
@[simp] theorem State.dropCmd_images (id : Nat) : (s.dropCmd id).images = s.images := rfl
@[simp] theorem State.dropCmd_wgs (id : Nat) : (s.dropCmd id).wgs = s.wgs := rfl
@[simp] theorem State.dropCmd_groups (id : Nat) : (s.dropCmd id).groups = s.groups := rfl
@[simp] theorem State.dropCmd_gangs (id : Nat) : (s.dropCmd id).gangs = s.gangs := rfl
@[simp] theorem State.dropCmd_leftovers (id : Nat) : (s.dropCmd id).leftovers = s.leftovers := rfl
@[simp] theorem State.dropCmd_cmds (id : Nat) : (s.dropCmd id).cmds = s.cmds.filter (fun c => c.id ≠ id) := rfl
@[simp] theorem State.dropCmd_faults (id : Nat) : (s.dropCmd id).faults = s.faults := rfl
@[simp] theorem State.dropCmd_kills (id : Nat) : (s.dropCmd id).kills = s.kills := rfl
@[simp] theorem State.dropCmd_kites (id : Nat) : (s.dropCmd id).kites = s.kites := rfl
@[simp] theorem State.dropCmd_saved (id : Nat) : (s.dropCmd id).saved = s.saved := rfl
@[simp] theorem State.dropCmd_seals (id : Nat) : (s.dropCmd id).seals = s.seals := rfl
@[simp] theorem State.dropCmd_candidates (id : Nat) : (s.dropCmd id).candidates = s.candidates := rfl
@[simp] theorem State.dropCmd_reached (id : Nat) : (s.dropCmd id).reached = s.reached := rfl
@[simp] theorem State.dropCmd_waves (id : Nat) : (s.dropCmd id).waves = s.waves := rfl
@[simp] theorem State.dropCmd_work (id : Nat) : (s.dropCmd id).work = s.work := rfl
@[simp] theorem State.dropCmd_budgets (id : Nat) : (s.dropCmd id).budgets = s.budgets := rfl
@[simp] theorem State.dropCmd_stopped (id : Nat) : (s.dropCmd id).stopped = s.stopped := rfl
@[simp] theorem State.dropCmd_ordered (id : Nat) : (s.dropCmd id).ordered = s.ordered := rfl
@[simp] theorem State.dropCmd_queued (id : Nat) : (s.dropCmd id).queued = s.queued := rfl
@[simp] theorem State.dropCmd_orders (id : Nat) : (s.dropCmd id).orders = s.orders := rfl
@[simp] theorem State.dropCmd_reserved (id : Nat) : (s.dropCmd id).reserved = s.reserved := rfl
@[simp] theorem State.dropCmd_gangWait (id : Nat) : (s.dropCmd id).gangWait = s.gangWait := rfl
@[simp] theorem State.dropCmd_lastEpoch (id : Nat) : (s.dropCmd id).lastEpoch = s.lastEpoch := rfl
@[simp] theorem State.dropCmd_lastStart (id : Nat) : (s.dropCmd id).lastStart = s.lastStart := rfl
@[simp] theorem State.dropCmd_collectives (id : Nat) : (s.dropCmd id).collectives = s.collectives := rfl
@[simp] theorem State.dropCmd_pushers (id : Nat) : (s.dropCmd id).pushers = s.pushers := rfl
@[simp] theorem State.dropCmd_retired (id : Nat) : (s.dropCmd id).retired = s.retired := rfl
@[simp] theorem State.dropCmd_heldEvents (id : Nat) : (s.dropCmd id).heldEvents = s.heldEvents := rfl
@[simp] theorem State.dropCmd_errlog (id : Nat) : (s.dropCmd id).errlog = s.errlog := rfl
@[simp] theorem State.dropCmd_rseq (id : Nat) : (s.dropCmd id).rseq = s.rseq := rfl
@[simp] theorem State.dropCmd_scrubs (id : Nat) : (s.dropCmd id).scrubs = s.scrubs := rfl
@[simp] theorem State.dropCmd_spdm (id : Nat) : (s.dropCmd id).spdm = s.spdm := rfl
@[simp] theorem State.dropCmd_tasks (id : Nat) : (s.dropCmd id).tasks = s.tasks := rfl
@[simp] theorem State.dropCmd_late (id : Nat) : (s.dropCmd id).late = s.late := rfl
@[simp] theorem State.dropCmd_taskTails (id : Nat) : (s.dropCmd id).taskTails = s.taskTails := rfl
@[simp] theorem State.dropCmd_lost (id : Nat) : (s.dropCmd id).lost = s.lost := rfl
@[simp] theorem State.dropCmd_domains (id : Nat) : (s.dropCmd id).domains = s.domains := rfl
@[simp] theorem State.dropCmd_viralDevice (id : Nat) : (s.dropCmd id).viralDevice = s.viralDevice := rfl
@[simp] theorem State.dropCmd_power (id : Nat) : (s.dropCmd id).power = s.power := rfl
@[simp] theorem State.dropCmd_peerId (id : Nat) : (s.dropCmd id).peerId = s.peerId := rfl
@[simp] theorem State.dropCmd_boot (id : Nat) : (s.dropCmd id).boot = s.boot := rfl
@[simp] theorem State.dropCmd_nextId (id : Nat) : (s.dropCmd id).nextId = s.nextId := rfl
@[simp] theorem State.dropCmd_nextTag (id : Nat) : (s.dropCmd id).nextTag = s.nextTag := rfl
@[simp] theorem State.dropCmd_agenda (id : Nat) : (s.dropCmd id).agenda = s.agenda := rfl
@[simp] theorem State.dropCmd_cur (id : Nat) : (s.dropCmd id).cur = s.cur := rfl
@[simp] theorem State.dropCmd_freeCtr (id : Nat) : (s.dropCmd id).freeCtr = s.freeCtr := rfl
@[simp] theorem State.dropCmd_out (id : Nat) : (s.dropCmd id).out = s.out := rfl

/-! ### `wrN` -/

@[simp] theorem State.wrN_fitting (a : Nat) (l : List Byte) : (s.wrN a l).fitting = s.fitting := rfl
@[simp] theorem State.wrN_mem (a : Nat) (l : List Byte) : (s.wrN a l).mem = writeBytes s.mem a l := rfl
@[simp] theorem State.wrN_poison (a : Nat) (l : List Byte) : (s.wrN a l).poison = s.poison := rfl
@[simp] theorem State.wrN_modified (a : Nat) (l : List Byte) : (s.wrN a l).modified = s.modified := rfl
@[simp] theorem State.wrN_l1 (a : Nat) (l : List Byte) : (s.wrN a l).l1 = s.l1 := rfl
@[simp] theorem State.wrN_l2 (a : Nat) (l : List Byte) : (s.wrN a l).l2 = s.l2 := rfl
@[simp] theorem State.wrN_dir (a : Nat) (l : List Byte) : (s.wrN a l).dir = s.dir := rfl
@[simp] theorem State.wrN_snoop (a : Nat) (l : List Byte) : (s.wrN a l).snoop = s.snoop := rfl
@[simp] theorem State.wrN_remote (a : Nat) (l : List Byte) : (s.wrN a l).remote = s.remote := rfl
@[simp] theorem State.wrN_asked (a : Nat) (l : List Byte) : (s.wrN a l).asked = s.asked := rfl
@[simp] theorem State.wrN_tlb (a : Nat) (l : List Byte) : (s.wrN a l).tlb = s.tlb := rfl
@[simp] theorem State.wrN_clock (a : Nat) (l : List Byte) : (s.wrN a l).clock = s.clock := rfl
@[simp] theorem State.wrN_bar (a : Nat) (l : List Byte) : (s.wrN a l).bar = s.bar := rfl
@[simp] theorem State.wrN_invDone (a : Nat) (l : List Byte) : (s.wrN a l).invDone = s.invDone := rfl
@[simp] theorem State.wrN_invPending (a : Nat) (l : List Byte) : (s.wrN a l).invPending = s.invPending := rfl
@[simp] theorem State.wrN_counters (a : Nat) (l : List Byte) : (s.wrN a l).counters = s.counters := rfl
@[simp] theorem State.wrN_ctxs (a : Nat) (l : List Byte) : (s.wrN a l).ctxs = s.ctxs := rfl
@[simp] theorem State.wrN_images (a : Nat) (l : List Byte) : (s.wrN a l).images = s.images := rfl
@[simp] theorem State.wrN_wgs (a : Nat) (l : List Byte) : (s.wrN a l).wgs = s.wgs := rfl
@[simp] theorem State.wrN_groups (a : Nat) (l : List Byte) : (s.wrN a l).groups = s.groups := rfl
@[simp] theorem State.wrN_gangs (a : Nat) (l : List Byte) : (s.wrN a l).gangs = s.gangs := rfl
@[simp] theorem State.wrN_leftovers (a : Nat) (l : List Byte) : (s.wrN a l).leftovers = s.leftovers := rfl
@[simp] theorem State.wrN_cmds (a : Nat) (l : List Byte) : (s.wrN a l).cmds = s.cmds := rfl
@[simp] theorem State.wrN_faults (a : Nat) (l : List Byte) : (s.wrN a l).faults = s.faults := rfl
@[simp] theorem State.wrN_kills (a : Nat) (l : List Byte) : (s.wrN a l).kills = s.kills := rfl
@[simp] theorem State.wrN_kites (a : Nat) (l : List Byte) : (s.wrN a l).kites = staleKites s.kites a l.length := rfl
@[simp] theorem State.wrN_saved (a : Nat) (l : List Byte) : (s.wrN a l).saved = s.saved := rfl
@[simp] theorem State.wrN_seals (a : Nat) (l : List Byte) : (s.wrN a l).seals = s.seals := rfl
@[simp] theorem State.wrN_candidates (a : Nat) (l : List Byte) : (s.wrN a l).candidates = s.candidates := rfl
@[simp] theorem State.wrN_reached (a : Nat) (l : List Byte) : (s.wrN a l).reached = s.reached := rfl
@[simp] theorem State.wrN_waves (a : Nat) (l : List Byte) : (s.wrN a l).waves = s.waves := rfl
@[simp] theorem State.wrN_work (a : Nat) (l : List Byte) : (s.wrN a l).work = s.work := rfl
@[simp] theorem State.wrN_budgets (a : Nat) (l : List Byte) : (s.wrN a l).budgets = s.budgets := rfl
@[simp] theorem State.wrN_stopped (a : Nat) (l : List Byte) : (s.wrN a l).stopped = s.stopped := rfl
@[simp] theorem State.wrN_ordered (a : Nat) (l : List Byte) : (s.wrN a l).ordered = s.ordered := rfl
@[simp] theorem State.wrN_queued (a : Nat) (l : List Byte) : (s.wrN a l).queued = s.queued := rfl
@[simp] theorem State.wrN_orders (a : Nat) (l : List Byte) : (s.wrN a l).orders = s.orders := rfl
@[simp] theorem State.wrN_reserved (a : Nat) (l : List Byte) : (s.wrN a l).reserved = s.reserved := rfl
@[simp] theorem State.wrN_gangWait (a : Nat) (l : List Byte) : (s.wrN a l).gangWait = s.gangWait := rfl
@[simp] theorem State.wrN_lastEpoch (a : Nat) (l : List Byte) : (s.wrN a l).lastEpoch = s.lastEpoch := rfl
@[simp] theorem State.wrN_lastStart (a : Nat) (l : List Byte) : (s.wrN a l).lastStart = s.lastStart := rfl
@[simp] theorem State.wrN_collectives (a : Nat) (l : List Byte) : (s.wrN a l).collectives = s.collectives := rfl
@[simp] theorem State.wrN_pushers (a : Nat) (l : List Byte) : (s.wrN a l).pushers = s.pushers := rfl
@[simp] theorem State.wrN_retired (a : Nat) (l : List Byte) : (s.wrN a l).retired = s.retired := rfl
@[simp] theorem State.wrN_heldEvents (a : Nat) (l : List Byte) : (s.wrN a l).heldEvents = s.heldEvents := rfl
@[simp] theorem State.wrN_errlog (a : Nat) (l : List Byte) : (s.wrN a l).errlog = s.errlog := rfl
@[simp] theorem State.wrN_rseq (a : Nat) (l : List Byte) : (s.wrN a l).rseq = s.rseq := rfl
@[simp] theorem State.wrN_scrubs (a : Nat) (l : List Byte) : (s.wrN a l).scrubs = s.scrubs := rfl
@[simp] theorem State.wrN_spdm (a : Nat) (l : List Byte) : (s.wrN a l).spdm = s.spdm := rfl
@[simp] theorem State.wrN_tasks (a : Nat) (l : List Byte) : (s.wrN a l).tasks = s.tasks := rfl
@[simp] theorem State.wrN_late (a : Nat) (l : List Byte) : (s.wrN a l).late = s.late := rfl
@[simp] theorem State.wrN_taskTails (a : Nat) (l : List Byte) : (s.wrN a l).taskTails = s.taskTails := rfl
@[simp] theorem State.wrN_lost (a : Nat) (l : List Byte) : (s.wrN a l).lost = s.lost := rfl
@[simp] theorem State.wrN_domains (a : Nat) (l : List Byte) : (s.wrN a l).domains = s.domains := rfl
@[simp] theorem State.wrN_viralDevice (a : Nat) (l : List Byte) : (s.wrN a l).viralDevice = s.viralDevice := rfl
@[simp] theorem State.wrN_power (a : Nat) (l : List Byte) : (s.wrN a l).power = s.power := rfl
@[simp] theorem State.wrN_peerId (a : Nat) (l : List Byte) : (s.wrN a l).peerId = s.peerId := rfl
@[simp] theorem State.wrN_boot (a : Nat) (l : List Byte) : (s.wrN a l).boot = s.boot := rfl
@[simp] theorem State.wrN_nextId (a : Nat) (l : List Byte) : (s.wrN a l).nextId = s.nextId := rfl
@[simp] theorem State.wrN_nextTag (a : Nat) (l : List Byte) : (s.wrN a l).nextTag = s.nextTag := rfl
@[simp] theorem State.wrN_agenda (a : Nat) (l : List Byte) : (s.wrN a l).agenda = s.agenda := rfl
@[simp] theorem State.wrN_cur (a : Nat) (l : List Byte) : (s.wrN a l).cur = s.cur := rfl
@[simp] theorem State.wrN_freeCtr (a : Nat) (l : List Byte) : (s.wrN a l).freeCtr = s.freeCtr := rfl
@[simp] theorem State.wrN_out (a : Nat) (l : List Byte) : (s.wrN a l).out = s.out := rfl

/-! ### `poke` -/

@[simp] theorem State.poke_fitting (a : Nat) (l : List Byte) : (s.poke a l).fitting = s.fitting := rfl
@[simp] theorem State.poke_mem (a : Nat) (l : List Byte) : (s.poke a l).mem = writeBytes s.mem a l := rfl
@[simp] theorem State.poke_poison (a : Nat) (l : List Byte) : (s.poke a l).poison = s.poison := rfl
@[simp] theorem State.poke_modified (a : Nat) (l : List Byte) : (s.poke a l).modified = s.modified := rfl
@[simp] theorem State.poke_l1 (a : Nat) (l : List Byte) : (s.poke a l).l1 = s.l1 := rfl
@[simp] theorem State.poke_l2 (a : Nat) (l : List Byte) : (s.poke a l).l2 = s.l2 := rfl
@[simp] theorem State.poke_dir (a : Nat) (l : List Byte) : (s.poke a l).dir = s.dir := rfl
@[simp] theorem State.poke_snoop (a : Nat) (l : List Byte) : (s.poke a l).snoop = s.snoop := rfl
@[simp] theorem State.poke_remote (a : Nat) (l : List Byte) : (s.poke a l).remote = s.remote := rfl
@[simp] theorem State.poke_asked (a : Nat) (l : List Byte) : (s.poke a l).asked = s.asked := rfl
@[simp] theorem State.poke_tlb (a : Nat) (l : List Byte) : (s.poke a l).tlb = s.tlb := rfl
@[simp] theorem State.poke_clock (a : Nat) (l : List Byte) : (s.poke a l).clock = s.clock := rfl
@[simp] theorem State.poke_bar (a : Nat) (l : List Byte) : (s.poke a l).bar = s.bar := rfl
@[simp] theorem State.poke_invDone (a : Nat) (l : List Byte) : (s.poke a l).invDone = s.invDone := rfl
@[simp] theorem State.poke_invPending (a : Nat) (l : List Byte) : (s.poke a l).invPending = s.invPending := rfl
@[simp] theorem State.poke_counters (a : Nat) (l : List Byte) : (s.poke a l).counters = s.counters := rfl
@[simp] theorem State.poke_ctxs (a : Nat) (l : List Byte) : (s.poke a l).ctxs = s.ctxs := rfl
@[simp] theorem State.poke_images (a : Nat) (l : List Byte) : (s.poke a l).images = s.images := rfl
@[simp] theorem State.poke_wgs (a : Nat) (l : List Byte) : (s.poke a l).wgs = s.wgs := rfl
@[simp] theorem State.poke_groups (a : Nat) (l : List Byte) : (s.poke a l).groups = s.groups := rfl
@[simp] theorem State.poke_gangs (a : Nat) (l : List Byte) : (s.poke a l).gangs = s.gangs := rfl
@[simp] theorem State.poke_leftovers (a : Nat) (l : List Byte) : (s.poke a l).leftovers = s.leftovers := rfl
@[simp] theorem State.poke_cmds (a : Nat) (l : List Byte) : (s.poke a l).cmds = s.cmds := rfl
@[simp] theorem State.poke_faults (a : Nat) (l : List Byte) : (s.poke a l).faults = s.faults := rfl
@[simp] theorem State.poke_kills (a : Nat) (l : List Byte) : (s.poke a l).kills = s.kills := rfl
@[simp] theorem State.poke_kites (a : Nat) (l : List Byte) : (s.poke a l).kites = s.kites := rfl
@[simp] theorem State.poke_saved (a : Nat) (l : List Byte) : (s.poke a l).saved = s.saved := rfl
@[simp] theorem State.poke_seals (a : Nat) (l : List Byte) : (s.poke a l).seals = s.seals := rfl
@[simp] theorem State.poke_candidates (a : Nat) (l : List Byte) : (s.poke a l).candidates = s.candidates := rfl
@[simp] theorem State.poke_reached (a : Nat) (l : List Byte) : (s.poke a l).reached = s.reached := rfl
@[simp] theorem State.poke_waves (a : Nat) (l : List Byte) : (s.poke a l).waves = s.waves := rfl
@[simp] theorem State.poke_work (a : Nat) (l : List Byte) : (s.poke a l).work = s.work := rfl
@[simp] theorem State.poke_budgets (a : Nat) (l : List Byte) : (s.poke a l).budgets = s.budgets := rfl
@[simp] theorem State.poke_stopped (a : Nat) (l : List Byte) : (s.poke a l).stopped = s.stopped := rfl
@[simp] theorem State.poke_ordered (a : Nat) (l : List Byte) : (s.poke a l).ordered = s.ordered := rfl
@[simp] theorem State.poke_queued (a : Nat) (l : List Byte) : (s.poke a l).queued = s.queued := rfl
@[simp] theorem State.poke_orders (a : Nat) (l : List Byte) : (s.poke a l).orders = s.orders := rfl
@[simp] theorem State.poke_reserved (a : Nat) (l : List Byte) : (s.poke a l).reserved = s.reserved := rfl
@[simp] theorem State.poke_gangWait (a : Nat) (l : List Byte) : (s.poke a l).gangWait = s.gangWait := rfl
@[simp] theorem State.poke_lastEpoch (a : Nat) (l : List Byte) : (s.poke a l).lastEpoch = s.lastEpoch := rfl
@[simp] theorem State.poke_lastStart (a : Nat) (l : List Byte) : (s.poke a l).lastStart = s.lastStart := rfl
@[simp] theorem State.poke_collectives (a : Nat) (l : List Byte) : (s.poke a l).collectives = s.collectives := rfl
@[simp] theorem State.poke_pushers (a : Nat) (l : List Byte) : (s.poke a l).pushers = s.pushers := rfl
@[simp] theorem State.poke_retired (a : Nat) (l : List Byte) : (s.poke a l).retired = s.retired := rfl
@[simp] theorem State.poke_heldEvents (a : Nat) (l : List Byte) : (s.poke a l).heldEvents = s.heldEvents := rfl
@[simp] theorem State.poke_errlog (a : Nat) (l : List Byte) : (s.poke a l).errlog = s.errlog := rfl
@[simp] theorem State.poke_rseq (a : Nat) (l : List Byte) : (s.poke a l).rseq = s.rseq := rfl
@[simp] theorem State.poke_scrubs (a : Nat) (l : List Byte) : (s.poke a l).scrubs = s.scrubs := rfl
@[simp] theorem State.poke_spdm (a : Nat) (l : List Byte) : (s.poke a l).spdm = s.spdm := rfl
@[simp] theorem State.poke_tasks (a : Nat) (l : List Byte) : (s.poke a l).tasks = s.tasks := rfl
@[simp] theorem State.poke_late (a : Nat) (l : List Byte) : (s.poke a l).late = s.late := rfl
@[simp] theorem State.poke_taskTails (a : Nat) (l : List Byte) : (s.poke a l).taskTails = s.taskTails := rfl
@[simp] theorem State.poke_lost (a : Nat) (l : List Byte) : (s.poke a l).lost = s.lost := rfl
@[simp] theorem State.poke_domains (a : Nat) (l : List Byte) : (s.poke a l).domains = s.domains := rfl
@[simp] theorem State.poke_viralDevice (a : Nat) (l : List Byte) : (s.poke a l).viralDevice = s.viralDevice := rfl
@[simp] theorem State.poke_power (a : Nat) (l : List Byte) : (s.poke a l).power = s.power := rfl
@[simp] theorem State.poke_peerId (a : Nat) (l : List Byte) : (s.poke a l).peerId = s.peerId := rfl
@[simp] theorem State.poke_boot (a : Nat) (l : List Byte) : (s.poke a l).boot = s.boot := rfl
@[simp] theorem State.poke_nextId (a : Nat) (l : List Byte) : (s.poke a l).nextId = s.nextId := rfl
@[simp] theorem State.poke_nextTag (a : Nat) (l : List Byte) : (s.poke a l).nextTag = s.nextTag := rfl
@[simp] theorem State.poke_agenda (a : Nat) (l : List Byte) : (s.poke a l).agenda = s.agenda := rfl
@[simp] theorem State.poke_cur (a : Nat) (l : List Byte) : (s.poke a l).cur = s.cur := rfl
@[simp] theorem State.poke_freeCtr (a : Nat) (l : List Byte) : (s.poke a l).freeCtr = s.freeCtr := rfl
@[simp] theorem State.poke_out (a : Nat) (l : List Byte) : (s.poke a l).out = s.out := rfl

/-! ### `wrBig` -/

@[simp] theorem State.wrBig_fitting (a : Nat) (l : List Byte) : (s.wrBig a l).fitting = s.fitting := rfl
@[simp] theorem State.wrBig_mem (a : Nat) (l : List Byte) : (s.wrBig a l).mem = writeRange s.mem a l := rfl
@[simp] theorem State.wrBig_poison (a : Nat) (l : List Byte) : (s.wrBig a l).poison = s.poison := rfl
@[simp] theorem State.wrBig_modified (a : Nat) (l : List Byte) : (s.wrBig a l).modified = s.modified := rfl
@[simp] theorem State.wrBig_l1 (a : Nat) (l : List Byte) : (s.wrBig a l).l1 = s.l1 := rfl
@[simp] theorem State.wrBig_l2 (a : Nat) (l : List Byte) : (s.wrBig a l).l2 = s.l2 := rfl
@[simp] theorem State.wrBig_dir (a : Nat) (l : List Byte) : (s.wrBig a l).dir = s.dir := rfl
@[simp] theorem State.wrBig_snoop (a : Nat) (l : List Byte) : (s.wrBig a l).snoop = s.snoop := rfl
@[simp] theorem State.wrBig_remote (a : Nat) (l : List Byte) : (s.wrBig a l).remote = s.remote := rfl
@[simp] theorem State.wrBig_asked (a : Nat) (l : List Byte) : (s.wrBig a l).asked = s.asked := rfl
@[simp] theorem State.wrBig_tlb (a : Nat) (l : List Byte) : (s.wrBig a l).tlb = s.tlb := rfl
@[simp] theorem State.wrBig_clock (a : Nat) (l : List Byte) : (s.wrBig a l).clock = s.clock := rfl
@[simp] theorem State.wrBig_bar (a : Nat) (l : List Byte) : (s.wrBig a l).bar = s.bar := rfl
@[simp] theorem State.wrBig_invDone (a : Nat) (l : List Byte) : (s.wrBig a l).invDone = s.invDone := rfl
@[simp] theorem State.wrBig_invPending (a : Nat) (l : List Byte) : (s.wrBig a l).invPending = s.invPending := rfl
@[simp] theorem State.wrBig_counters (a : Nat) (l : List Byte) : (s.wrBig a l).counters = s.counters := rfl
@[simp] theorem State.wrBig_ctxs (a : Nat) (l : List Byte) : (s.wrBig a l).ctxs = s.ctxs := rfl
@[simp] theorem State.wrBig_images (a : Nat) (l : List Byte) : (s.wrBig a l).images = s.images := rfl
@[simp] theorem State.wrBig_wgs (a : Nat) (l : List Byte) : (s.wrBig a l).wgs = s.wgs := rfl
@[simp] theorem State.wrBig_groups (a : Nat) (l : List Byte) : (s.wrBig a l).groups = s.groups := rfl
@[simp] theorem State.wrBig_gangs (a : Nat) (l : List Byte) : (s.wrBig a l).gangs = s.gangs := rfl
@[simp] theorem State.wrBig_leftovers (a : Nat) (l : List Byte) : (s.wrBig a l).leftovers = s.leftovers := rfl
@[simp] theorem State.wrBig_cmds (a : Nat) (l : List Byte) : (s.wrBig a l).cmds = s.cmds := rfl
@[simp] theorem State.wrBig_faults (a : Nat) (l : List Byte) : (s.wrBig a l).faults = s.faults := rfl
@[simp] theorem State.wrBig_kills (a : Nat) (l : List Byte) : (s.wrBig a l).kills = s.kills := rfl
@[simp] theorem State.wrBig_kites (a : Nat) (l : List Byte) : (s.wrBig a l).kites = staleKites s.kites a l.length := rfl
@[simp] theorem State.wrBig_saved (a : Nat) (l : List Byte) : (s.wrBig a l).saved = s.saved := rfl
@[simp] theorem State.wrBig_seals (a : Nat) (l : List Byte) : (s.wrBig a l).seals = s.seals := rfl
@[simp] theorem State.wrBig_candidates (a : Nat) (l : List Byte) : (s.wrBig a l).candidates = s.candidates := rfl
@[simp] theorem State.wrBig_reached (a : Nat) (l : List Byte) : (s.wrBig a l).reached = s.reached := rfl
@[simp] theorem State.wrBig_waves (a : Nat) (l : List Byte) : (s.wrBig a l).waves = s.waves := rfl
@[simp] theorem State.wrBig_work (a : Nat) (l : List Byte) : (s.wrBig a l).work = s.work := rfl
@[simp] theorem State.wrBig_budgets (a : Nat) (l : List Byte) : (s.wrBig a l).budgets = s.budgets := rfl
@[simp] theorem State.wrBig_stopped (a : Nat) (l : List Byte) : (s.wrBig a l).stopped = s.stopped := rfl
@[simp] theorem State.wrBig_ordered (a : Nat) (l : List Byte) : (s.wrBig a l).ordered = s.ordered := rfl
@[simp] theorem State.wrBig_queued (a : Nat) (l : List Byte) : (s.wrBig a l).queued = s.queued := rfl
@[simp] theorem State.wrBig_orders (a : Nat) (l : List Byte) : (s.wrBig a l).orders = s.orders := rfl
@[simp] theorem State.wrBig_reserved (a : Nat) (l : List Byte) : (s.wrBig a l).reserved = s.reserved := rfl
@[simp] theorem State.wrBig_gangWait (a : Nat) (l : List Byte) : (s.wrBig a l).gangWait = s.gangWait := rfl
@[simp] theorem State.wrBig_lastEpoch (a : Nat) (l : List Byte) : (s.wrBig a l).lastEpoch = s.lastEpoch := rfl
@[simp] theorem State.wrBig_lastStart (a : Nat) (l : List Byte) : (s.wrBig a l).lastStart = s.lastStart := rfl
@[simp] theorem State.wrBig_collectives (a : Nat) (l : List Byte) : (s.wrBig a l).collectives = s.collectives := rfl
@[simp] theorem State.wrBig_pushers (a : Nat) (l : List Byte) : (s.wrBig a l).pushers = s.pushers := rfl
@[simp] theorem State.wrBig_retired (a : Nat) (l : List Byte) : (s.wrBig a l).retired = s.retired := rfl
@[simp] theorem State.wrBig_heldEvents (a : Nat) (l : List Byte) : (s.wrBig a l).heldEvents = s.heldEvents := rfl
@[simp] theorem State.wrBig_errlog (a : Nat) (l : List Byte) : (s.wrBig a l).errlog = s.errlog := rfl
@[simp] theorem State.wrBig_rseq (a : Nat) (l : List Byte) : (s.wrBig a l).rseq = s.rseq := rfl
@[simp] theorem State.wrBig_scrubs (a : Nat) (l : List Byte) : (s.wrBig a l).scrubs = s.scrubs := rfl
@[simp] theorem State.wrBig_spdm (a : Nat) (l : List Byte) : (s.wrBig a l).spdm = s.spdm := rfl
@[simp] theorem State.wrBig_tasks (a : Nat) (l : List Byte) : (s.wrBig a l).tasks = s.tasks := rfl
@[simp] theorem State.wrBig_late (a : Nat) (l : List Byte) : (s.wrBig a l).late = s.late := rfl
@[simp] theorem State.wrBig_taskTails (a : Nat) (l : List Byte) : (s.wrBig a l).taskTails = s.taskTails := rfl
@[simp] theorem State.wrBig_lost (a : Nat) (l : List Byte) : (s.wrBig a l).lost = s.lost := rfl
@[simp] theorem State.wrBig_domains (a : Nat) (l : List Byte) : (s.wrBig a l).domains = s.domains := rfl
@[simp] theorem State.wrBig_viralDevice (a : Nat) (l : List Byte) : (s.wrBig a l).viralDevice = s.viralDevice := rfl
@[simp] theorem State.wrBig_power (a : Nat) (l : List Byte) : (s.wrBig a l).power = s.power := rfl
@[simp] theorem State.wrBig_peerId (a : Nat) (l : List Byte) : (s.wrBig a l).peerId = s.peerId := rfl
@[simp] theorem State.wrBig_boot (a : Nat) (l : List Byte) : (s.wrBig a l).boot = s.boot := rfl
@[simp] theorem State.wrBig_nextId (a : Nat) (l : List Byte) : (s.wrBig a l).nextId = s.nextId := rfl
@[simp] theorem State.wrBig_nextTag (a : Nat) (l : List Byte) : (s.wrBig a l).nextTag = s.nextTag := rfl
@[simp] theorem State.wrBig_agenda (a : Nat) (l : List Byte) : (s.wrBig a l).agenda = s.agenda := rfl
@[simp] theorem State.wrBig_cur (a : Nat) (l : List Byte) : (s.wrBig a l).cur = s.cur := rfl
@[simp] theorem State.wrBig_freeCtr (a : Nat) (l : List Byte) : (s.wrBig a l).freeCtr = s.freeCtr := rfl
@[simp] theorem State.wrBig_out (a : Nat) (l : List Byte) : (s.wrBig a l).out = s.out := rfl

/-! ### `setBar` -/

@[simp] theorem State.setBar_fitting (fn off : Nat) (x : Word64) : (s.setBar fn off x).fitting = s.fitting := rfl
@[simp] theorem State.setBar_mem (fn off : Nat) (x : Word64) : (s.setBar fn off x).mem = s.mem := rfl
@[simp] theorem State.setBar_poison (fn off : Nat) (x : Word64) : (s.setBar fn off x).poison = s.poison := rfl
@[simp] theorem State.setBar_modified (fn off : Nat) (x : Word64) : (s.setBar fn off x).modified = s.modified := rfl
@[simp] theorem State.setBar_l1 (fn off : Nat) (x : Word64) : (s.setBar fn off x).l1 = s.l1 := rfl
@[simp] theorem State.setBar_l2 (fn off : Nat) (x : Word64) : (s.setBar fn off x).l2 = s.l2 := rfl
@[simp] theorem State.setBar_dir (fn off : Nat) (x : Word64) : (s.setBar fn off x).dir = s.dir := rfl
@[simp] theorem State.setBar_snoop (fn off : Nat) (x : Word64) : (s.setBar fn off x).snoop = s.snoop := rfl
@[simp] theorem State.setBar_remote (fn off : Nat) (x : Word64) : (s.setBar fn off x).remote = s.remote := rfl
@[simp] theorem State.setBar_asked (fn off : Nat) (x : Word64) : (s.setBar fn off x).asked = s.asked := rfl
@[simp] theorem State.setBar_tlb (fn off : Nat) (x : Word64) : (s.setBar fn off x).tlb = s.tlb := rfl
@[simp] theorem State.setBar_clock (fn off : Nat) (x : Word64) : (s.setBar fn off x).clock = s.clock := rfl
@[simp] theorem State.setBar_bar (fn off : Nat) (x : Word64) : (s.setBar fn off x).bar = SMap.set 0 s.bar (4096 * fn + off) x := rfl
@[simp] theorem State.setBar_invDone (fn off : Nat) (x : Word64) : (s.setBar fn off x).invDone = s.invDone := rfl
@[simp] theorem State.setBar_invPending (fn off : Nat) (x : Word64) : (s.setBar fn off x).invPending = s.invPending := rfl
@[simp] theorem State.setBar_counters (fn off : Nat) (x : Word64) : (s.setBar fn off x).counters = s.counters := rfl
@[simp] theorem State.setBar_ctxs (fn off : Nat) (x : Word64) : (s.setBar fn off x).ctxs = s.ctxs := rfl
@[simp] theorem State.setBar_images (fn off : Nat) (x : Word64) : (s.setBar fn off x).images = s.images := rfl
@[simp] theorem State.setBar_wgs (fn off : Nat) (x : Word64) : (s.setBar fn off x).wgs = s.wgs := rfl
@[simp] theorem State.setBar_groups (fn off : Nat) (x : Word64) : (s.setBar fn off x).groups = s.groups := rfl
@[simp] theorem State.setBar_gangs (fn off : Nat) (x : Word64) : (s.setBar fn off x).gangs = s.gangs := rfl
@[simp] theorem State.setBar_leftovers (fn off : Nat) (x : Word64) : (s.setBar fn off x).leftovers = s.leftovers := rfl
@[simp] theorem State.setBar_cmds (fn off : Nat) (x : Word64) : (s.setBar fn off x).cmds = s.cmds := rfl
@[simp] theorem State.setBar_faults (fn off : Nat) (x : Word64) : (s.setBar fn off x).faults = s.faults := rfl
@[simp] theorem State.setBar_kills (fn off : Nat) (x : Word64) : (s.setBar fn off x).kills = s.kills := rfl
@[simp] theorem State.setBar_kites (fn off : Nat) (x : Word64) : (s.setBar fn off x).kites = s.kites := rfl
@[simp] theorem State.setBar_saved (fn off : Nat) (x : Word64) : (s.setBar fn off x).saved = s.saved := rfl
@[simp] theorem State.setBar_seals (fn off : Nat) (x : Word64) : (s.setBar fn off x).seals = s.seals := rfl
@[simp] theorem State.setBar_candidates (fn off : Nat) (x : Word64) : (s.setBar fn off x).candidates = s.candidates := rfl
@[simp] theorem State.setBar_reached (fn off : Nat) (x : Word64) : (s.setBar fn off x).reached = s.reached := rfl
@[simp] theorem State.setBar_waves (fn off : Nat) (x : Word64) : (s.setBar fn off x).waves = s.waves := rfl
@[simp] theorem State.setBar_work (fn off : Nat) (x : Word64) : (s.setBar fn off x).work = s.work := rfl
@[simp] theorem State.setBar_budgets (fn off : Nat) (x : Word64) : (s.setBar fn off x).budgets = s.budgets := rfl
@[simp] theorem State.setBar_stopped (fn off : Nat) (x : Word64) : (s.setBar fn off x).stopped = s.stopped := rfl
@[simp] theorem State.setBar_ordered (fn off : Nat) (x : Word64) : (s.setBar fn off x).ordered = s.ordered := rfl
@[simp] theorem State.setBar_queued (fn off : Nat) (x : Word64) : (s.setBar fn off x).queued = s.queued := rfl
@[simp] theorem State.setBar_orders (fn off : Nat) (x : Word64) : (s.setBar fn off x).orders = s.orders := rfl
@[simp] theorem State.setBar_reserved (fn off : Nat) (x : Word64) : (s.setBar fn off x).reserved = s.reserved := rfl
@[simp] theorem State.setBar_gangWait (fn off : Nat) (x : Word64) : (s.setBar fn off x).gangWait = s.gangWait := rfl
@[simp] theorem State.setBar_lastEpoch (fn off : Nat) (x : Word64) : (s.setBar fn off x).lastEpoch = s.lastEpoch := rfl
@[simp] theorem State.setBar_lastStart (fn off : Nat) (x : Word64) : (s.setBar fn off x).lastStart = s.lastStart := rfl
@[simp] theorem State.setBar_collectives (fn off : Nat) (x : Word64) : (s.setBar fn off x).collectives = s.collectives := rfl
@[simp] theorem State.setBar_pushers (fn off : Nat) (x : Word64) : (s.setBar fn off x).pushers = s.pushers := rfl
@[simp] theorem State.setBar_retired (fn off : Nat) (x : Word64) : (s.setBar fn off x).retired = s.retired := rfl
@[simp] theorem State.setBar_heldEvents (fn off : Nat) (x : Word64) : (s.setBar fn off x).heldEvents = s.heldEvents := rfl
@[simp] theorem State.setBar_errlog (fn off : Nat) (x : Word64) : (s.setBar fn off x).errlog = s.errlog := rfl
@[simp] theorem State.setBar_rseq (fn off : Nat) (x : Word64) : (s.setBar fn off x).rseq = s.rseq := rfl
@[simp] theorem State.setBar_scrubs (fn off : Nat) (x : Word64) : (s.setBar fn off x).scrubs = s.scrubs := rfl
@[simp] theorem State.setBar_spdm (fn off : Nat) (x : Word64) : (s.setBar fn off x).spdm = s.spdm := rfl
@[simp] theorem State.setBar_tasks (fn off : Nat) (x : Word64) : (s.setBar fn off x).tasks = s.tasks := rfl
@[simp] theorem State.setBar_late (fn off : Nat) (x : Word64) : (s.setBar fn off x).late = s.late := rfl
@[simp] theorem State.setBar_taskTails (fn off : Nat) (x : Word64) : (s.setBar fn off x).taskTails = s.taskTails := rfl
@[simp] theorem State.setBar_lost (fn off : Nat) (x : Word64) : (s.setBar fn off x).lost = s.lost := rfl
@[simp] theorem State.setBar_domains (fn off : Nat) (x : Word64) : (s.setBar fn off x).domains = s.domains := rfl
@[simp] theorem State.setBar_viralDevice (fn off : Nat) (x : Word64) : (s.setBar fn off x).viralDevice = s.viralDevice := rfl
@[simp] theorem State.setBar_power (fn off : Nat) (x : Word64) : (s.setBar fn off x).power = s.power := rfl
@[simp] theorem State.setBar_peerId (fn off : Nat) (x : Word64) : (s.setBar fn off x).peerId = s.peerId := rfl
@[simp] theorem State.setBar_boot (fn off : Nat) (x : Word64) : (s.setBar fn off x).boot = s.boot := rfl
@[simp] theorem State.setBar_nextId (fn off : Nat) (x : Word64) : (s.setBar fn off x).nextId = s.nextId := rfl
@[simp] theorem State.setBar_nextTag (fn off : Nat) (x : Word64) : (s.setBar fn off x).nextTag = s.nextTag := rfl
@[simp] theorem State.setBar_agenda (fn off : Nat) (x : Word64) : (s.setBar fn off x).agenda = s.agenda := rfl
@[simp] theorem State.setBar_cur (fn off : Nat) (x : Word64) : (s.setBar fn off x).cur = s.cur := rfl
@[simp] theorem State.setBar_freeCtr (fn off : Nat) (x : Word64) : (s.setBar fn off x).freeCtr = s.freeCtr := rfl
@[simp] theorem State.setBar_out (fn off : Nat) (x : Word64) : (s.setBar fn off x).out = s.out := rfl

/-! ### `count` -/

@[simp] theorem State.count_fitting (fn i n : Nat) : (s.count fn i n).fitting = s.fitting := rfl
@[simp] theorem State.count_mem (fn i n : Nat) : (s.count fn i n).mem = s.mem := rfl
@[simp] theorem State.count_poison (fn i n : Nat) : (s.count fn i n).poison = s.poison := rfl
@[simp] theorem State.count_modified (fn i n : Nat) : (s.count fn i n).modified = s.modified := rfl
@[simp] theorem State.count_l1 (fn i n : Nat) : (s.count fn i n).l1 = s.l1 := rfl
@[simp] theorem State.count_l2 (fn i n : Nat) : (s.count fn i n).l2 = s.l2 := rfl
@[simp] theorem State.count_dir (fn i n : Nat) : (s.count fn i n).dir = s.dir := rfl
@[simp] theorem State.count_snoop (fn i n : Nat) : (s.count fn i n).snoop = s.snoop := rfl
@[simp] theorem State.count_remote (fn i n : Nat) : (s.count fn i n).remote = s.remote := rfl
@[simp] theorem State.count_asked (fn i n : Nat) : (s.count fn i n).asked = s.asked := rfl
@[simp] theorem State.count_tlb (fn i n : Nat) : (s.count fn i n).tlb = s.tlb := rfl
@[simp] theorem State.count_clock (fn i n : Nat) : (s.count fn i n).clock = s.clock := rfl
@[simp] theorem State.count_bar (fn i n : Nat) : (s.count fn i n).bar = s.bar := rfl
@[simp] theorem State.count_invDone (fn i n : Nat) : (s.count fn i n).invDone = s.invDone := rfl
@[simp] theorem State.count_invPending (fn i n : Nat) : (s.count fn i n).invPending = s.invPending := rfl
@[simp] theorem State.count_ctxs (fn i n : Nat) : (s.count fn i n).ctxs = s.ctxs := rfl
@[simp] theorem State.count_images (fn i n : Nat) : (s.count fn i n).images = s.images := rfl
@[simp] theorem State.count_wgs (fn i n : Nat) : (s.count fn i n).wgs = s.wgs := rfl
@[simp] theorem State.count_groups (fn i n : Nat) : (s.count fn i n).groups = s.groups := rfl
@[simp] theorem State.count_gangs (fn i n : Nat) : (s.count fn i n).gangs = s.gangs := rfl
@[simp] theorem State.count_leftovers (fn i n : Nat) : (s.count fn i n).leftovers = s.leftovers := rfl
@[simp] theorem State.count_cmds (fn i n : Nat) : (s.count fn i n).cmds = s.cmds := rfl
@[simp] theorem State.count_faults (fn i n : Nat) : (s.count fn i n).faults = s.faults := rfl
@[simp] theorem State.count_kills (fn i n : Nat) : (s.count fn i n).kills = s.kills := rfl
@[simp] theorem State.count_kites (fn i n : Nat) : (s.count fn i n).kites = s.kites := rfl
@[simp] theorem State.count_saved (fn i n : Nat) : (s.count fn i n).saved = s.saved := rfl
@[simp] theorem State.count_seals (fn i n : Nat) : (s.count fn i n).seals = s.seals := rfl
@[simp] theorem State.count_candidates (fn i n : Nat) : (s.count fn i n).candidates = s.candidates := rfl
@[simp] theorem State.count_reached (fn i n : Nat) : (s.count fn i n).reached = s.reached := rfl
@[simp] theorem State.count_waves (fn i n : Nat) : (s.count fn i n).waves = s.waves := rfl
@[simp] theorem State.count_work (fn i n : Nat) : (s.count fn i n).work = s.work := rfl
@[simp] theorem State.count_budgets (fn i n : Nat) : (s.count fn i n).budgets = s.budgets := rfl
@[simp] theorem State.count_stopped (fn i n : Nat) : (s.count fn i n).stopped = s.stopped := rfl
@[simp] theorem State.count_ordered (fn i n : Nat) : (s.count fn i n).ordered = s.ordered := rfl
@[simp] theorem State.count_queued (fn i n : Nat) : (s.count fn i n).queued = s.queued := rfl
@[simp] theorem State.count_orders (fn i n : Nat) : (s.count fn i n).orders = s.orders := rfl
@[simp] theorem State.count_reserved (fn i n : Nat) : (s.count fn i n).reserved = s.reserved := rfl
@[simp] theorem State.count_gangWait (fn i n : Nat) : (s.count fn i n).gangWait = s.gangWait := rfl
@[simp] theorem State.count_lastEpoch (fn i n : Nat) : (s.count fn i n).lastEpoch = s.lastEpoch := rfl
@[simp] theorem State.count_lastStart (fn i n : Nat) : (s.count fn i n).lastStart = s.lastStart := rfl
@[simp] theorem State.count_collectives (fn i n : Nat) : (s.count fn i n).collectives = s.collectives := rfl
@[simp] theorem State.count_pushers (fn i n : Nat) : (s.count fn i n).pushers = s.pushers := rfl
@[simp] theorem State.count_retired (fn i n : Nat) : (s.count fn i n).retired = s.retired := rfl
@[simp] theorem State.count_heldEvents (fn i n : Nat) : (s.count fn i n).heldEvents = s.heldEvents := rfl
@[simp] theorem State.count_errlog (fn i n : Nat) : (s.count fn i n).errlog = s.errlog := rfl
@[simp] theorem State.count_rseq (fn i n : Nat) : (s.count fn i n).rseq = s.rseq := rfl
@[simp] theorem State.count_scrubs (fn i n : Nat) : (s.count fn i n).scrubs = s.scrubs := rfl
@[simp] theorem State.count_spdm (fn i n : Nat) : (s.count fn i n).spdm = s.spdm := rfl
@[simp] theorem State.count_tasks (fn i n : Nat) : (s.count fn i n).tasks = s.tasks := rfl
@[simp] theorem State.count_late (fn i n : Nat) : (s.count fn i n).late = s.late := rfl
@[simp] theorem State.count_taskTails (fn i n : Nat) : (s.count fn i n).taskTails = s.taskTails := rfl
@[simp] theorem State.count_lost (fn i n : Nat) : (s.count fn i n).lost = s.lost := rfl
@[simp] theorem State.count_domains (fn i n : Nat) : (s.count fn i n).domains = s.domains := rfl
@[simp] theorem State.count_viralDevice (fn i n : Nat) : (s.count fn i n).viralDevice = s.viralDevice := rfl
@[simp] theorem State.count_power (fn i n : Nat) : (s.count fn i n).power = s.power := rfl
@[simp] theorem State.count_peerId (fn i n : Nat) : (s.count fn i n).peerId = s.peerId := rfl
@[simp] theorem State.count_boot (fn i n : Nat) : (s.count fn i n).boot = s.boot := rfl
@[simp] theorem State.count_nextId (fn i n : Nat) : (s.count fn i n).nextId = s.nextId := rfl
@[simp] theorem State.count_nextTag (fn i n : Nat) : (s.count fn i n).nextTag = s.nextTag := rfl
@[simp] theorem State.count_agenda (fn i n : Nat) : (s.count fn i n).agenda = s.agenda := rfl
@[simp] theorem State.count_cur (fn i n : Nat) : (s.count fn i n).cur = s.cur := rfl
@[simp] theorem State.count_freeCtr (fn i n : Nat) : (s.count fn i n).freeCtr = s.freeCtr := rfl
@[simp] theorem State.count_out (fn i n : Nat) : (s.count fn i n).out = s.out := rfl

/-! ### `countCtx` -/

@[simp] theorem State.countCtx_fitting (ctx i : Nat) : (s.countCtx ctx i).fitting = s.fitting := rfl
@[simp] theorem State.countCtx_mem (ctx i : Nat) : (s.countCtx ctx i).mem = s.mem := rfl
@[simp] theorem State.countCtx_poison (ctx i : Nat) : (s.countCtx ctx i).poison = s.poison := rfl
@[simp] theorem State.countCtx_modified (ctx i : Nat) : (s.countCtx ctx i).modified = s.modified := rfl
@[simp] theorem State.countCtx_l1 (ctx i : Nat) : (s.countCtx ctx i).l1 = s.l1 := rfl
@[simp] theorem State.countCtx_l2 (ctx i : Nat) : (s.countCtx ctx i).l2 = s.l2 := rfl
@[simp] theorem State.countCtx_dir (ctx i : Nat) : (s.countCtx ctx i).dir = s.dir := rfl
@[simp] theorem State.countCtx_snoop (ctx i : Nat) : (s.countCtx ctx i).snoop = s.snoop := rfl
@[simp] theorem State.countCtx_remote (ctx i : Nat) : (s.countCtx ctx i).remote = s.remote := rfl
@[simp] theorem State.countCtx_asked (ctx i : Nat) : (s.countCtx ctx i).asked = s.asked := rfl
@[simp] theorem State.countCtx_tlb (ctx i : Nat) : (s.countCtx ctx i).tlb = s.tlb := rfl
@[simp] theorem State.countCtx_clock (ctx i : Nat) : (s.countCtx ctx i).clock = s.clock := rfl
@[simp] theorem State.countCtx_bar (ctx i : Nat) : (s.countCtx ctx i).bar = s.bar := rfl
@[simp] theorem State.countCtx_invDone (ctx i : Nat) : (s.countCtx ctx i).invDone = s.invDone := rfl
@[simp] theorem State.countCtx_invPending (ctx i : Nat) : (s.countCtx ctx i).invPending = s.invPending := rfl
@[simp] theorem State.countCtx_counters (ctx i : Nat) : (s.countCtx ctx i).counters = s.counters := rfl
@[simp] theorem State.countCtx_images (ctx i : Nat) : (s.countCtx ctx i).images = s.images := rfl
@[simp] theorem State.countCtx_wgs (ctx i : Nat) : (s.countCtx ctx i).wgs = s.wgs := rfl
@[simp] theorem State.countCtx_groups (ctx i : Nat) : (s.countCtx ctx i).groups = s.groups := rfl
@[simp] theorem State.countCtx_gangs (ctx i : Nat) : (s.countCtx ctx i).gangs = s.gangs := rfl
@[simp] theorem State.countCtx_leftovers (ctx i : Nat) : (s.countCtx ctx i).leftovers = s.leftovers := rfl
@[simp] theorem State.countCtx_cmds (ctx i : Nat) : (s.countCtx ctx i).cmds = s.cmds := rfl
@[simp] theorem State.countCtx_faults (ctx i : Nat) : (s.countCtx ctx i).faults = s.faults := rfl
@[simp] theorem State.countCtx_kills (ctx i : Nat) : (s.countCtx ctx i).kills = s.kills := rfl
@[simp] theorem State.countCtx_kites (ctx i : Nat) : (s.countCtx ctx i).kites = s.kites := rfl
@[simp] theorem State.countCtx_saved (ctx i : Nat) : (s.countCtx ctx i).saved = s.saved := rfl
@[simp] theorem State.countCtx_seals (ctx i : Nat) : (s.countCtx ctx i).seals = s.seals := rfl
@[simp] theorem State.countCtx_candidates (ctx i : Nat) : (s.countCtx ctx i).candidates = s.candidates := rfl
@[simp] theorem State.countCtx_reached (ctx i : Nat) : (s.countCtx ctx i).reached = s.reached := rfl
@[simp] theorem State.countCtx_waves (ctx i : Nat) : (s.countCtx ctx i).waves = s.waves := rfl
@[simp] theorem State.countCtx_work (ctx i : Nat) : (s.countCtx ctx i).work = s.work := rfl
@[simp] theorem State.countCtx_budgets (ctx i : Nat) : (s.countCtx ctx i).budgets = s.budgets := rfl
@[simp] theorem State.countCtx_stopped (ctx i : Nat) : (s.countCtx ctx i).stopped = s.stopped := rfl
@[simp] theorem State.countCtx_ordered (ctx i : Nat) : (s.countCtx ctx i).ordered = s.ordered := rfl
@[simp] theorem State.countCtx_queued (ctx i : Nat) : (s.countCtx ctx i).queued = s.queued := rfl
@[simp] theorem State.countCtx_orders (ctx i : Nat) : (s.countCtx ctx i).orders = s.orders := rfl
@[simp] theorem State.countCtx_reserved (ctx i : Nat) : (s.countCtx ctx i).reserved = s.reserved := rfl
@[simp] theorem State.countCtx_gangWait (ctx i : Nat) : (s.countCtx ctx i).gangWait = s.gangWait := rfl
@[simp] theorem State.countCtx_lastEpoch (ctx i : Nat) : (s.countCtx ctx i).lastEpoch = s.lastEpoch := rfl
@[simp] theorem State.countCtx_lastStart (ctx i : Nat) : (s.countCtx ctx i).lastStart = s.lastStart := rfl
@[simp] theorem State.countCtx_collectives (ctx i : Nat) : (s.countCtx ctx i).collectives = s.collectives := rfl
@[simp] theorem State.countCtx_pushers (ctx i : Nat) : (s.countCtx ctx i).pushers = s.pushers := rfl
@[simp] theorem State.countCtx_retired (ctx i : Nat) : (s.countCtx ctx i).retired = s.retired := rfl
@[simp] theorem State.countCtx_heldEvents (ctx i : Nat) : (s.countCtx ctx i).heldEvents = s.heldEvents := rfl
@[simp] theorem State.countCtx_errlog (ctx i : Nat) : (s.countCtx ctx i).errlog = s.errlog := rfl
@[simp] theorem State.countCtx_rseq (ctx i : Nat) : (s.countCtx ctx i).rseq = s.rseq := rfl
@[simp] theorem State.countCtx_scrubs (ctx i : Nat) : (s.countCtx ctx i).scrubs = s.scrubs := rfl
@[simp] theorem State.countCtx_spdm (ctx i : Nat) : (s.countCtx ctx i).spdm = s.spdm := rfl
@[simp] theorem State.countCtx_tasks (ctx i : Nat) : (s.countCtx ctx i).tasks = s.tasks := rfl
@[simp] theorem State.countCtx_late (ctx i : Nat) : (s.countCtx ctx i).late = s.late := rfl
@[simp] theorem State.countCtx_taskTails (ctx i : Nat) : (s.countCtx ctx i).taskTails = s.taskTails := rfl
@[simp] theorem State.countCtx_lost (ctx i : Nat) : (s.countCtx ctx i).lost = s.lost := rfl
@[simp] theorem State.countCtx_domains (ctx i : Nat) : (s.countCtx ctx i).domains = s.domains := rfl
@[simp] theorem State.countCtx_viralDevice (ctx i : Nat) : (s.countCtx ctx i).viralDevice = s.viralDevice := rfl
@[simp] theorem State.countCtx_power (ctx i : Nat) : (s.countCtx ctx i).power = s.power := rfl
@[simp] theorem State.countCtx_peerId (ctx i : Nat) : (s.countCtx ctx i).peerId = s.peerId := rfl
@[simp] theorem State.countCtx_boot (ctx i : Nat) : (s.countCtx ctx i).boot = s.boot := rfl
@[simp] theorem State.countCtx_nextId (ctx i : Nat) : (s.countCtx ctx i).nextId = s.nextId := rfl
@[simp] theorem State.countCtx_nextTag (ctx i : Nat) : (s.countCtx ctx i).nextTag = s.nextTag := rfl
@[simp] theorem State.countCtx_agenda (ctx i : Nat) : (s.countCtx ctx i).agenda = s.agenda := rfl
@[simp] theorem State.countCtx_cur (ctx i : Nat) : (s.countCtx ctx i).cur = s.cur := rfl
@[simp] theorem State.countCtx_freeCtr (ctx i : Nat) : (s.countCtx ctx i).freeCtr = s.freeCtr := rfl
@[simp] theorem State.countCtx_out (ctx i : Nat) : (s.countCtx ctx i).out = s.out := rfl

/-! ### `emit` -/

@[simp] theorem State.emit_fitting (m : OutMsg) : (s.emit m).fitting = s.fitting := rfl
@[simp] theorem State.emit_mem (m : OutMsg) : (s.emit m).mem = s.mem := rfl
@[simp] theorem State.emit_poison (m : OutMsg) : (s.emit m).poison = s.poison := rfl
@[simp] theorem State.emit_modified (m : OutMsg) : (s.emit m).modified = s.modified := rfl
@[simp] theorem State.emit_l1 (m : OutMsg) : (s.emit m).l1 = s.l1 := rfl
@[simp] theorem State.emit_l2 (m : OutMsg) : (s.emit m).l2 = s.l2 := rfl
@[simp] theorem State.emit_dir (m : OutMsg) : (s.emit m).dir = s.dir := rfl
@[simp] theorem State.emit_snoop (m : OutMsg) : (s.emit m).snoop = s.snoop := rfl
@[simp] theorem State.emit_remote (m : OutMsg) : (s.emit m).remote = s.remote := rfl
@[simp] theorem State.emit_asked (m : OutMsg) : (s.emit m).asked = s.asked := rfl
@[simp] theorem State.emit_tlb (m : OutMsg) : (s.emit m).tlb = s.tlb := rfl
@[simp] theorem State.emit_clock (m : OutMsg) : (s.emit m).clock = s.clock := rfl
@[simp] theorem State.emit_bar (m : OutMsg) : (s.emit m).bar = s.bar := rfl
@[simp] theorem State.emit_invDone (m : OutMsg) : (s.emit m).invDone = s.invDone := rfl
@[simp] theorem State.emit_invPending (m : OutMsg) : (s.emit m).invPending = s.invPending := rfl
@[simp] theorem State.emit_counters (m : OutMsg) : (s.emit m).counters = s.counters := rfl
@[simp] theorem State.emit_ctxs (m : OutMsg) : (s.emit m).ctxs = s.ctxs := rfl
@[simp] theorem State.emit_images (m : OutMsg) : (s.emit m).images = s.images := rfl
@[simp] theorem State.emit_wgs (m : OutMsg) : (s.emit m).wgs = s.wgs := rfl
@[simp] theorem State.emit_groups (m : OutMsg) : (s.emit m).groups = s.groups := rfl
@[simp] theorem State.emit_gangs (m : OutMsg) : (s.emit m).gangs = s.gangs := rfl
@[simp] theorem State.emit_leftovers (m : OutMsg) : (s.emit m).leftovers = s.leftovers := rfl
@[simp] theorem State.emit_cmds (m : OutMsg) : (s.emit m).cmds = s.cmds := rfl
@[simp] theorem State.emit_faults (m : OutMsg) : (s.emit m).faults = s.faults := rfl
@[simp] theorem State.emit_kills (m : OutMsg) : (s.emit m).kills = s.kills := rfl
@[simp] theorem State.emit_kites (m : OutMsg) : (s.emit m).kites = s.kites := rfl
@[simp] theorem State.emit_saved (m : OutMsg) : (s.emit m).saved = s.saved := rfl
@[simp] theorem State.emit_seals (m : OutMsg) : (s.emit m).seals = s.seals := rfl
@[simp] theorem State.emit_candidates (m : OutMsg) : (s.emit m).candidates = s.candidates := rfl
@[simp] theorem State.emit_reached (m : OutMsg) : (s.emit m).reached = s.reached := rfl
@[simp] theorem State.emit_waves (m : OutMsg) : (s.emit m).waves = s.waves := rfl
@[simp] theorem State.emit_work (m : OutMsg) : (s.emit m).work = s.work := rfl
@[simp] theorem State.emit_budgets (m : OutMsg) : (s.emit m).budgets = s.budgets := rfl
@[simp] theorem State.emit_stopped (m : OutMsg) : (s.emit m).stopped = s.stopped := rfl
@[simp] theorem State.emit_ordered (m : OutMsg) : (s.emit m).ordered = s.ordered := rfl
@[simp] theorem State.emit_queued (m : OutMsg) : (s.emit m).queued = s.queued := rfl
@[simp] theorem State.emit_orders (m : OutMsg) : (s.emit m).orders = s.orders := rfl
@[simp] theorem State.emit_reserved (m : OutMsg) : (s.emit m).reserved = s.reserved := rfl
@[simp] theorem State.emit_gangWait (m : OutMsg) : (s.emit m).gangWait = s.gangWait := rfl
@[simp] theorem State.emit_lastEpoch (m : OutMsg) : (s.emit m).lastEpoch = s.lastEpoch := rfl
@[simp] theorem State.emit_lastStart (m : OutMsg) : (s.emit m).lastStart = s.lastStart := rfl
@[simp] theorem State.emit_collectives (m : OutMsg) : (s.emit m).collectives = s.collectives := rfl
@[simp] theorem State.emit_pushers (m : OutMsg) : (s.emit m).pushers = s.pushers := rfl
@[simp] theorem State.emit_retired (m : OutMsg) : (s.emit m).retired = s.retired := rfl
@[simp] theorem State.emit_heldEvents (m : OutMsg) : (s.emit m).heldEvents = s.heldEvents := rfl
@[simp] theorem State.emit_errlog (m : OutMsg) : (s.emit m).errlog = s.errlog := rfl
@[simp] theorem State.emit_rseq (m : OutMsg) : (s.emit m).rseq = s.rseq := rfl
@[simp] theorem State.emit_scrubs (m : OutMsg) : (s.emit m).scrubs = s.scrubs := rfl
@[simp] theorem State.emit_spdm (m : OutMsg) : (s.emit m).spdm = s.spdm := rfl
@[simp] theorem State.emit_tasks (m : OutMsg) : (s.emit m).tasks = s.tasks := rfl
@[simp] theorem State.emit_late (m : OutMsg) : (s.emit m).late = s.late := rfl
@[simp] theorem State.emit_taskTails (m : OutMsg) : (s.emit m).taskTails = s.taskTails := rfl
@[simp] theorem State.emit_lost (m : OutMsg) : (s.emit m).lost = s.lost := rfl
@[simp] theorem State.emit_domains (m : OutMsg) : (s.emit m).domains = s.domains := rfl
@[simp] theorem State.emit_viralDevice (m : OutMsg) : (s.emit m).viralDevice = s.viralDevice := rfl
@[simp] theorem State.emit_power (m : OutMsg) : (s.emit m).power = s.power := rfl
@[simp] theorem State.emit_peerId (m : OutMsg) : (s.emit m).peerId = s.peerId := rfl
@[simp] theorem State.emit_boot (m : OutMsg) : (s.emit m).boot = s.boot := rfl
@[simp] theorem State.emit_nextId (m : OutMsg) : (s.emit m).nextId = s.nextId := rfl
@[simp] theorem State.emit_nextTag (m : OutMsg) : (s.emit m).nextTag = s.nextTag := rfl
@[simp] theorem State.emit_agenda (m : OutMsg) : (s.emit m).agenda = s.agenda := rfl
@[simp] theorem State.emit_cur (m : OutMsg) : (s.emit m).cur = s.cur := rfl
@[simp] theorem State.emit_freeCtr (m : OutMsg) : (s.emit m).freeCtr = s.freeCtr := rfl
@[simp] theorem State.emit_out (m : OutMsg) : (s.emit m).out = s.out ++ [m] := rfl

/-! ### `poisonLine` -/

@[simp] theorem State.poisonLine_fitting (line : Nat) : (s.poisonLine line).fitting = s.fitting := rfl
@[simp] theorem State.poisonLine_mem (line : Nat) : (s.poisonLine line).mem = s.mem := rfl
@[simp] theorem State.poisonLine_poison (line : Nat) : (s.poisonLine line).poison = insertAsc line s.poison := rfl
@[simp] theorem State.poisonLine_modified (line : Nat) : (s.poisonLine line).modified = s.modified := rfl
@[simp] theorem State.poisonLine_l1 (line : Nat) : (s.poisonLine line).l1 = s.l1 := rfl
@[simp] theorem State.poisonLine_l2 (line : Nat) : (s.poisonLine line).l2 = s.l2 := rfl
@[simp] theorem State.poisonLine_dir (line : Nat) : (s.poisonLine line).dir = s.dir := rfl
@[simp] theorem State.poisonLine_snoop (line : Nat) : (s.poisonLine line).snoop = s.snoop := rfl
@[simp] theorem State.poisonLine_remote (line : Nat) : (s.poisonLine line).remote = s.remote := rfl
@[simp] theorem State.poisonLine_asked (line : Nat) : (s.poisonLine line).asked = s.asked := rfl
@[simp] theorem State.poisonLine_tlb (line : Nat) : (s.poisonLine line).tlb = s.tlb := rfl
@[simp] theorem State.poisonLine_clock (line : Nat) : (s.poisonLine line).clock = s.clock := rfl
@[simp] theorem State.poisonLine_bar (line : Nat) : (s.poisonLine line).bar = s.bar := rfl
@[simp] theorem State.poisonLine_invDone (line : Nat) : (s.poisonLine line).invDone = s.invDone := rfl
@[simp] theorem State.poisonLine_invPending (line : Nat) : (s.poisonLine line).invPending = s.invPending := rfl
@[simp] theorem State.poisonLine_counters (line : Nat) : (s.poisonLine line).counters = s.counters := rfl
@[simp] theorem State.poisonLine_ctxs (line : Nat) : (s.poisonLine line).ctxs = s.ctxs := rfl
@[simp] theorem State.poisonLine_images (line : Nat) : (s.poisonLine line).images = s.images := rfl
@[simp] theorem State.poisonLine_wgs (line : Nat) : (s.poisonLine line).wgs = s.wgs := rfl
@[simp] theorem State.poisonLine_groups (line : Nat) : (s.poisonLine line).groups = s.groups := rfl
@[simp] theorem State.poisonLine_gangs (line : Nat) : (s.poisonLine line).gangs = s.gangs := rfl
@[simp] theorem State.poisonLine_leftovers (line : Nat) : (s.poisonLine line).leftovers = s.leftovers := rfl
@[simp] theorem State.poisonLine_cmds (line : Nat) : (s.poisonLine line).cmds = s.cmds := rfl
@[simp] theorem State.poisonLine_faults (line : Nat) : (s.poisonLine line).faults = s.faults := rfl
@[simp] theorem State.poisonLine_kills (line : Nat) : (s.poisonLine line).kills = s.kills := rfl
@[simp] theorem State.poisonLine_kites (line : Nat) : (s.poisonLine line).kites = s.kites := rfl
@[simp] theorem State.poisonLine_saved (line : Nat) : (s.poisonLine line).saved = s.saved := rfl
@[simp] theorem State.poisonLine_seals (line : Nat) : (s.poisonLine line).seals = s.seals := rfl
@[simp] theorem State.poisonLine_candidates (line : Nat) : (s.poisonLine line).candidates = s.candidates := rfl
@[simp] theorem State.poisonLine_reached (line : Nat) : (s.poisonLine line).reached = s.reached := rfl
@[simp] theorem State.poisonLine_waves (line : Nat) : (s.poisonLine line).waves = s.waves := rfl
@[simp] theorem State.poisonLine_work (line : Nat) : (s.poisonLine line).work = s.work := rfl
@[simp] theorem State.poisonLine_budgets (line : Nat) : (s.poisonLine line).budgets = s.budgets := rfl
@[simp] theorem State.poisonLine_stopped (line : Nat) : (s.poisonLine line).stopped = s.stopped := rfl
@[simp] theorem State.poisonLine_ordered (line : Nat) : (s.poisonLine line).ordered = s.ordered := rfl
@[simp] theorem State.poisonLine_queued (line : Nat) : (s.poisonLine line).queued = s.queued := rfl
@[simp] theorem State.poisonLine_orders (line : Nat) : (s.poisonLine line).orders = s.orders := rfl
@[simp] theorem State.poisonLine_reserved (line : Nat) : (s.poisonLine line).reserved = s.reserved := rfl
@[simp] theorem State.poisonLine_gangWait (line : Nat) : (s.poisonLine line).gangWait = s.gangWait := rfl
@[simp] theorem State.poisonLine_lastEpoch (line : Nat) : (s.poisonLine line).lastEpoch = s.lastEpoch := rfl
@[simp] theorem State.poisonLine_lastStart (line : Nat) : (s.poisonLine line).lastStart = s.lastStart := rfl
@[simp] theorem State.poisonLine_collectives (line : Nat) : (s.poisonLine line).collectives = s.collectives := rfl
@[simp] theorem State.poisonLine_pushers (line : Nat) : (s.poisonLine line).pushers = s.pushers := rfl
@[simp] theorem State.poisonLine_retired (line : Nat) : (s.poisonLine line).retired = s.retired := rfl
@[simp] theorem State.poisonLine_heldEvents (line : Nat) : (s.poisonLine line).heldEvents = s.heldEvents := rfl
@[simp] theorem State.poisonLine_errlog (line : Nat) : (s.poisonLine line).errlog = s.errlog := rfl
@[simp] theorem State.poisonLine_rseq (line : Nat) : (s.poisonLine line).rseq = s.rseq := rfl
@[simp] theorem State.poisonLine_scrubs (line : Nat) : (s.poisonLine line).scrubs = s.scrubs := rfl
@[simp] theorem State.poisonLine_spdm (line : Nat) : (s.poisonLine line).spdm = s.spdm := rfl
@[simp] theorem State.poisonLine_tasks (line : Nat) : (s.poisonLine line).tasks = s.tasks := rfl
@[simp] theorem State.poisonLine_late (line : Nat) : (s.poisonLine line).late = s.late := rfl
@[simp] theorem State.poisonLine_taskTails (line : Nat) : (s.poisonLine line).taskTails = s.taskTails := rfl
@[simp] theorem State.poisonLine_lost (line : Nat) : (s.poisonLine line).lost = s.lost := rfl
@[simp] theorem State.poisonLine_domains (line : Nat) : (s.poisonLine line).domains = s.domains := rfl
@[simp] theorem State.poisonLine_viralDevice (line : Nat) : (s.poisonLine line).viralDevice = s.viralDevice := rfl
@[simp] theorem State.poisonLine_power (line : Nat) : (s.poisonLine line).power = s.power := rfl
@[simp] theorem State.poisonLine_peerId (line : Nat) : (s.poisonLine line).peerId = s.peerId := rfl
@[simp] theorem State.poisonLine_boot (line : Nat) : (s.poisonLine line).boot = s.boot := rfl
@[simp] theorem State.poisonLine_nextId (line : Nat) : (s.poisonLine line).nextId = s.nextId := rfl
@[simp] theorem State.poisonLine_nextTag (line : Nat) : (s.poisonLine line).nextTag = s.nextTag := rfl
@[simp] theorem State.poisonLine_agenda (line : Nat) : (s.poisonLine line).agenda = s.agenda := rfl
@[simp] theorem State.poisonLine_cur (line : Nat) : (s.poisonLine line).cur = s.cur := rfl
@[simp] theorem State.poisonLine_freeCtr (line : Nat) : (s.poisonLine line).freeCtr = s.freeCtr := rfl
@[simp] theorem State.poisonLine_out (line : Nat) : (s.poisonLine line).out = s.out := rfl

/-! ### `cleanLine` -/

@[simp] theorem State.cleanLine_fitting (line : Nat) : (s.cleanLine line).fitting = s.fitting := rfl
@[simp] theorem State.cleanLine_mem (line : Nat) : (s.cleanLine line).mem = s.mem := rfl
@[simp] theorem State.cleanLine_poison (line : Nat) : (s.cleanLine line).poison = s.poison.filter (· ≠ line) := rfl
@[simp] theorem State.cleanLine_modified (line : Nat) : (s.cleanLine line).modified = s.modified := rfl
@[simp] theorem State.cleanLine_l1 (line : Nat) : (s.cleanLine line).l1 = s.l1 := rfl
@[simp] theorem State.cleanLine_l2 (line : Nat) : (s.cleanLine line).l2 = s.l2 := rfl
@[simp] theorem State.cleanLine_dir (line : Nat) : (s.cleanLine line).dir = s.dir := rfl
@[simp] theorem State.cleanLine_snoop (line : Nat) : (s.cleanLine line).snoop = s.snoop := rfl
@[simp] theorem State.cleanLine_remote (line : Nat) : (s.cleanLine line).remote = s.remote := rfl
@[simp] theorem State.cleanLine_asked (line : Nat) : (s.cleanLine line).asked = s.asked := rfl
@[simp] theorem State.cleanLine_tlb (line : Nat) : (s.cleanLine line).tlb = s.tlb := rfl
@[simp] theorem State.cleanLine_clock (line : Nat) : (s.cleanLine line).clock = s.clock := rfl
@[simp] theorem State.cleanLine_bar (line : Nat) : (s.cleanLine line).bar = s.bar := rfl
@[simp] theorem State.cleanLine_invDone (line : Nat) : (s.cleanLine line).invDone = s.invDone := rfl
@[simp] theorem State.cleanLine_invPending (line : Nat) : (s.cleanLine line).invPending = s.invPending := rfl
@[simp] theorem State.cleanLine_counters (line : Nat) : (s.cleanLine line).counters = s.counters := rfl
@[simp] theorem State.cleanLine_ctxs (line : Nat) : (s.cleanLine line).ctxs = s.ctxs := rfl
@[simp] theorem State.cleanLine_images (line : Nat) : (s.cleanLine line).images = s.images := rfl
@[simp] theorem State.cleanLine_wgs (line : Nat) : (s.cleanLine line).wgs = s.wgs := rfl
@[simp] theorem State.cleanLine_groups (line : Nat) : (s.cleanLine line).groups = s.groups := rfl
@[simp] theorem State.cleanLine_gangs (line : Nat) : (s.cleanLine line).gangs = s.gangs := rfl
@[simp] theorem State.cleanLine_leftovers (line : Nat) : (s.cleanLine line).leftovers = s.leftovers := rfl
@[simp] theorem State.cleanLine_cmds (line : Nat) : (s.cleanLine line).cmds = s.cmds := rfl
@[simp] theorem State.cleanLine_faults (line : Nat) : (s.cleanLine line).faults = s.faults := rfl
@[simp] theorem State.cleanLine_kills (line : Nat) : (s.cleanLine line).kills = s.kills := rfl
@[simp] theorem State.cleanLine_kites (line : Nat) : (s.cleanLine line).kites = s.kites := rfl
@[simp] theorem State.cleanLine_saved (line : Nat) : (s.cleanLine line).saved = s.saved := rfl
@[simp] theorem State.cleanLine_seals (line : Nat) : (s.cleanLine line).seals = s.seals := rfl
@[simp] theorem State.cleanLine_candidates (line : Nat) : (s.cleanLine line).candidates = s.candidates := rfl
@[simp] theorem State.cleanLine_reached (line : Nat) : (s.cleanLine line).reached = s.reached := rfl
@[simp] theorem State.cleanLine_waves (line : Nat) : (s.cleanLine line).waves = s.waves := rfl
@[simp] theorem State.cleanLine_work (line : Nat) : (s.cleanLine line).work = s.work := rfl
@[simp] theorem State.cleanLine_budgets (line : Nat) : (s.cleanLine line).budgets = s.budgets := rfl
@[simp] theorem State.cleanLine_stopped (line : Nat) : (s.cleanLine line).stopped = s.stopped := rfl
@[simp] theorem State.cleanLine_ordered (line : Nat) : (s.cleanLine line).ordered = s.ordered := rfl
@[simp] theorem State.cleanLine_queued (line : Nat) : (s.cleanLine line).queued = s.queued := rfl
@[simp] theorem State.cleanLine_orders (line : Nat) : (s.cleanLine line).orders = s.orders := rfl
@[simp] theorem State.cleanLine_reserved (line : Nat) : (s.cleanLine line).reserved = s.reserved := rfl
@[simp] theorem State.cleanLine_gangWait (line : Nat) : (s.cleanLine line).gangWait = s.gangWait := rfl
@[simp] theorem State.cleanLine_lastEpoch (line : Nat) : (s.cleanLine line).lastEpoch = s.lastEpoch := rfl
@[simp] theorem State.cleanLine_lastStart (line : Nat) : (s.cleanLine line).lastStart = s.lastStart := rfl
@[simp] theorem State.cleanLine_collectives (line : Nat) : (s.cleanLine line).collectives = s.collectives := rfl
@[simp] theorem State.cleanLine_pushers (line : Nat) : (s.cleanLine line).pushers = s.pushers := rfl
@[simp] theorem State.cleanLine_retired (line : Nat) : (s.cleanLine line).retired = s.retired := rfl
@[simp] theorem State.cleanLine_heldEvents (line : Nat) : (s.cleanLine line).heldEvents = s.heldEvents := rfl
@[simp] theorem State.cleanLine_errlog (line : Nat) : (s.cleanLine line).errlog = s.errlog := rfl
@[simp] theorem State.cleanLine_rseq (line : Nat) : (s.cleanLine line).rseq = s.rseq := rfl
@[simp] theorem State.cleanLine_scrubs (line : Nat) : (s.cleanLine line).scrubs = s.scrubs := rfl
@[simp] theorem State.cleanLine_spdm (line : Nat) : (s.cleanLine line).spdm = s.spdm := rfl
@[simp] theorem State.cleanLine_tasks (line : Nat) : (s.cleanLine line).tasks = s.tasks := rfl
@[simp] theorem State.cleanLine_late (line : Nat) : (s.cleanLine line).late = s.late := rfl
@[simp] theorem State.cleanLine_taskTails (line : Nat) : (s.cleanLine line).taskTails = s.taskTails := rfl
@[simp] theorem State.cleanLine_lost (line : Nat) : (s.cleanLine line).lost = s.lost := rfl
@[simp] theorem State.cleanLine_domains (line : Nat) : (s.cleanLine line).domains = s.domains := rfl
@[simp] theorem State.cleanLine_viralDevice (line : Nat) : (s.cleanLine line).viralDevice = s.viralDevice := rfl
@[simp] theorem State.cleanLine_power (line : Nat) : (s.cleanLine line).power = s.power := rfl
@[simp] theorem State.cleanLine_peerId (line : Nat) : (s.cleanLine line).peerId = s.peerId := rfl
@[simp] theorem State.cleanLine_boot (line : Nat) : (s.cleanLine line).boot = s.boot := rfl
@[simp] theorem State.cleanLine_nextId (line : Nat) : (s.cleanLine line).nextId = s.nextId := rfl
@[simp] theorem State.cleanLine_nextTag (line : Nat) : (s.cleanLine line).nextTag = s.nextTag := rfl
@[simp] theorem State.cleanLine_agenda (line : Nat) : (s.cleanLine line).agenda = s.agenda := rfl
@[simp] theorem State.cleanLine_cur (line : Nat) : (s.cleanLine line).cur = s.cur := rfl
@[simp] theorem State.cleanLine_freeCtr (line : Nat) : (s.cleanLine line).freeCtr = s.freeCtr := rfl
@[simp] theorem State.cleanLine_out (line : Nat) : (s.cleanLine line).out = s.out := rfl

/-! ### `tick` -/

@[simp] theorem State.tick_fitting : (s.tick).fitting = s.fitting := rfl
@[simp] theorem State.tick_mem : (s.tick).mem = s.mem := rfl
@[simp] theorem State.tick_poison : (s.tick).poison = s.poison := rfl
@[simp] theorem State.tick_modified : (s.tick).modified = s.modified := rfl
@[simp] theorem State.tick_l1 : (s.tick).l1 = s.l1 := rfl
@[simp] theorem State.tick_l2 : (s.tick).l2 = s.l2 := rfl
@[simp] theorem State.tick_dir : (s.tick).dir = s.dir := rfl
@[simp] theorem State.tick_snoop : (s.tick).snoop = s.snoop := rfl
@[simp] theorem State.tick_remote : (s.tick).remote = s.remote := rfl
@[simp] theorem State.tick_asked : (s.tick).asked = s.asked := rfl
@[simp] theorem State.tick_tlb : (s.tick).tlb = s.tlb := rfl
@[simp] theorem State.tick_bar : (s.tick).bar = s.bar := rfl
@[simp] theorem State.tick_invDone : (s.tick).invDone = s.invDone := rfl
@[simp] theorem State.tick_invPending : (s.tick).invPending = s.invPending := rfl
@[simp] theorem State.tick_counters : (s.tick).counters = s.counters := rfl
@[simp] theorem State.tick_ctxs : (s.tick).ctxs = s.ctxs := rfl
@[simp] theorem State.tick_images : (s.tick).images = s.images := rfl
@[simp] theorem State.tick_wgs : (s.tick).wgs = s.wgs := rfl
@[simp] theorem State.tick_groups : (s.tick).groups = s.groups := rfl
@[simp] theorem State.tick_gangs : (s.tick).gangs = s.gangs := rfl
@[simp] theorem State.tick_leftovers : (s.tick).leftovers = s.leftovers := rfl
@[simp] theorem State.tick_cmds : (s.tick).cmds = s.cmds := rfl
@[simp] theorem State.tick_faults : (s.tick).faults = s.faults := rfl
@[simp] theorem State.tick_kills : (s.tick).kills = s.kills := rfl
@[simp] theorem State.tick_kites : (s.tick).kites = s.kites := rfl
@[simp] theorem State.tick_saved : (s.tick).saved = s.saved := rfl
@[simp] theorem State.tick_seals : (s.tick).seals = s.seals := rfl
@[simp] theorem State.tick_candidates : (s.tick).candidates = s.candidates := rfl
@[simp] theorem State.tick_reached : (s.tick).reached = s.reached := rfl
@[simp] theorem State.tick_waves : (s.tick).waves = s.waves := rfl
@[simp] theorem State.tick_work : (s.tick).work = s.work := rfl
@[simp] theorem State.tick_budgets : (s.tick).budgets = s.budgets := rfl
@[simp] theorem State.tick_stopped : (s.tick).stopped = s.stopped := rfl
@[simp] theorem State.tick_ordered : (s.tick).ordered = s.ordered := rfl
@[simp] theorem State.tick_queued : (s.tick).queued = s.queued := rfl
@[simp] theorem State.tick_orders : (s.tick).orders = s.orders := rfl
@[simp] theorem State.tick_reserved : (s.tick).reserved = s.reserved := rfl
@[simp] theorem State.tick_gangWait : (s.tick).gangWait = s.gangWait := rfl
@[simp] theorem State.tick_lastEpoch : (s.tick).lastEpoch = s.lastEpoch := rfl
@[simp] theorem State.tick_lastStart : (s.tick).lastStart = s.lastStart := rfl
@[simp] theorem State.tick_collectives : (s.tick).collectives = s.collectives := rfl
@[simp] theorem State.tick_pushers : (s.tick).pushers = s.pushers := rfl
@[simp] theorem State.tick_retired : (s.tick).retired = s.retired := rfl
@[simp] theorem State.tick_heldEvents : (s.tick).heldEvents = s.heldEvents := rfl
@[simp] theorem State.tick_errlog : (s.tick).errlog = s.errlog := rfl
@[simp] theorem State.tick_rseq : (s.tick).rseq = s.rseq := rfl
@[simp] theorem State.tick_scrubs : (s.tick).scrubs = s.scrubs := rfl
@[simp] theorem State.tick_spdm : (s.tick).spdm = s.spdm := rfl
@[simp] theorem State.tick_tasks : (s.tick).tasks = s.tasks := rfl
@[simp] theorem State.tick_late : (s.tick).late = s.late := rfl
@[simp] theorem State.tick_taskTails : (s.tick).taskTails = s.taskTails := rfl
@[simp] theorem State.tick_lost : (s.tick).lost = s.lost := rfl
@[simp] theorem State.tick_domains : (s.tick).domains = s.domains := rfl
@[simp] theorem State.tick_viralDevice : (s.tick).viralDevice = s.viralDevice := rfl
@[simp] theorem State.tick_peerId : (s.tick).peerId = s.peerId := rfl
@[simp] theorem State.tick_boot : (s.tick).boot = s.boot := rfl
@[simp] theorem State.tick_nextId : (s.tick).nextId = s.nextId := rfl
@[simp] theorem State.tick_nextTag : (s.tick).nextTag = s.nextTag := rfl
@[simp] theorem State.tick_agenda : (s.tick).agenda = s.agenda := rfl
@[simp] theorem State.tick_cur : (s.tick).cur = s.cur := rfl
@[simp] theorem State.tick_out : (s.tick).out = s.out := rfl

/-! ### `Group.setS` -/

@[simp] theorem Group.setS_gid (i : Nat) (x : Word64) : (g.setS i x).gid = g.gid := rfl
@[simp] theorem Group.setS_wid (i : Nat) (x : Word64) : (g.setS i x).wid = g.wid := rfl
@[simp] theorem Group.setS_gidx (i : Nat) (x : Word64) : (g.setS i x).gidx = g.gidx := rfl
@[simp] theorem Group.setS_part (i : Nat) (x : Word64) : (g.setS i x).part = g.part := rfl
@[simp] theorem Group.setS_role (i : Nat) (x : Word64) : (g.setS i x).role = g.role := rfl
@[simp] theorem Group.setS_vregs (i : Nat) (x : Word64) : (g.setS i x).vregs = g.vregs := rfl
@[simp] theorem Group.setS_preds (i : Nat) (x : Word64) : (g.setS i x).preds = g.preds := rfl
@[simp] theorem Group.setS_hregs (i : Nat) (x : Word64) : (g.setS i x).hregs = g.hregs := rfl
@[simp] theorem Group.setS_mregs (i : Nat) (x : Word64) : (g.setS i x).mregs = g.mregs := rfl
@[simp] theorem Group.setS_acc (i : Nat) (x : Word64) : (g.setS i x).acc = g.acc := rfl
@[simp] theorem Group.setS_vside (i : Nat) (x : Word64) : (g.setS i x).vside = g.vside := rfl
@[simp] theorem Group.setS_mside (i : Nat) (x : Word64) : (g.setS i x).mside = g.mside := rfl
@[simp] theorem Group.setS_tiles (i : Nat) (x : Word64) : (g.setS i x).tiles = g.tiles := rfl
@[simp] theorem Group.setS_streams (i : Nat) (x : Word64) : (g.setS i x).streams = g.streams := rfl
@[simp] theorem Group.setS_srstate (i : Nat) (x : Word64) : (g.setS i x).srstate = g.srstate := rfl
@[simp] theorem Group.setS_cvstate (i : Nat) (x : Word64) : (g.setS i x).cvstate = g.cvstate := rfl
@[simp] theorem Group.setS_good (i : Nat) (x : Word64) : (g.setS i x).good = g.good := rfl
@[simp] theorem Group.setS_prev (i : Nat) (x : Word64) : (g.setS i x).prev = g.prev := rfl
@[simp] theorem Group.setS_tlevel (i : Nat) (x : Word64) : (g.setS i x).tlevel = g.tlevel := rfl
@[simp] theorem Group.setS_bank1 (i : Nat) (x : Word64) : (g.setS i x).bank1 = g.bank1 := rfl
@[simp] theorem Group.setS_bank2 (i : Nat) (x : Word64) : (g.setS i x).bank2 = g.bank2 := rfl
@[simp] theorem Group.setS_tvec (i : Nat) (x : Word64) : (g.setS i x).tvec = g.tvec := rfl
@[simp] theorem Group.setS_pending (i : Nat) (x : Word64) : (g.setS i x).pending = g.pending := rfl
@[simp] theorem Group.setS_frags (i : Nat) (x : Word64) : (g.setS i x).frags = g.frags := rfl
@[simp] theorem Group.setS_nextFid (i : Nat) (x : Word64) : (g.setS i x).nextFid = g.nextFid := rfl
@[simp] theorem Group.setS_flights (i : Nat) (x : Word64) : (g.setS i x).flights = g.flights := rfl
@[simp] theorem Group.setS_sideLog (i : Nat) (x : Word64) : (g.setS i x).sideLog = g.sideLog := rfl
@[simp] theorem Group.setS_seq (i : Nat) (x : Word64) : (g.setS i x).seq = g.seq := rfl
@[simp] theorem Group.setS_mule (i : Nat) (x : Word64) : (g.setS i x).mule = g.mule := rfl
@[simp] theorem Group.setS_queues (i : Nat) (x : Word64) : (g.setS i x).queues = g.queues := rfl
@[simp] theorem Group.setS_sparse (i : Nat) (x : Word64) : (g.setS i x).sparse = g.sparse := rfl
@[simp] theorem Group.setS_spq (i : Nat) (x : Word64) : (g.setS i x).spq = g.spq := rfl
@[simp] theorem Group.setS_apx (i : Nat) (x : Word64) : (g.setS i x).apx = g.apx := rfl
@[simp] theorem Group.setS_matrix (i : Nat) (x : Word64) : (g.setS i x).matrix = g.matrix := rfl
@[simp] theorem Group.setS_since (i : Nat) (x : Word64) : (g.setS i x).since = g.since := rfl

/-! ### `Group.setV` -/

@[simp] theorem Group.setV_gid (r t : Nat) (x : Word32) : (g.setV r t x).gid = g.gid := rfl
@[simp] theorem Group.setV_wid (r t : Nat) (x : Word32) : (g.setV r t x).wid = g.wid := rfl
@[simp] theorem Group.setV_gidx (r t : Nat) (x : Word32) : (g.setV r t x).gidx = g.gidx := rfl
@[simp] theorem Group.setV_part (r t : Nat) (x : Word32) : (g.setV r t x).part = g.part := rfl
@[simp] theorem Group.setV_role (r t : Nat) (x : Word32) : (g.setV r t x).role = g.role := rfl
@[simp] theorem Group.setV_sregs (r t : Nat) (x : Word32) : (g.setV r t x).sregs = g.sregs := rfl
@[simp] theorem Group.setV_preds (r t : Nat) (x : Word32) : (g.setV r t x).preds = g.preds := rfl
@[simp] theorem Group.setV_hregs (r t : Nat) (x : Word32) : (g.setV r t x).hregs = g.hregs := rfl
@[simp] theorem Group.setV_mregs (r t : Nat) (x : Word32) : (g.setV r t x).mregs = g.mregs := rfl
@[simp] theorem Group.setV_acc (r t : Nat) (x : Word32) : (g.setV r t x).acc = g.acc := rfl
@[simp] theorem Group.setV_vside (r t : Nat) (x : Word32) : (g.setV r t x).vside = g.vside := rfl
@[simp] theorem Group.setV_mside (r t : Nat) (x : Word32) : (g.setV r t x).mside = g.mside := rfl
@[simp] theorem Group.setV_tiles (r t : Nat) (x : Word32) : (g.setV r t x).tiles = g.tiles := rfl
@[simp] theorem Group.setV_streams (r t : Nat) (x : Word32) : (g.setV r t x).streams = g.streams := rfl
@[simp] theorem Group.setV_srstate (r t : Nat) (x : Word32) : (g.setV r t x).srstate = g.srstate := rfl
@[simp] theorem Group.setV_cvstate (r t : Nat) (x : Word32) : (g.setV r t x).cvstate = g.cvstate := rfl
@[simp] theorem Group.setV_good (r t : Nat) (x : Word32) : (g.setV r t x).good = g.good := rfl
@[simp] theorem Group.setV_prev (r t : Nat) (x : Word32) : (g.setV r t x).prev = g.prev := rfl
@[simp] theorem Group.setV_tlevel (r t : Nat) (x : Word32) : (g.setV r t x).tlevel = g.tlevel := rfl
@[simp] theorem Group.setV_bank1 (r t : Nat) (x : Word32) : (g.setV r t x).bank1 = g.bank1 := rfl
@[simp] theorem Group.setV_bank2 (r t : Nat) (x : Word32) : (g.setV r t x).bank2 = g.bank2 := rfl
@[simp] theorem Group.setV_tvec (r t : Nat) (x : Word32) : (g.setV r t x).tvec = g.tvec := rfl
@[simp] theorem Group.setV_pending (r t : Nat) (x : Word32) : (g.setV r t x).pending = g.pending := rfl
@[simp] theorem Group.setV_frags (r t : Nat) (x : Word32) : (g.setV r t x).frags = g.frags := rfl
@[simp] theorem Group.setV_nextFid (r t : Nat) (x : Word32) : (g.setV r t x).nextFid = g.nextFid := rfl
@[simp] theorem Group.setV_flights (r t : Nat) (x : Word32) : (g.setV r t x).flights = g.flights := rfl
@[simp] theorem Group.setV_sideLog (r t : Nat) (x : Word32) : (g.setV r t x).sideLog = g.sideLog := rfl
@[simp] theorem Group.setV_seq (r t : Nat) (x : Word32) : (g.setV r t x).seq = g.seq := rfl
@[simp] theorem Group.setV_mule (r t : Nat) (x : Word32) : (g.setV r t x).mule = g.mule := rfl
@[simp] theorem Group.setV_queues (r t : Nat) (x : Word32) : (g.setV r t x).queues = g.queues := rfl
@[simp] theorem Group.setV_sparse (r t : Nat) (x : Word32) : (g.setV r t x).sparse = g.sparse := rfl
@[simp] theorem Group.setV_spq (r t : Nat) (x : Word32) : (g.setV r t x).spq = g.spq := rfl
@[simp] theorem Group.setV_apx (r t : Nat) (x : Word32) : (g.setV r t x).apx = g.apx := rfl
@[simp] theorem Group.setV_matrix (r t : Nat) (x : Word32) : (g.setV r t x).matrix = g.matrix := rfl
@[simp] theorem Group.setV_since (r t : Nat) (x : Word32) : (g.setV r t x).since = g.since := rfl

/-! ### `Group.setH` -/

@[simp] theorem Group.setH_gid (r t : Nat) (x : Word64) : (g.setH r t x).gid = g.gid := rfl
@[simp] theorem Group.setH_wid (r t : Nat) (x : Word64) : (g.setH r t x).wid = g.wid := rfl
@[simp] theorem Group.setH_gidx (r t : Nat) (x : Word64) : (g.setH r t x).gidx = g.gidx := rfl
@[simp] theorem Group.setH_part (r t : Nat) (x : Word64) : (g.setH r t x).part = g.part := rfl
@[simp] theorem Group.setH_role (r t : Nat) (x : Word64) : (g.setH r t x).role = g.role := rfl
@[simp] theorem Group.setH_sregs (r t : Nat) (x : Word64) : (g.setH r t x).sregs = g.sregs := rfl
@[simp] theorem Group.setH_vregs (r t : Nat) (x : Word64) : (g.setH r t x).vregs = g.vregs := rfl
@[simp] theorem Group.setH_preds (r t : Nat) (x : Word64) : (g.setH r t x).preds = g.preds := rfl
@[simp] theorem Group.setH_mregs (r t : Nat) (x : Word64) : (g.setH r t x).mregs = g.mregs := rfl
@[simp] theorem Group.setH_acc (r t : Nat) (x : Word64) : (g.setH r t x).acc = g.acc := rfl
@[simp] theorem Group.setH_vside (r t : Nat) (x : Word64) : (g.setH r t x).vside = g.vside := rfl
@[simp] theorem Group.setH_mside (r t : Nat) (x : Word64) : (g.setH r t x).mside = g.mside := rfl
@[simp] theorem Group.setH_tiles (r t : Nat) (x : Word64) : (g.setH r t x).tiles = g.tiles := rfl
@[simp] theorem Group.setH_streams (r t : Nat) (x : Word64) : (g.setH r t x).streams = g.streams := rfl
@[simp] theorem Group.setH_srstate (r t : Nat) (x : Word64) : (g.setH r t x).srstate = g.srstate := rfl
@[simp] theorem Group.setH_cvstate (r t : Nat) (x : Word64) : (g.setH r t x).cvstate = g.cvstate := rfl
@[simp] theorem Group.setH_good (r t : Nat) (x : Word64) : (g.setH r t x).good = g.good := rfl
@[simp] theorem Group.setH_prev (r t : Nat) (x : Word64) : (g.setH r t x).prev = g.prev := rfl
@[simp] theorem Group.setH_tlevel (r t : Nat) (x : Word64) : (g.setH r t x).tlevel = g.tlevel := rfl
@[simp] theorem Group.setH_bank1 (r t : Nat) (x : Word64) : (g.setH r t x).bank1 = g.bank1 := rfl
@[simp] theorem Group.setH_bank2 (r t : Nat) (x : Word64) : (g.setH r t x).bank2 = g.bank2 := rfl
@[simp] theorem Group.setH_tvec (r t : Nat) (x : Word64) : (g.setH r t x).tvec = g.tvec := rfl
@[simp] theorem Group.setH_pending (r t : Nat) (x : Word64) : (g.setH r t x).pending = g.pending := rfl
@[simp] theorem Group.setH_frags (r t : Nat) (x : Word64) : (g.setH r t x).frags = g.frags := rfl
@[simp] theorem Group.setH_nextFid (r t : Nat) (x : Word64) : (g.setH r t x).nextFid = g.nextFid := rfl
@[simp] theorem Group.setH_flights (r t : Nat) (x : Word64) : (g.setH r t x).flights = g.flights := rfl
@[simp] theorem Group.setH_sideLog (r t : Nat) (x : Word64) : (g.setH r t x).sideLog = g.sideLog := rfl
@[simp] theorem Group.setH_seq (r t : Nat) (x : Word64) : (g.setH r t x).seq = g.seq := rfl
@[simp] theorem Group.setH_mule (r t : Nat) (x : Word64) : (g.setH r t x).mule = g.mule := rfl
@[simp] theorem Group.setH_queues (r t : Nat) (x : Word64) : (g.setH r t x).queues = g.queues := rfl
@[simp] theorem Group.setH_sparse (r t : Nat) (x : Word64) : (g.setH r t x).sparse = g.sparse := rfl
@[simp] theorem Group.setH_spq (r t : Nat) (x : Word64) : (g.setH r t x).spq = g.spq := rfl
@[simp] theorem Group.setH_apx (r t : Nat) (x : Word64) : (g.setH r t x).apx = g.apx := rfl
@[simp] theorem Group.setH_matrix (r t : Nat) (x : Word64) : (g.setH r t x).matrix = g.matrix := rfl
@[simp] theorem Group.setH_since (r t : Nat) (x : Word64) : (g.setH r t x).since = g.since := rfl

/-! ### `Group.setAcc` -/

@[simp] theorem Group.setAcc_gid (tile row col : Nat) (x : Word32) : (g.setAcc tile row col x).gid = g.gid := rfl
@[simp] theorem Group.setAcc_wid (tile row col : Nat) (x : Word32) : (g.setAcc tile row col x).wid = g.wid := rfl
@[simp] theorem Group.setAcc_gidx (tile row col : Nat) (x : Word32) : (g.setAcc tile row col x).gidx = g.gidx := rfl
@[simp] theorem Group.setAcc_part (tile row col : Nat) (x : Word32) : (g.setAcc tile row col x).part = g.part := rfl
@[simp] theorem Group.setAcc_role (tile row col : Nat) (x : Word32) : (g.setAcc tile row col x).role = g.role := rfl
@[simp] theorem Group.setAcc_sregs (tile row col : Nat) (x : Word32) : (g.setAcc tile row col x).sregs = g.sregs := rfl
@[simp] theorem Group.setAcc_vregs (tile row col : Nat) (x : Word32) : (g.setAcc tile row col x).vregs = g.vregs := rfl
@[simp] theorem Group.setAcc_preds (tile row col : Nat) (x : Word32) : (g.setAcc tile row col x).preds = g.preds := rfl
@[simp] theorem Group.setAcc_hregs (tile row col : Nat) (x : Word32) : (g.setAcc tile row col x).hregs = g.hregs := rfl
@[simp] theorem Group.setAcc_mregs (tile row col : Nat) (x : Word32) : (g.setAcc tile row col x).mregs = g.mregs := rfl
@[simp] theorem Group.setAcc_vside (tile row col : Nat) (x : Word32) : (g.setAcc tile row col x).vside = g.vside := rfl
@[simp] theorem Group.setAcc_mside (tile row col : Nat) (x : Word32) : (g.setAcc tile row col x).mside = g.mside := rfl
@[simp] theorem Group.setAcc_tiles (tile row col : Nat) (x : Word32) : (g.setAcc tile row col x).tiles = g.tiles := rfl
@[simp] theorem Group.setAcc_streams (tile row col : Nat) (x : Word32) : (g.setAcc tile row col x).streams = g.streams := rfl
@[simp] theorem Group.setAcc_srstate (tile row col : Nat) (x : Word32) : (g.setAcc tile row col x).srstate = g.srstate := rfl
@[simp] theorem Group.setAcc_cvstate (tile row col : Nat) (x : Word32) : (g.setAcc tile row col x).cvstate = g.cvstate := rfl
@[simp] theorem Group.setAcc_good (tile row col : Nat) (x : Word32) : (g.setAcc tile row col x).good = g.good := rfl
@[simp] theorem Group.setAcc_prev (tile row col : Nat) (x : Word32) : (g.setAcc tile row col x).prev = g.prev := rfl
@[simp] theorem Group.setAcc_tlevel (tile row col : Nat) (x : Word32) : (g.setAcc tile row col x).tlevel = g.tlevel := rfl
@[simp] theorem Group.setAcc_bank1 (tile row col : Nat) (x : Word32) : (g.setAcc tile row col x).bank1 = g.bank1 := rfl
@[simp] theorem Group.setAcc_bank2 (tile row col : Nat) (x : Word32) : (g.setAcc tile row col x).bank2 = g.bank2 := rfl
@[simp] theorem Group.setAcc_tvec (tile row col : Nat) (x : Word32) : (g.setAcc tile row col x).tvec = g.tvec := rfl
@[simp] theorem Group.setAcc_pending (tile row col : Nat) (x : Word32) : (g.setAcc tile row col x).pending = g.pending := rfl
@[simp] theorem Group.setAcc_frags (tile row col : Nat) (x : Word32) : (g.setAcc tile row col x).frags = g.frags := rfl
@[simp] theorem Group.setAcc_nextFid (tile row col : Nat) (x : Word32) : (g.setAcc tile row col x).nextFid = g.nextFid := rfl
@[simp] theorem Group.setAcc_flights (tile row col : Nat) (x : Word32) : (g.setAcc tile row col x).flights = g.flights := rfl
@[simp] theorem Group.setAcc_sideLog (tile row col : Nat) (x : Word32) : (g.setAcc tile row col x).sideLog = g.sideLog := rfl
@[simp] theorem Group.setAcc_seq (tile row col : Nat) (x : Word32) : (g.setAcc tile row col x).seq = g.seq := rfl
@[simp] theorem Group.setAcc_mule (tile row col : Nat) (x : Word32) : (g.setAcc tile row col x).mule = g.mule := rfl
@[simp] theorem Group.setAcc_queues (tile row col : Nat) (x : Word32) : (g.setAcc tile row col x).queues = g.queues := rfl
@[simp] theorem Group.setAcc_sparse (tile row col : Nat) (x : Word32) : (g.setAcc tile row col x).sparse = g.sparse := rfl
@[simp] theorem Group.setAcc_spq (tile row col : Nat) (x : Word32) : (g.setAcc tile row col x).spq = g.spq := rfl
@[simp] theorem Group.setAcc_apx (tile row col : Nat) (x : Word32) : (g.setAcc tile row col x).apx = g.apx := rfl
@[simp] theorem Group.setAcc_matrix (tile row col : Nat) (x : Word32) : (g.setAcc tile row col x).matrix = g.matrix := rfl
@[simp] theorem Group.setAcc_since (tile row col : Nat) (x : Word32) : (g.setAcc tile row col x).since = g.since := rfl

/-! ### `Group.modFrag` -/

@[simp] theorem Group.modFrag_gid (fid : Nat) (h : Frag → Frag) : (g.modFrag fid h).gid = g.gid := rfl
@[simp] theorem Group.modFrag_wid (fid : Nat) (h : Frag → Frag) : (g.modFrag fid h).wid = g.wid := rfl
@[simp] theorem Group.modFrag_gidx (fid : Nat) (h : Frag → Frag) : (g.modFrag fid h).gidx = g.gidx := rfl
@[simp] theorem Group.modFrag_part (fid : Nat) (h : Frag → Frag) : (g.modFrag fid h).part = g.part := rfl
@[simp] theorem Group.modFrag_role (fid : Nat) (h : Frag → Frag) : (g.modFrag fid h).role = g.role := rfl
@[simp] theorem Group.modFrag_sregs (fid : Nat) (h : Frag → Frag) : (g.modFrag fid h).sregs = g.sregs := rfl
@[simp] theorem Group.modFrag_vregs (fid : Nat) (h : Frag → Frag) : (g.modFrag fid h).vregs = g.vregs := rfl
@[simp] theorem Group.modFrag_preds (fid : Nat) (h : Frag → Frag) : (g.modFrag fid h).preds = g.preds := rfl
@[simp] theorem Group.modFrag_hregs (fid : Nat) (h : Frag → Frag) : (g.modFrag fid h).hregs = g.hregs := rfl
@[simp] theorem Group.modFrag_mregs (fid : Nat) (h : Frag → Frag) : (g.modFrag fid h).mregs = g.mregs := rfl
@[simp] theorem Group.modFrag_acc (fid : Nat) (h : Frag → Frag) : (g.modFrag fid h).acc = g.acc := rfl
@[simp] theorem Group.modFrag_vside (fid : Nat) (h : Frag → Frag) : (g.modFrag fid h).vside = g.vside := rfl
@[simp] theorem Group.modFrag_mside (fid : Nat) (h : Frag → Frag) : (g.modFrag fid h).mside = g.mside := rfl
@[simp] theorem Group.modFrag_tiles (fid : Nat) (h : Frag → Frag) : (g.modFrag fid h).tiles = g.tiles := rfl
@[simp] theorem Group.modFrag_streams (fid : Nat) (h : Frag → Frag) : (g.modFrag fid h).streams = g.streams := rfl
@[simp] theorem Group.modFrag_srstate (fid : Nat) (h : Frag → Frag) : (g.modFrag fid h).srstate = g.srstate := rfl
@[simp] theorem Group.modFrag_cvstate (fid : Nat) (h : Frag → Frag) : (g.modFrag fid h).cvstate = g.cvstate := rfl
@[simp] theorem Group.modFrag_good (fid : Nat) (h : Frag → Frag) : (g.modFrag fid h).good = g.good := rfl
@[simp] theorem Group.modFrag_prev (fid : Nat) (h : Frag → Frag) : (g.modFrag fid h).prev = g.prev := rfl
@[simp] theorem Group.modFrag_tlevel (fid : Nat) (h : Frag → Frag) : (g.modFrag fid h).tlevel = g.tlevel := rfl
@[simp] theorem Group.modFrag_bank1 (fid : Nat) (h : Frag → Frag) : (g.modFrag fid h).bank1 = g.bank1 := rfl
@[simp] theorem Group.modFrag_bank2 (fid : Nat) (h : Frag → Frag) : (g.modFrag fid h).bank2 = g.bank2 := rfl
@[simp] theorem Group.modFrag_tvec (fid : Nat) (h : Frag → Frag) : (g.modFrag fid h).tvec = g.tvec := rfl
@[simp] theorem Group.modFrag_pending (fid : Nat) (h : Frag → Frag) : (g.modFrag fid h).pending = g.pending := rfl
@[simp] theorem Group.modFrag_nextFid (fid : Nat) (h : Frag → Frag) : (g.modFrag fid h).nextFid = g.nextFid := rfl
@[simp] theorem Group.modFrag_flights (fid : Nat) (h : Frag → Frag) : (g.modFrag fid h).flights = g.flights := rfl
@[simp] theorem Group.modFrag_sideLog (fid : Nat) (h : Frag → Frag) : (g.modFrag fid h).sideLog = g.sideLog := rfl
@[simp] theorem Group.modFrag_seq (fid : Nat) (h : Frag → Frag) : (g.modFrag fid h).seq = g.seq := rfl
@[simp] theorem Group.modFrag_mule (fid : Nat) (h : Frag → Frag) : (g.modFrag fid h).mule = g.mule := rfl
@[simp] theorem Group.modFrag_queues (fid : Nat) (h : Frag → Frag) : (g.modFrag fid h).queues = g.queues := rfl
@[simp] theorem Group.modFrag_sparse (fid : Nat) (h : Frag → Frag) : (g.modFrag fid h).sparse = g.sparse := rfl
@[simp] theorem Group.modFrag_spq (fid : Nat) (h : Frag → Frag) : (g.modFrag fid h).spq = g.spq := rfl
@[simp] theorem Group.modFrag_apx (fid : Nat) (h : Frag → Frag) : (g.modFrag fid h).apx = g.apx := rfl
@[simp] theorem Group.modFrag_matrix (fid : Nat) (h : Frag → Frag) : (g.modFrag fid h).matrix = g.matrix := rfl
@[simp] theorem Group.modFrag_since (fid : Nat) (h : Frag → Frag) : (g.modFrag fid h).since = g.since := rfl

/-! ### `Group.modMule` -/

@[simp] theorem Group.modMule_gid (h : Mule → Mule) : (g.modMule h).gid = g.gid := rfl
@[simp] theorem Group.modMule_wid (h : Mule → Mule) : (g.modMule h).wid = g.wid := rfl
@[simp] theorem Group.modMule_gidx (h : Mule → Mule) : (g.modMule h).gidx = g.gidx := rfl
@[simp] theorem Group.modMule_part (h : Mule → Mule) : (g.modMule h).part = g.part := rfl
@[simp] theorem Group.modMule_role (h : Mule → Mule) : (g.modMule h).role = g.role := rfl
@[simp] theorem Group.modMule_sregs (h : Mule → Mule) : (g.modMule h).sregs = g.sregs := rfl
@[simp] theorem Group.modMule_vregs (h : Mule → Mule) : (g.modMule h).vregs = g.vregs := rfl
@[simp] theorem Group.modMule_preds (h : Mule → Mule) : (g.modMule h).preds = g.preds := rfl
@[simp] theorem Group.modMule_hregs (h : Mule → Mule) : (g.modMule h).hregs = g.hregs := rfl
@[simp] theorem Group.modMule_mregs (h : Mule → Mule) : (g.modMule h).mregs = g.mregs := rfl
@[simp] theorem Group.modMule_acc (h : Mule → Mule) : (g.modMule h).acc = g.acc := rfl
@[simp] theorem Group.modMule_vside (h : Mule → Mule) : (g.modMule h).vside = g.vside := rfl
@[simp] theorem Group.modMule_mside (h : Mule → Mule) : (g.modMule h).mside = g.mside := rfl
@[simp] theorem Group.modMule_tiles (h : Mule → Mule) : (g.modMule h).tiles = g.tiles := rfl
@[simp] theorem Group.modMule_streams (h : Mule → Mule) : (g.modMule h).streams = g.streams := rfl
@[simp] theorem Group.modMule_srstate (h : Mule → Mule) : (g.modMule h).srstate = g.srstate := rfl
@[simp] theorem Group.modMule_cvstate (h : Mule → Mule) : (g.modMule h).cvstate = g.cvstate := rfl
@[simp] theorem Group.modMule_good (h : Mule → Mule) : (g.modMule h).good = g.good := rfl
@[simp] theorem Group.modMule_prev (h : Mule → Mule) : (g.modMule h).prev = g.prev := rfl
@[simp] theorem Group.modMule_tlevel (h : Mule → Mule) : (g.modMule h).tlevel = g.tlevel := rfl
@[simp] theorem Group.modMule_bank1 (h : Mule → Mule) : (g.modMule h).bank1 = g.bank1 := rfl
@[simp] theorem Group.modMule_bank2 (h : Mule → Mule) : (g.modMule h).bank2 = g.bank2 := rfl
@[simp] theorem Group.modMule_tvec (h : Mule → Mule) : (g.modMule h).tvec = g.tvec := rfl
@[simp] theorem Group.modMule_pending (h : Mule → Mule) : (g.modMule h).pending = g.pending := rfl
@[simp] theorem Group.modMule_frags (h : Mule → Mule) : (g.modMule h).frags = g.frags := rfl
@[simp] theorem Group.modMule_nextFid (h : Mule → Mule) : (g.modMule h).nextFid = g.nextFid := rfl
@[simp] theorem Group.modMule_flights (h : Mule → Mule) : (g.modMule h).flights = g.flights := rfl
@[simp] theorem Group.modMule_sideLog (h : Mule → Mule) : (g.modMule h).sideLog = g.sideLog := rfl
@[simp] theorem Group.modMule_seq (h : Mule → Mule) : (g.modMule h).seq = g.seq := rfl
@[simp] theorem Group.modMule_queues (h : Mule → Mule) : (g.modMule h).queues = g.queues := rfl
@[simp] theorem Group.modMule_sparse (h : Mule → Mule) : (g.modMule h).sparse = g.sparse := rfl
@[simp] theorem Group.modMule_spq (h : Mule → Mule) : (g.modMule h).spq = g.spq := rfl
@[simp] theorem Group.modMule_apx (h : Mule → Mule) : (g.modMule h).apx = g.apx := rfl
@[simp] theorem Group.modMule_matrix (h : Mule → Mule) : (g.modMule h).matrix = g.matrix := rfl
@[simp] theorem Group.modMule_since (h : Mule → Mule) : (g.modMule h).since = g.since := rfl

/-! ### `Group.fly` -/

@[simp] theorem Group.fly_gid (f : Flight) : (g.fly f).gid = g.gid := rfl
@[simp] theorem Group.fly_wid (f : Flight) : (g.fly f).wid = g.wid := rfl
@[simp] theorem Group.fly_gidx (f : Flight) : (g.fly f).gidx = g.gidx := rfl
@[simp] theorem Group.fly_part (f : Flight) : (g.fly f).part = g.part := rfl
@[simp] theorem Group.fly_role (f : Flight) : (g.fly f).role = g.role := rfl
@[simp] theorem Group.fly_sregs (f : Flight) : (g.fly f).sregs = g.sregs := rfl
@[simp] theorem Group.fly_vregs (f : Flight) : (g.fly f).vregs = g.vregs := rfl
@[simp] theorem Group.fly_preds (f : Flight) : (g.fly f).preds = g.preds := rfl
@[simp] theorem Group.fly_hregs (f : Flight) : (g.fly f).hregs = g.hregs := rfl
@[simp] theorem Group.fly_mregs (f : Flight) : (g.fly f).mregs = g.mregs := rfl
@[simp] theorem Group.fly_acc (f : Flight) : (g.fly f).acc = g.acc := rfl
@[simp] theorem Group.fly_vside (f : Flight) : (g.fly f).vside = g.vside := rfl
@[simp] theorem Group.fly_mside (f : Flight) : (g.fly f).mside = g.mside := rfl
@[simp] theorem Group.fly_tiles (f : Flight) : (g.fly f).tiles = g.tiles := rfl
@[simp] theorem Group.fly_streams (f : Flight) : (g.fly f).streams = g.streams := rfl
@[simp] theorem Group.fly_srstate (f : Flight) : (g.fly f).srstate = g.srstate := rfl
@[simp] theorem Group.fly_cvstate (f : Flight) : (g.fly f).cvstate = g.cvstate := rfl
@[simp] theorem Group.fly_good (f : Flight) : (g.fly f).good = g.good := rfl
@[simp] theorem Group.fly_prev (f : Flight) : (g.fly f).prev = g.prev := rfl
@[simp] theorem Group.fly_tlevel (f : Flight) : (g.fly f).tlevel = g.tlevel := rfl
@[simp] theorem Group.fly_bank1 (f : Flight) : (g.fly f).bank1 = g.bank1 := rfl
@[simp] theorem Group.fly_bank2 (f : Flight) : (g.fly f).bank2 = g.bank2 := rfl
@[simp] theorem Group.fly_tvec (f : Flight) : (g.fly f).tvec = g.tvec := rfl
@[simp] theorem Group.fly_pending (f : Flight) : (g.fly f).pending = g.pending := rfl
@[simp] theorem Group.fly_frags (f : Flight) : (g.fly f).frags = g.frags := rfl
@[simp] theorem Group.fly_nextFid (f : Flight) : (g.fly f).nextFid = g.nextFid := rfl
@[simp] theorem Group.fly_sideLog (f : Flight) : (g.fly f).sideLog = g.sideLog := rfl
@[simp] theorem Group.fly_seq (f : Flight) : (g.fly f).seq = g.seq := rfl
@[simp] theorem Group.fly_mule (f : Flight) : (g.fly f).mule = g.mule := rfl
@[simp] theorem Group.fly_queues (f : Flight) : (g.fly f).queues = g.queues := rfl
@[simp] theorem Group.fly_sparse (f : Flight) : (g.fly f).sparse = g.sparse := rfl
@[simp] theorem Group.fly_spq (f : Flight) : (g.fly f).spq = g.spq := rfl
@[simp] theorem Group.fly_apx (f : Flight) : (g.fly f).apx = g.apx := rfl
@[simp] theorem Group.fly_matrix (f : Flight) : (g.fly f).matrix = g.matrix := rfl
@[simp] theorem Group.fly_since (f : Flight) : (g.fly f).since = g.since := rfl

end Sys2Proof.Machine
end

