-- ==== Sys2Proof/Laws/Caches.lean ====
section
/-! SUPPORT. What the caches' bookkeeping can do: it leaves memory, groups and workgroups as they are, and a write through it
stores its bytes and nothing else. -/

namespace Sys2Proof.Machine

/-- A state with the same memory, groups, workgroups and clock. -/
def State.SameRun (s t : State) : Prop := t.mem = s.mem ∧ t.groups = s.groups ∧ t.wgs = s.wgs ∧ t.clock = s.clock

theorem State.SameRun.refl (s : State) : State.SameRun s s := ⟨rfl, rfl, rfl, rfl⟩
theorem State.SameRun.trans {s t u : State} (h : s.SameRun t) (k : t.SameRun u) : s.SameRun u :=
  ⟨k.1.trans h.1, k.2.1.trans h.2.1, k.2.2.1.trans h.2.2.1, k.2.2.2.trans h.2.2.2⟩
/-- A fold of updates that each keep these keeps them. -/
theorem State.SameRun.foldl {α : Type} {f : State → α → State} (h : ∀ (s : State) (a : α), s.SameRun (f s a)) :
    ∀ (l : List α) (s : State), s.SameRun (l.foldl f s)
  | [], s => .refl s
  | a :: l, s => (h s a).trans (State.SameRun.foldl h l (f s a))

theorem State.uncache_sameRun (s : State) (line : Nat) : s.SameRun (s.uncache line) := ⟨rfl, rfl, rfl, rfl⟩
theorem State.setDir_sameRun (s : State) (e : DirEntry) : s.SameRun (s.setDir e) := by
  unfold State.setDir
  split <;> exact ⟨rfl, rfl, rfl, rfl⟩
theorem State.setSnoop_sameRun (s : State) (e : SnoopEntry) : s.SameRun (s.setSnoop e) := by
  unfold State.setSnoop
  split
  · exact ⟨rfl, rfl, rfl, rfl⟩
  · split <;> exact ⟨rfl, rfl, rfl, rfl⟩

theorem State.fillL2_sameRun (s : State) (line : Nat) : s.SameRun (s.fillL2 line) := by
  unfold State.fillL2
  split
  · exact .refl s
  · generalize (if s.l2.length < 16 then [] else s.l2.filter (s.sameSet line)) = ways
    dsimp only
    split
    · exact ⟨rfl, rfl, rfl, rfl⟩
    · split
      · exact ⟨rfl, rfl, rfl, rfl⟩
      · exact .refl s

theorem State.evictL1_sameRun (s : State) (v : L1Line) : s.SameRun (s.evictL1 v) := by
  unfold State.evictL1
  dsimp only
  have h : s.SameRun { s with l1 := s.l1.filter (· ≠ v) } := ⟨rfl, rfl, rfl, rfl⟩
  split
  · exact h.trans (State.setDir_sameRun _ _)
  · exact h

theorem State.fillL1_sameRun (s : State) (p : Place) (line : Nat) (st : Moesi) : s.SameRun (s.fillL1 p line st) := by
  have h (l ways : List L1Line) : s.SameRun (match ways with
      | v :: _ => if ways.length < 8 then { s with l1 := l } else { s with l1 := l }.evictL1 v
      | [] => { s with l1 := l }) := by
    have k : s.SameRun { s with l1 := l } := ⟨rfl, rfl, rfl, rfl⟩
    cases ways with
    | nil => exact k
    | cons v r =>
      dsimp only
      split
      · exact k
      · exact k.trans (State.evictL1_sameRun _ v)
  exact h _ _

/-- A new directory entry and other L1 copies change nothing that runs. -/
theorem State.setCopies_sameRun (s : State) (e : DirEntry) (l : List L1Line) : s.SameRun { s.setDir e with l1 := l } :=
  (State.setDir_sameRun s e).trans ⟨rfl, rfl, rfl, rfl⟩

theorem State.readL1_sameRun (s : State) (p : Place) (line : Nat) : s.SameRun (s.readL1 p line) := by
  unfold State.readL1
  dsimp only
  split
  · exact .refl s
  · exact (State.setCopies_sameRun s _ _).trans (State.fillL1_sameRun _ p line .shared)

theorem State.writeL1_sameRun (s : State) (p : Place) (line : Nat) : s.SameRun (s.writeL1 p line) := by
  unfold State.writeL1
  dsimp only
  by_cases h : p.die < 4
  · rw [if_pos h]
    exact (State.setCopies_sameRun s _ _).trans (State.fillL1_sameRun _ p line .modified)
  · rw [if_neg h]
    exact State.setCopies_sameRun s _ _

theorem State.markModified_sameRun (s : State) (line : Nat) : s.SameRun (s.markModified line) := by
  unfold State.markModified
  split <;> exact ⟨rfl, rfl, rfl, rfl⟩

theorem State.askM_sameRun (s : State) (line : Nat) : s.SameRun (s.askM line) := by
  unfold State.askM
  split <;> exact ⟨rfl, rfl, rfl, rfl⟩

theorem State.askAgents_sameRun (s : State) (h : Nat) (l : List Nat) : s.SameRun (s.askAgents h l) := by
  unfold State.askAgents
  dsimp only
  split
  · exact .refl s
  · exact (State.setSnoop_sameRun s _).trans (.foldl (f := fun s a => s.emit (.backInvalidate h a)) (fun _ _ => ⟨rfl, rfl, rfl, rfl⟩) _ _)

theorem State.askBoth_sameRun (s : State) (h : Nat) (l : List Nat) : s.SameRun (s.askBoth h l) :=
  (State.askAgents_sameRun s _ l).trans (State.askAgents_sameRun _ _ l)

theorem State.sendSnoops_sameRun (s : State) (pa n : Nat) (isW : Bool) : s.SameRun (s.sendSnoops pa n isW) :=
  .foldl (fun s h => State.askBoth_sameRun s h _) _ s

/-- The bookkeeping of a read changes neither memory nor what runs. -/
theorem State.noteRead_sameRun (s : State) (a : Who) (x : Xlat) (n : Nat) : s.SameRun (s.noteRead a x n) := by
  unfold State.noteRead
  split
  · exact .refl s
  · refine .foldl (fun s l => ?_) _ s
    have h (t : State) (k : s.SameRun t) : s.SameRun (if paTarget x.pa = 1 && (SMap.get none t.remote l).isNone then { t with remote := SMap.set none t.remote l (some false) } else t) := by
      split
      · exact k.trans ⟨rfl, rfl, rfl, rfl⟩
      · exact k
    refine h _ ?_
    split
    · exact (State.fillL2_sameRun s l).trans (State.readL1_sameRun _ _ _)
    · exact State.fillL2_sameRun s l

/-- Nor does that of a write. -/
theorem State.noteWrite_sameRun (s : State) (a : Who) (x : Xlat) (n : Nat) : s.SameRun (s.noteWrite a x n) := by
  unfold State.noteWrite
  split
  · exact .refl s
  · refine .foldl (fun s l => ?_) _ s
    dsimp only
    have h := ((State.fillL2_sameRun s l).trans (State.writeL1_sameRun _ a.place l)).trans (State.markModified_sameRun _ l)
    split
    · exact h.trans (State.askM_sameRun _ l)
    · exact h

/-- A write to a page that is not logged dirty stores its bytes at the translated address, and nothing else. -/
theorem State.performWrite_mem {s : State} {a : Who} {x : Xlat} {l : List Byte} (h : x.dirty = none) :
    (s.performWrite a x l).mem = writeBytes s.mem x.pa l := by
  unfold State.performWrite State.logDirty
  rw [h]
  exact congrArg (writeBytes · x.pa l) (State.noteWrite_sameRun s a x l.length).1

theorem State.rd8_performWrite_out {s : State} {a : Who} {x : Xlat} {l : List Byte} {k : Nat} (h : x.dirty = none)
    (hk : k < x.pa ∨ x.pa + l.length ≤ k) : (s.performWrite a x l).rd8 k = s.rd8 k := by
  unfold State.rd8
  rw [State.performWrite_mem h, get_writeBytes_out s.mem hk]

/-- Bytes that an agent outside or the device writes at the home slice are memory's, and no other byte changes. -/
theorem State.outsideWrite_mem (s : State) (pa : Nat) (l : List Byte) : (s.outsideWrite pa l).mem = writeBytes s.mem pa l :=
  congrArg (writeBytes · pa l) (State.SameRun.foldl (fun s k => State.writeL1_sameRun s noPlace k) (linesOf pa l.length) s).1
theorem State.homeWrite_mem (s : State) (pa : Nat) (l : List Byte) : (s.homeWrite pa l).mem = writeBytes s.mem pa l :=
  congrArg (writeBytes · pa l) (State.SameRun.foldl (fun s k => State.writeL1_sameRun s noPlace k) (linesOf pa l.length) s).1

/-- A write-back by CLWB leaves memory; CLINV puts memory's own bytes back. -/
theorem State.cleanCache_mem (s : State) (line : Nat) : (s.cleanCache line).mem = s.mem := by
  unfold State.cleanCache
  dsimp only
  split
  · split
    · exact (State.setDir_sameRun _ _).1
    · rfl
  · rfl
theorem State.dropCache_mem (s : State) (line : Nat) : (s.dropCache line).mem = writeBytes s.mem (128 * line) (SMap.get [] s.modified line) := rfl

end Sys2Proof.Machine
end

