-- ==== Sys2Proof/Laws/Ends.lean ====
section
/-! SUPPORT. What the end of a workgroup can do to the groups: none comes into being, and those of the workgroup are gone. -/

namespace Sys2Proof.Machine

/-- Every group of `t` is of a workgroup that has a group in `s`. -/
def State.NoNew (s t : State) : Prop := ∀ g ∈ t.groups, ∃ h ∈ s.groups, h.wid = g.wid

theorem State.NoNew.of_eq {s t : State} (h : t.groups = s.groups) : s.NoNew t := fun g hg => ⟨g, h ▸ hg, rfl⟩
theorem State.NoNew.refl (s : State) : s.NoNew s := .of_eq rfl
theorem State.NoNew.trans {s t u : State} (h : s.NoNew t) (k : t.NoNew u) : s.NoNew u := fun g hg =>
  let ⟨a, ha, e⟩ := k g hg
  let ⟨b, hb, f⟩ := h a ha
  ⟨b, hb, f.trans e⟩
theorem State.NoNew.foldl {α : Type} {f : State → α → State} (h : ∀ (s : State) (a : α), s.NoNew (f s a)) :
    ∀ (l : List α) (s : State), s.NoNew (l.foldl f s)
  | [], s => .refl s
  | a :: l, s => (h s a).trans (State.NoNew.foldl h l (f s a))

theorem State.modGroup_noNew (s : State) (gid : Nat) {f : Group → Group} (hf : ∀ g, (f g).wid = g.wid) : s.NoNew (s.modGroup gid f) := by
  intro g hg
  obtain ⟨h, hh, rfl⟩ := List.mem_map.1 hg
  refine ⟨h, hh, ?_⟩
  split
  · exact (hf h).symm
  · rfl

theorem State.setRcbD_groups (s : State) (rcb i x : Nat) : (s.setRcbD rcb i x).groups = s.groups := by
  unfold State.setRcbD State.wr State.wrN; rfl
theorem State.writeHeld_noNew (s : State) (rcb : Nat) : s.NoNew (s.writeHeld rcb) := by
  unfold State.writeHeld
  exact .foldl (fun s n => .of_eq ((State.setRcbD_groups ..).trans (State.setRcbD_groups s n _ _))) _ s

theorem Group.setPred_wid (g : Group) (p : Nat) (m b : BitVec 32) : (g.setPred p m b).wid = g.wid := by unfold Group.setPred; split <;> rfl
theorem Group.settleGrow_wid (g : Group) (f : Frag) (n : Nat) (m : Bool) (c : Nat) : (g.settleGrow f n m c).wid = g.wid := by
  unfold Group.settleGrow
  have h : (if c ≠ 0 then g else if m = true then { g with mside := g.mside + n } else { g with vside := g.vside + n }).wid = g.wid := by
    split
    · rfl
    · split <;> rfl
  generalize (if c ≠ 0 then g else if m = true then { g with mside := g.mside + n } else { g with vside := g.vside + n }) = q at h
  dsimp only
  split
  · show (Group.modFrag _ _ _).wid = _
    unfold Group.modFrag
    dsimp only
    rw [Group.setPred_wid]
    split <;> exact h
  · exact h

theorem State.growGrant_noNew (g : Group) : ∀ (k : Nat) (s : State), s.NoNew (s.growGrant g k)
  | 0, s => .refl s
  | k + 1, s => by
    unfold State.growGrant
    split
    · exact .refl s
    · split
      · exact (State.modGroup_noNew s _ (fun _ => Group.settleGrow_wid ..)).trans (State.growGrant_noNew g k _)
      · exact .refl s

/-- Settling the blocked requests of a partition brings no group into being. -/
theorem State.growSettle_noNew (s : State) (g : Group) : s.NoNew (s.growSettle g) := by
  unfold State.growSettle
  dsimp only
  refine (State.growGrant_noNew g 128 s).trans (.trans ?_ (.foldl (fun s r => State.writeHeld_noNew s r) _ _))
  split
  · split
    · exact State.modGroup_noNew _ _ (fun _ => Group.settleGrow_wid ..)
    · exact .refl _
  · exact .refl _

theorem State.logDirty_noNew (s : State) (a : Who) (x : Xlat) : s.NoNew (s.logDirty a x) := by
  unfold State.logDirty
  split
  · exact .refl s
  · split
    · exact .refl s
    · exact .of_eq rfl
theorem State.performWrite_noNew (s : State) (a : Who) (x : Xlat) (l : List Byte) : s.NoNew (s.performWrite a x l) :=
  (State.logDirty_noNew s a x).trans (.of_eq (State.noteWrite_sameRun _ a x l.length).2.1)

theorem State.askFor_noNew (s : State) (x : Xlat) (n : Nat) (w : Bool) : s.NoNew (s.askFor x n w) := by
  have h : s.NoNew (s.sendSnoops x.pa n w) := .of_eq (State.sendSnoops_sameRun s x.pa n w).2.1
  unfold State.askFor
  dsimp only
  split
  · exact h.trans (.foldl (fun s l => .of_eq (State.askM_sameRun s l).2.1) _ _)
  · exact h

theorem State.flushEvents_groups : ∀ (l : List (Nat × List Byte)) (s : State), (s.flushEvents l).groups = s.groups
  | [], _ => rfl
  | (fn, rec) :: l, s => by
    unfold State.flushEvents
    dsimp only
    split
    · exact State.flushEvents_groups l _
    · exact State.flushEvents_groups l s
theorem State.postEvent_groups (s : State) (fn : Nat) (rec : List Byte) : (s.postEvent fn rec).groups = s.groups := State.flushEvents_groups _ _

theorem State.pauseMachine_groups (s : State) (m : Nat) : (s.pauseMachine m).groups = s.groups := by
  unfold State.pauseMachine
  dsimp only
  split
  · rfl
  · exact State.postEvent_groups ..
theorem State.postFault_groups (s : State) (a : Who) (va : Nat) (f : XFault) : (s.postFault a va f).1.groups = s.groups := by
  unfold State.postFault
  dsimp only
  split
  · dsimp only; split
    · exact State.pauseMachine_groups ..
    · rfl
  · split
    · exact State.pauseMachine_groups ..
    · split <;> rfl

theorem State.colourDone_noNew (s : State) (n seq : Nat) : s.NoNew (s.colourDone n seq).1 := by
  unfold State.colourDone
  dsimp only
  split
  · split
    · next t h => unfold State.lineHold at h; split at h
                  · exact (Option.some.inj h) ▸ State.askFor_noNew s _ _ _
                  · simp at h
    · exact State.performWrite_noNew s _ _ _
  · split
    · exact .of_eq (State.postFault_groups ..)
    · exact .refl s
  · exact .refl s

/-- The end of a colour change brings no group into being. -/
theorem State.colourEnd_noNew (s : State) (n : Nat) : s.NoNew (s.colourEnd n) := by
  unfold State.colourEnd
  split
  · exact .refl s
  · split
    · dsimp only; split
      · exact (State.colourDone_noNew s n _).trans (.of_eq rfl)
      · exact State.colourDone_noNew s n _
    · exact .refl s

/-- The groups of a workgroup are gone, and no group comes into being. -/
theorem State.removeGroups_gone (s : State) (wid : Nat) : ∀ g ∈ (s.removeGroups wid).groups, g.wid ≠ wid := by
  have h : State.NoNew { s with groups := s.groups.filter (fun g => g.wid ≠ wid) } (s.removeGroups wid) := by
    unfold State.removeGroups
    dsimp only
    refine (State.colourEnd_noNew _ _).trans (.foldl (fun s g => ?_) _ _)
    split
    · exact State.growSettle_noNew s g
    · exact .refl s
  intro g hg
  obtain ⟨k, hk, e⟩ := h g hg
  exact e ▸ by simpa using (List.mem_filter.1 hk).2

theorem State.setRcbStateOnly_groups (s : State) (rcb st : Nat) : (s.setRcbStateOnly rcb st).groups = s.groups := by
  unfold State.setRcbStateOnly; exact State.setRcbD_groups s rcb 0 _
theorem State.becomeCandidate_groups (s : State) (rcb : Nat) : (s.becomeCandidate rcb).groups = s.groups := by
  simp only [State.becomeCandidate, State.setRcbStateOnly_groups]
theorem State.lowerDeps_groups (s : State) (rcb : Nat) : (s.lowerDeps rcb).groups = s.groups := by
  unfold State.lowerDeps
  dsimp only
  split
  · exact State.setRcbD_groups ..
  · split
    · exact (State.becomeCandidate_groups ..).trans (State.setRcbD_groups ..)
    · exact State.setRcbD_groups ..
theorem State.homeWrite_groups (s : State) (pa : Nat) (l : List Byte) : (s.homeWrite pa l).groups = s.groups :=
  (State.SameRun.foldl (fun s k => State.writeL1_sameRun s noPlace k) (linesOf pa l.length) s).2.1
theorem State.putStatus_groups (s : State) (pa st : Nat) : (s.putStatus pa st).groups = s.groups := by
  unfold State.putStatus
  split
  · exact (State.sendSnoops_sameRun s pa 8 true).2.1
  · exact State.homeWrite_groups ..
theorem State.taskStatus_noNew (s : State) (rcb st : Nat) : s.NoNew (s.taskStatus rcb st) := by
  have h (s : State) : s.NoNew { s with tasks := s.tasks.filter (fun e => e.rcb ≠ rcb) } := .of_eq rfl
  unfold State.taskStatus
  exact (h s).trans (.foldl (fun s e => .of_eq (State.putStatus_groups s _ _)) _ _)
theorem State.recheckOrders_noNew (s : State) : s.NoNew s.recheckOrders := by
  unfold State.recheckOrders
  dsimp only
  refine .trans (.of_eq ?_) (.foldl (fun s e => ?_) _ _)
  · rfl
  · split
    · exact .of_eq (State.becomeCandidate_groups ..)
    · exact .refl s
theorem State.launchEnd_noNew (s : State) (rcb : Nat) : s.NoNew (s.launchEnd rcb) := by
  unfold State.launchEnd
  dsimp only
  generalize (List.range (fld (s.rcbD rcb 13) 60 4)).map (fun i => fld (s.rd (fld (s.rcbD rcb 13) 0 57 + 8 * i) 8) 0 57) = l
  have h : s.NoNew (l.foldl State.lowerDeps s) := .foldl (fun s r => .of_eq (State.lowerDeps_groups s r)) l s
  generalize l.foldl State.lowerDeps s = t at h
  have k : t.NoNew (t.setRcbStateOnly rcb 5) := .of_eq (State.setRcbStateOnly_groups ..)
  have d (u : State) : u.NoNew (u.dropWork rcb) := .of_eq rfl
  exact (((h.trans k).trans (State.taskStatus_noNew _ _ _)).trans (d _)).trans (State.recheckOrders_noNew _)
theorem State.launchRaised_noNew (s : State) (ctx rcb line : Nat) : s.NoNew (s.launchRaised ctx rcb line) := by
  unfold State.launchRaised
  split
  · exact .of_eq rfl
  · exact State.launchEnd_noNew s rcb
theorem State.lineHold_noNew {s t : State} {x : Xlat} {n : Nat} {w : Bool} (h : s.lineHold x n w = some t) : s.NoNew t := by
  unfold State.lineHold at h
  split at h
  · exact (Option.some.inj h) ▸ State.askFor_noNew s x n w
  · simp at h
theorem State.launchComplete_noNew (s : State) (ctx rcb : Nat) : s.NoNew (s.launchComplete ctx rcb) := by
  unfold State.launchComplete
  dsimp only
  split
  · split
    · next h => exact (State.lineHold_noNew h).trans (.of_eq rfl)
    · exact (State.performWrite_noNew s _ _ _).trans (State.launchRaised_noNew _ _ _ _)
  · split
    · exact .trans (.of_eq (State.postFault_groups s (s.ctxWho ctx) (s.cwordOf rcb) _)) (.of_eq rfl)
    · exact State.launchEnd_noNew s rcb
  · exact State.launchEnd_noNew s rcb
theorem State.removeWg_noNew (s : State) (wid : Nat) : s.NoNew (s.removeWg wid) := by
  unfold State.removeWg
  exact .trans (.of_eq rfl) (State.writeHeld_noNew _ _)

/-- With its last workgroup's end no group of it is left (R185, R332). -/
theorem State.wgExit_gone (s : State) (wid : Nat) : ∀ g ∈ (s.wgExit wid).groups, g.wid ≠ wid := by
  unfold State.wgExit
  dsimp only
  generalize ((s.cmds.filter (fun c => c.wid == wid && c.writesWindow)).foldl State.discardCmd s).modWg wid
    (fun w => { w with ending := true, maps := [], subs := [], twins := [], locks := [], bars := [] }) = u
  have h : (u.removeGroups wid).NoNew ((u.removeGroups wid).writeHeld (s.wg wid).rcb) := State.writeHeld_noNew _ _
  generalize (u.removeGroups wid).writeHeld (s.wg wid).rcb = v at h
  have k : v.NoNew (v.setRcbD (s.wg wid).rcb 14 (putFld (v.rcbD (s.wg wid).rcb 14) 0 32 (fld (v.rcbD (s.wg wid).rcb 14) 0 32 + 1))) :=
    .of_eq (State.setRcbD_groups ..)
  generalize v.setRcbD (s.wg wid).rcb 14 (putFld (v.rcbD (s.wg wid).rcb 14) 0 32 (fld (v.rcbD (s.wg wid).rcb 14) 0 32 + 1)) = x at k
  have gone {t : State} (e : (u.removeGroups wid).NoNew t) : ∀ g ∈ t.groups, g.wid ≠ wid := fun g hg =>
    let ⟨j, hj, q⟩ := e g hg
    q ▸ State.removeGroups_gone u wid j hj
  apply gone
  refine (h.trans k).trans ?_
  have c : x.NoNew (if fld (v.rcbD (s.wg wid).rcb 14) 0 32 + 1 = fld (x.rcbD (s.wg wid).rcb 11) 32 32 then x.launchComplete (s.wg wid).ctx (s.wg wid).rcb else x) := by
    split
    · exact State.launchComplete_noNew _ _ _
    · exact .refl x
  refine c.trans ?_
  generalize (if fld (v.rcbD (s.wg wid).rcb 14) 0 32 + 1 = fld (x.rcbD (s.wg wid).rcb 11) 32 32 then x.launchComplete (s.wg wid).ctx (s.wg wid).rcb else x) = y
  split
  · exact .refl _
  · exact State.removeWg_noNew _ _

end Sys2Proof.Machine
end

