-- ==== Sys2Proof/Laws/Issue.lean ====
section
/-! SUPPORT. What issuing an instruction does once nothing stops it, for each frame of a meaning. -/

namespace Sys2Proof.Machine

/-- Nothing stops an instruction that may issue. -/
theorem State.issueCheck_ok {s : State} {i : Instr} (h : s.CanIssue i) : s.issueCheck i = .ok s := by
  obtain ⟨_, h2, h3, h4, h5, h6⟩ := h
  simp only [State.issueCheck]
  rw [if_neg, if_neg, if_neg, if_neg]
  · simp; intro a b
    cases h6 a with
    | inl h => simp [h] at b
    | inr h => simp [h]
  · simp; exact h5
  · simp [h3, h4]
  · simp; exact h2

theorem canIssueB_iff (s : State) (i : Instr) : s.canIssueB i = true ↔ s.CanIssue i := by
  simp only [State.canIssueB, State.CanIssue]
  cases s.hasIssuer <;> cases s.cur.mule <;> cases muleOk i <;> cases i.wf <;> cases i.litsOk s.cur.lits <;> cases i.isPriv <;>
    cases s.cw.priv <;> cases isImpure i <;> cases s.cg.apx <;> simp

/-- An instruction that may issue and whose body ends in `u` retires there. -/
theorem issue_ok {s u : State} {i : Instr} {body : State → Exec} (h : s.CanIssue i) (hb : body s = .ok u) :
    issue i s body = .next (u.retire i) := by
  simp only [issue, h.1, if_true, State.issueCheck_ok h, hb]

theorem issueTransfer_ok {s u : State} {i : Instr} {body : State → Exec} (h : s.CanIssue i) (hb : body s = .ok u) :
    issueTransfer i s body = .next u := by
  simp only [issueTransfer, h.1, if_true, State.issueCheck_ok h, hb]

/-- An instruction that may issue and whose body stops ends as the stop says. -/
theorem issue_stop {s : State} {i : Instr} {body : State → Exec} {e : Stop} (h : s.CanIssue i) (hb : body s = .error e) :
    issue i s body = .next (e.apply i) := by
  simp only [issue, h.1, if_true, State.issueCheck_ok h, hb]

theorem issueTransfer_stop {s : State} {i : Instr} {body : State → Exec} {e : Stop} (h : s.CanIssue i) (hb : body s = .error e) :
    issueTransfer i s body = .next (e.apply i) := by
  simp only [issueTransfer, h.1, if_true, State.issueCheck_ok h, hb]

theorem State.sdCheck_ok {s : State} {d : UDst} (h : ∀ q, d = .q q → s.cur.mule = true) : s.sdCheck d = .ok s := by
  cases d <;> simp [State.sdCheck]
  exact fun hm => absurd (h _ rfl) (by simp [hm])

/-- The frame of a two-source format U instruction. -/
theorem scalarBody_ok {i : Instr} {f : FmtU} {signed : Bool} {op : State → Word64 → Word64 → Except Stop Word64}
    {s t u : State} {os : List Opnd} {x : Word64} (hq : ∀ q, f.sd = .q q → s.cur.mule = true)
    (hp : s.prepAll i [0] [⟨0, f.sa, if signed then .i64 else .n64⟩, ⟨1, f.sb, if signed then .i64 else .n64⟩] = .ok (t, os))
    (ho : op t (valueAt os 0) (valueAt os 1) = .ok x) (hw : t.writeSD f.sd x = .ok u) :
    scalarBody i f signed false op s = .ok u := by
  simp only [valueAt] at ho
  simp only [scalarBody, State.sdCheck_ok hq, Except.bind, Bool.false_eq_true, if_false, hp, ho, hw]

/-- The frame of a one-source format U instruction. -/
theorem scalarBody_ok1 {i : Instr} {f : FmtU} {signed : Bool} {op : State → Word64 → Word64 → Except Stop Word64}
    {s t u : State} {os : List Opnd} {x : Word64} (hq : ∀ q, f.sd = .q q → s.cur.mule = true)
    (hp : s.prepAll i [0] [⟨0, f.sa, if signed then .i64 else .n64⟩] = .ok (t, os))
    (ho : op t (valueAt os 0) (valueAt os 1) = .ok x) (hw : t.writeSD f.sd x = .ok u) :
    scalarBody i f signed true op s = .ok u := by
  simp only [valueAt] at ho
  simp only [scalarBody, State.sdCheck_ok hq, Except.bind, if_true, hp, ho, hw]

/-- The frame of a vector instruction. -/
theorem vecBody_ok {i : Instr} {g : Guard} {vd : Sel} {ty : Ty} {srcs : List Src} {r : State → Nat → List Nat → Word64}
    {s t u : State} {os : List Opnd} (hd : s.dstCheck vd (regCount ty) = .ok s)
    (hp : s.prepAll i (threads (s.gmask g)) srcs = .ok (t, os))
    (hw : t.writeDst vd ty.is64 ((t.visit (s.gmask g)).map (fun th => (th, r t th (readsOf t os srcs th)))) = .ok u) :
    vecBody i g vd ty srcs r s = .ok u := by
  simp only [readsOf] at hw
  simp only [vecBody, hd, Except.bind, hp, hw]

/-- The frame of an instruction that writes a predicate. -/
theorem predBody_ok {i : Instr} {g : Guard} {pd : Nat} {srcs : List Src} {r : State → Nat → List Nat → Bool}
    {s t : State} {os : List Opnd} (hp : s.prepAll i (threads (s.gmask g)) srcs = .ok (t, os)) :
    predBody i g pd srcs r s = .ok (t.writePred pd (s.gmask g) ((threads (s.gmask g)).map (fun th => (th, r t th (readsOf t os srcs th))))) := by
  simp only [predBody, Except.bind, hp, readsOf]

end Sys2Proof.Machine
end

