-- ==== Sys2Proof/Laws/Groups.lean ====
section
/-! SUPPORT. Lookups of groups, fragments and workgroups after an update of one of them, the in-flight counters, and what the
checks shared by all accesses do when nothing stops them. -/

namespace Sys2Proof.Machine

/-! ### Groups -/

theorem findGroup_map {l : List Group} {gid : Nat} {f : Group → Group} (hf : ∀ g, (f g).gid = g.gid) :
    findGroup (mapGroup l gid f) gid = (findGroup l gid).map f := by
  induction l with
  | nil => rfl
  | cons x l ih =>
    simp only [findGroup, mapGroup, List.map_cons, List.find?_cons] at *
    by_cases hx : x.gid = gid
    · simp [hx, hf]
    · have hb : (x.gid == gid) = false := by simpa using hx
      simp only [hx, if_false, hb]; exact ih

theorem findGroup_map_ne {l : List Group} {gid k : Nat} {f : Group → Group} (hf : ∀ g, (f g).gid = g.gid) (h : k ≠ gid) :
    findGroup (mapGroup l gid f) k = findGroup l k := by
  induction l with
  | nil => rfl
  | cons x l ih =>
    simp only [findGroup, mapGroup, List.map_cons, List.find?_cons] at *
    by_cases hx : x.gid = gid
    · have hk : (x.gid == k) = false := by simp [hx, Ne.symm h]
      simp only [hx, if_true, hf, show (gid == k) = false by simp [Ne.symm h]]; exact ih
    · simp only [hx, if_false]; rw [ih]

/-- The group that an update replaces. -/
theorem State.group?_mod (s : State) {gid : Nat} {f : Group → Group} (hf : ∀ g, (f g).gid = g.gid) :
    (s.modGroup gid f).group? gid = (s.group? gid).map f := findGroup_map hf

theorem State.group_mod {s : State} {gid : Nat} {g : Group} {f : Group → Group} (hf : ∀ g, (f g).gid = g.gid) (h : s.group? gid = some g) :
    (s.modGroup gid f).group gid = f g := by
  simp only [State.group, State.group?_mod s hf, h, Option.map_some, Option.getD_some]

/-- Every other group stays. -/
theorem State.group?_mod_ne (s : State) {gid k : Nat} {f : Group → Group} (hf : ∀ g, (f g).gid = g.gid) (h : k ≠ gid) :
    (s.modGroup gid f).group? k = s.group? k := findGroup_map_ne hf h

/-- A part of the group that an update leaves alone. -/
theorem State.group_mod_keep {α : Type} (s : State) {gid : Nat} {f : Group → Group} (p : Group → α) (hf : ∀ g, (f g).gid = g.gid)
    (hp : ∀ g, p (f g) = p g) : p ((s.modGroup gid f).group gid) = p (s.group gid) := by
  simp only [State.group, State.group?_mod s hf]
  cases s.group? gid <;> simp [hp]

theorem State.cg_modCg {s : State} {g : Group} {f : Group → Group} (hf : ∀ g, (f g).gid = g.gid) (h : s.group? s.cur.gid = some g) :
    (s.modCg f).cg = f g := State.group_mod hf h

/-! ### Fragments and workgroups -/

theorem Group.frag?_mod_ne (g : Group) {fid k : Nat} {h : Frag → Frag} (hh : ∀ f, (h f).fid = f.fid) (hk : k ≠ fid) :
    (g.modFrag fid h).frag? k = g.frag? k := by
  simp only [Group.frag?, Group.modFrag]
  induction g.frags with
  | nil => rfl
  | cons x l ih =>
    simp only [List.map_cons, List.find?_cons]
    by_cases hx : x.fid = fid
    · simp only [hx, if_true, hh, show (fid == k) = false by simp [Ne.symm hk]]; exact ih
    · simp only [hx, if_false]; rw [ih]

theorem Group.frag?_mod (g : Group) {fid : Nat} {h : Frag → Frag} (hh : ∀ f, (h f).fid = f.fid) :
    (g.modFrag fid h).frag? fid = (g.frag? fid).map h := by
  simp only [Group.frag?, Group.modFrag]
  induction g.frags with
  | nil => rfl
  | cons x l ih =>
    simp only [List.map_cons, List.find?_cons]
    by_cases hx : x.fid = fid
    · simp [hx, hh]
    · have hb : (x.fid == fid) = false := by simpa using hx
      simp only [hx, if_false, hb]; exact ih

theorem State.wg?_mod (s : State) {wid : Nat} {f : Workgroup → Workgroup} (hf : ∀ w, (f w).wid = w.wid) :
    (s.modWg wid f).wg? wid = (s.wg? wid).map f := by
  simp only [State.wg?, State.modWg]
  induction s.wgs with
  | nil => rfl
  | cons x l ih =>
    simp only [List.map_cons, List.find?_cons]
    by_cases hx : x.wid = wid
    · simp [hx, hf]
    · have hb : (x.wid == wid) = false := by simpa using hx
      simp only [hx, if_false, hb]; exact ih

theorem State.wg?_mod_ne (s : State) {wid k : Nat} {f : Workgroup → Workgroup} (hf : ∀ w, (f w).wid = w.wid) (h : k ≠ wid) :
    (s.modWg wid f).wg? k = s.wg? k := by
  simp only [State.wg?, State.modWg]
  induction s.wgs with
  | nil => rfl
  | cons x l ih =>
    simp only [List.map_cons, List.find?_cons]
    by_cases hx : x.wid = wid
    · simp only [hx, if_true, hf, show (wid == k) = false by simp [Ne.symm h]]; exact ih
    · simp only [hx, if_false]; rw [ih]

/-- The workgroup that an update replaces, where it keeps a part of it. -/
theorem State.wg_mod_keep {α : Type} (s : State) {wid : Nat} {f : Workgroup → Workgroup} (p : Workgroup → α) (k : Nat) (hf : ∀ w, (f w).wid = w.wid)
    (hp : ∀ w, k = wid → p (f w) = p w) : p ((s.modWg wid f).wg k) = p (s.wg k) := by
  by_cases hk : k = wid
  · subst hk; simp only [State.wg, State.wg?_mod s hf]; cases s.wg? k <;> simp [hp]
  · simp only [State.wg, State.wg?_mod_ne s hf hk]

/-! ### In-flight operations (R51) -/

theorem landFirst_count (p : Nat) : ∀ l : List Flight, (∃ x, l.find? (fun f => f.path == p) = some x) →
    ((landFirst (fun f => f.path == p) l).filter (fun f => f.path == p)).length = (l.filter (fun f => f.path == p)).length - 1 ∧
    ∀ q, q ≠ p → ((landFirst (fun f => f.path == p) l).filter (fun f => f.path == q)).length = (l.filter (fun f => f.path == q)).length := by
  intro l ⟨x, hx⟩
  induction l with
  | nil => simp at hx
  | cons y l ih =>
    by_cases hy : y.path = p
    · simp [landFirst, hy]; intro q hq; simp [hy, Ne.symm hq]
    · simp [hy] at hx; obtain ⟨a, b⟩ := ih hx
      simp only [landFirst, hy, beq_iff_eq, if_false]
      refine ⟨by simpa [hy] using a, fun q hq => ?_⟩
      simp only [List.filter_cons]; split <;> simp [b q hq]

theorem Group.inflight_fly (g : Group) (f : Flight) (p : Nat) : (g.fly f).inflight p = g.inflight p + if f.path = p then 1 else 0 := by
  simp only [Group.inflight, Group.fly, List.filter_append, List.length_append, List.filter_cons, List.filter_nil, beq_iff_eq]
  split <;> simp

/-! ### Checks that nothing stops -/

theorem firstSome_none {α β : Type} (f : α → Option β) (l : List α) (h : ∀ x ∈ l, f x = none) : firstSome f l = none := by
  induction l with
  | nil => rfl
  | cons x l ih => simp [firstSome, h x (by simp), ih (fun y hy => h y (by simp [hy]))]

theorem State.releaseWait_ok {s : State} {b : Bool} (h : b = true → s.cg.sideLog = []) : s.releaseWait b = .ok s := by
  simp only [State.releaseWait]; rw [if_neg]; simp; intro hb; simp [h hb]

theorem State.counterRoom_ok {s : State} {p : Nat} (h : s.cg.inflight p < 63) : s.counterRoom p = .ok s := by simp [State.counterRoom, h]

/-- Every place can be reached: nothing faults, conflicts or is dropped. -/
theorem State.writeFates_ok {s : State} {l : List (Ea × Fate)} {b : Bool} (h : ∀ x ∈ l, ∃ y, x.2 = Fate.ok y) : s.writeFates l b = .ok s := by
  simp only [State.writeFates]
  rw [firstSome_none, firstSome_none, firstSome_none, firstSome_none] <;> intro x hx <;> obtain ⟨y, hy⟩ := h x hx <;> simp [hy]

theorem State.readFates_ok {s : State} {l : List (Ea × Fate)} (h : ∀ x ∈ l, ∃ y, x.2 = Fate.ok y) : s.readFates l = .ok s := by
  simp only [State.readFates]
  rw [firstSome_none, firstSome_none] <;> intro x hx <;> obtain ⟨y, hy⟩ := h x hx <;> simp [hy]

theorem State.snoopHold_ok {s : State} {l : List (Ea × Fate)} {n : Nat} {w : Bool}
    (h : ∀ x ∈ l, ∃ y, x.2 = Fate.ok y ∧ s.snoopBusy y.pa n w = false) : s.snoopHold n w l = .ok s := by
  simp only [State.snoopHold]
  rw [if_pos]
  simp only [List.isEmpty_iff, List.filterMap_eq_nil_iff]
  intro x hx; obtain ⟨y, hy, hz⟩ := h x hx; simp [hy, hz]

end Sys2Proof.Machine
end

