-- ==== Sys2Proof/Laws/Frames.lean ====
section
/-! SUPPORT. What completing an instruction and writing a destination leave as they were. -/

namespace Sys2Proof.Machine

theorem Group.commitOperands_frame (g : Group) (l : List Sel) : g.commitOperands l = { g with streams := (g.commitOperands l).streams, queues := (g.commitOperands l).queues } := by
  simp only [Group.commitOperands]; split <;> split <;> rfl

theorem foldl_set_ne {α} (f : List α → Nat → α) (ws : List Nat) (k : Nat) (hk : k ∉ ws) : ∀ l : List α, (ws.foldl (fun l i => l.set i (f l i)) l)[k]? = l[k]? := by
  induction ws with
  | nil => intro l; rfl
  | cons a ws ih =>
    intro l
    simp only [List.mem_cons, not_or] at hk
    simp only [List.foldl_cons]
    rw [ih hk.2, List.getElem?_set_ne (Ne.symm hk.1)]

theorem foldl_set_getD {α} (f : List α → Nat → α) (ws : List Nat) (k : Nat) (hk : k ∉ ws) (d : α) (l : List α) : (ws.foldl (fun l i => l.set i (f l i)) l).getD k d = l.getD k d := by
  simp only [List.getD_eq_getElem?_getD, foldl_set_ne f ws k hk]
/-- A stream that the instruction does not name stays where it was. -/
theorem Group.commitOperands_stream (g : Group) (l : List Sel) (k : Nat) (h : ∀ x : Fin 8, x.val = k → Sel.w x ∉ l) : (g.commitOperands l).streams.getD k {} = g.streams.getD k {} := by
  simp only [Group.commitOperands]
  have : ∀ ws : List Nat, (k ∉ ws) → (if ws.isEmpty then g else { g with streams := ws.foldl (fun l i => l.set i (Stream.advance (l.getD i {}))) g.streams }).streams.getD k {} = g.streams.getD k {} := by
    intro ws hk
    split
    · rfl
    · exact foldl_set_getD (fun l i => Stream.advance (l.getD i {})) ws k hk _ _
  have hk : k ∉ (l.filterMap (fun x => match x with | .w i => some i.val | _ => none)).eraseDups := by
    rw [List.mem_eraseDups]
    intro hm; obtain ⟨a, ha, hb⟩ := List.mem_filterMap.mp hm
    cases a <;> simp at hb
    exact h _ hb ha
  have := this _ hk
  split
  · exact this
  · exact this

/-- A queue that the instruction does not name keeps its entries. -/
theorem Group.commitOperands_queue (g : Group) (l : List Sel) (k : Nat) (h : ∀ x : Fin 4, x.val = k → Sel.q x ∉ l) : (g.commitOperands l).queues.getD k [] = g.queues.getD k [] := by
  simp only [Group.commitOperands]
  have hk : k ∉ (l.filterMap (fun x => match x with | .q i => some i.val | _ => none)).eraseDups := by
    rw [List.mem_eraseDups]
    intro hm; obtain ⟨a, ha, hb⟩ := List.mem_filterMap.mp hm
    cases a <;> simp at hb
    exact h _ hb ha
  split
  · split <;> rfl
  · have : ∀ g' : Group, g'.queues = g.queues → ({ g' with queues := (l.filterMap (fun x => match x with | .q i => some i.val | _ => none)).eraseDups.foldl (fun l i => l.set i ((l.getD i []).drop 1)) g'.queues } : Group).queues.getD k [] = g.queues.getD k [] := by
      intro g' hg
      simp only [hg]; exact foldl_set_getD (fun l i => (l.getD i []).drop 1) _ k hk _ _
    apply this; split <;> rfl

theorem Frag.advance_fid (f : Frag) (n) : (f.advance n).fid = f.fid := by
  simp only [Frag.advance]; split
  · split <;> rfl
  · rfl
theorem Group.commitOperands_gid (g : Group) (l) : (g.commitOperands l).gid = g.gid := by rw [Group.commitOperands_frame]
/-- What an update of the issuing group leaves alone in every group, it leaves alone in the issuing one. -/
theorem State.modCg_keep {α : Type} (s : State) {f : Group → Group} (p : Group → α) (hf : ∀ g, (f g).gid = g.gid)
    (hp : ∀ g, p (f g) = p g) : p ((s.modCg f).cg) = p s.cg := State.group_mod_keep s p hf hp
theorem State.modCg_eq (s : State) {f h : Group → Group} (hf : ∀ g, (f g).gid = g.gid) (he : ∀ g, f g = h g) (hb : h blankGroup = blankGroup) : (s.modCg f).cg = h s.cg := by
  have : (s.modCg f).cg = ((s.group? s.cur.gid).map f).getD blankGroup := by
    show (s.modGroup s.cur.gid f).group s.cur.gid = _
    simp only [State.group, State.group?_mod s hf]
  rw [this]; simp only [State.cg, State.group]; cases s.group? s.cur.gid <;> simp [he, hb]

/-- Completing an instruction is one update of its group: it moves the issuer and takes up streams and queues that the instruction
names, and nothing else. -/
theorem State.retire_frame (u : State) (i : Instr) : ∃ f : Group → Group, u.retire i = u.modCg f ∧ (∀ g, (f g).gid = g.gid) ∧
   (∀ g, f g = { g with frags := (f g).frags, streams := (f g).streams, queues := (f g).queues, mule := (f g).mule }) ∧
   (∀ g fid, fid ≠ u.cur.fid → (f g).frag? fid = g.frag? fid) ∧
   (∀ g k, (∀ x : Fin 8, x.val = k → Sel.w x ∉ operandSels i) → (f g).streams.getD k {} = g.streams.getD k {}) ∧
    (∀ g k, (∀ x : Fin 4, x.val = k → Sel.q x ∉ operandSels i) → (f g).queues.getD k [] = g.queues.getD k []) ∧
    (∀ g, ((f g).mule.getD blankMule).sregs = (g.mule.getD blankMule).sregs ∧ ((f g).mule.getD blankMule).preds = (g.mule.getD blankMule).preds) ∧
    (u.cur.mule = false → ∀ g, (f g).mule = g.mule) := by
  by_cases hm : u.cur.mule = true
  · refine ⟨fun g => g.modMule (fun m => m.advance (instrSize i)), ?_, fun _ => rfl, fun _ => rfl, fun _ _ _ => rfl, fun _ _ _ => rfl, fun _ _ _ => rfl, ?_, by simp [hm]⟩
    · simp only [State.retire, hm, if_true, State.advance]; rfl
    · intro g; simp only [Group.modMule]; cases g.mule with
      | none => exact ⟨rfl, rfl⟩
      | some m => simp only [Option.map_some, Option.getD_some, Mule.advance]; split <;> (try split) <;> exact ⟨rfl, rfl⟩
  · have hm : u.cur.mule = false := by simpa using hm
    refine ⟨fun g => (g.commitOperands (operandSels i)).modFrag u.cur.fid (fun f => f.advance (instrSize i)), ?_, ?_, ?_, ?_, ?_, ?_, ?_, ?_⟩
    · simp only [State.retire, hm, Bool.false_eq_true, if_false, State.advance, State.modCg_cur]
      simp only [State.modCf, State.modCg, State.modGroup, mapGroup, List.map_map]
      congr 1
      apply List.map_congr_left
      intro g _
      by_cases hg : g.gid = u.cur.gid <;> simp [hg, Group.commitOperands_gid, Function.comp]
    · intro g; exact Group.commitOperands_gid ..
    · intro g; simp only [Group.modFrag]; rw [Group.commitOperands_frame]
    · intro g fid hf; show (Group.modFrag _ _ _).frag? fid = _
      rw [Group.frag?_mod_ne _ (fun f => Frag.advance_fid f _) hf, Group.commitOperands_frame]; rfl
    · intro g k hk; exact Group.commitOperands_stream g _ k hk
    · intro g k hk; exact Group.commitOperands_queue g _ k hk
    · intro g; simp only [Group.modFrag]; rw [Group.commitOperands_frame]; exact ⟨rfl, rfl⟩
    · intro _ g; simp only [Group.modFrag]; rw [Group.commitOperands_frame]

theorem Group.putV_frame (g : Group) (r) (b) (l : List (Nat × Word64)) : g.putV r b l = { g with vregs := (g.putV r b l).vregs } := by
  induction l generalizing g with
  | nil => rfl
  | cons e l ih => simp only [Group.putV, List.foldl_cons] at ih ⊢; rw [ih]; split <;> rfl
/-- A vector result leaves every other register, and the destination in threads not written. -/
theorem Group.putV_ne (g : Group) (d : Nat) (b : Bool) (l : List (Nat × Word64)) (hl : ∀ e ∈ l, e.1 < 32) (r th : Nat) (ht : th < 32)
   (h : (∃ e ∈ l, e.1 = th) → r ≠ d ∧ (b = true → r ≠ d + 1)) : (g.putV d b l).vreg r th = g.vreg r th := by
  induction l generalizing g with
  | nil => rfl
  | cons e l ih =>
    have he := hl e (by simp)
    simp only [Group.putV, List.foldl_cons] at ih ⊢
    rw [ih _ (fun x hx => hl x (by simp [hx])) (fun ⟨x, hx, hy⟩ => h ⟨x, by simp [hx], hy⟩)]
    by_cases hth : e.1 = th
    · have hr := h ⟨e, by simp, hth⟩
      subst hth
      cases b
      · simp only [Bool.false_eq_true, if_false]; exact Group.vreg_setV_ne _ _ he ht (.inl hr.1)
      · simp only [if_true, Group.setVpair]
        rw [Group.vreg_setV_ne _ _ he ht (.inl (hr.2 rfl)), Group.vreg_setV_ne _ _ he ht (.inl hr.1)]
    · cases b
      · simp only [Bool.false_eq_true, if_false]; exact Group.vreg_setV_ne _ _ he ht (.inr (Ne.symm hth))
      · simp only [if_true, Group.setVpair]
        rw [Group.vreg_setV_ne _ _ he ht (.inr (Ne.symm hth)), Group.vreg_setV_ne _ _ he ht (.inr (Ne.symm hth))]
theorem State.modCg_cg (s : State) {f : Group → Group} (hf : ∀ g, (f g).gid = g.gid) : (s.modCg f).cg = ((s.group? s.cur.gid).map f).getD blankGroup := by
  show (s.modGroup s.cur.gid f).group s.cur.gid = _
  simp only [State.group, State.group?_mod s hf]

end Sys2Proof.Machine
end

