-- ==== Sys2Proof/Tests/Slice0.lean ====
section
/-! SUPPORT. Tests: well-formedness, decoding of words that the spec's encodings give, states that meet the hypotheses of the
statements, and single steps with results from the spec. -/

set_option Elab.async false

namespace Sys2Proof.Tests

open Sys2Proof.Machine

/-! ### States -/

theorem can {s : State} {i : Instr} (h : s.canIssueB i = true) : s.CanIssue i := (canIssueB_iff s i).mp h

theorem ready {α β : Type} {x : Except Stop (State × α)} {f : State → α → Except Stop β} (h : (x.bind fun a => f a.1 a.2).isOk = true) :
    ∃ t os, x = .ok (t, os) ∧ ∃ u, f t os = .ok u := by
  cases x with
  | error e => cases h
  | ok a => cases hf : f a.1 a.2 with
    | error e => simp [Except.bind, hf, Except.isOk, Except.toBool] at h
    | ok u => exact ⟨a.1, a.2, rfl, u, hf⟩

theorem ready1 {ε α : Type} {x : Except ε α} (h : x.isOk = true) : ∃ a, x = .ok a := by
  cases x with
  | error e => cases h
  | ok a => exact ⟨a, rfl⟩

theorem okIs {ε α : Type} [DecidableEq α] {x : Except ε α} {a : α} (h : (match x with
    | .ok b => decide (b = a)
    | .error _ => false) = true) : x = .ok a := by
  cases x with
  | error e => cases h
  | ok b => simp at h; rw [h]

/-- One fragment of 32 threads in a started device; the pages at 0x10000 to 0x2FFFF are mapped to themselves. -/
def base : State :=
  { State.reset.placed (oneClause 0 0) with
    agenda := []
    tlb := [⟨0, none, 0, 0, 1, 1, 1, true, true, false, false, 0, 0x10000, 0x10000, true⟩, ⟨0, none, 0, 0, 2, 2, 2, true, true, false, true, 0x30000, 0x10000, 0x10000, true⟩] }
/-- The same with the group changed. -/
def withG (f : Group → Group) : State := base.modGroup 0 f
def withW (f : Workgroup → Workgroup) : State := base.modWg 0 f
/-- Scalar registers of the group from a list. -/
def withS (l : List (Nat × Word64)) : State := withG (fun g => l.foldl (fun g e => g.setS e.1 e.2) g)
/-- A Mule of the group issues. -/
def asMule : State := { withG (fun g => { g with mule := some { hdr := 0x10000, clause := some (oneClause 0 0) } }) with cur := { mule := true } }

def g7 : Guard := Guard.none
def u0 : FmtU := ⟨.s 5, .s 1, .lit⟩
def vf (ty : Ty) (sb sc : Sel) (aux : BitVec 8) : FmtV := ⟨g7, ty, .rne, false, .v 8, .v 2, sb, sc, aux⟩

/-! ### Hypotheses of the statements about scalar and vector instructions -/

theorem wit_scalarArithmetic : (∀ i ∈ [Instr.sadd u0, .ssub u0, .smul u0, .smulhs u0, .smulhu u0, .smins u0, .sminu u0, .smaxs u0, .smaxu u0, .sseq u0,
      .ssne u0, .sslts u0, .ssltu u0, .ssles u0, .ssleu u0, .smov ⟨.s 5, .s 1, .v 0⟩], base.CanIssue i) ∧ (∀ q, u0.sd = .q q → base.cur.mule = true) ∧
    ∃ t os, base.prepAll (.sadd u0) [0] [⟨0, u0.sa, .i64⟩, ⟨1, u0.sb, .i64⟩] = .ok (t, os) ∧ ∃ u, t.writeSD u0.sd (valueAt os 0 + valueAt os 1) = .ok u :=
  ⟨fun i h => can (by revert i; decide +kernel), (by intro q h; cases h), ready (by decide +kernel)⟩

theorem wit_mulePush : asMule.CanIssue (.sadd ⟨.q 0, .s 1, .zero⟩) ∧ ∃ u, asMule.writeSD (.q 0) 1 = .ok u := ⟨can (by decide +kernel), ready1 (by decide +kernel)⟩

theorem wit_scalarDivides : (∀ i ∈ [Instr.sdivs u0, .sdivu u0, .srems u0, .sremu u0], base.CanIssue i) ∧ base.cw.divtrap = false ∧
    (withW (fun w => { w with divtrap := true })).cw.divtrap = true ∧ (withW (fun w => { w with divtrap := true })).CanIssue (.sdivu u0) ∧
    (∃ t os, base.prepAll (.sdivs u0) [0] [⟨0, u0.sa, .i64⟩, ⟨1, u0.sb, .i64⟩] = .ok (t, os) ∧ ∃ u, t.writeSD u0.sd (valueAt os 1) = .ok u) ∧
    (withW (fun w => { w with divtrap := true })).prepAll (.sdivu u0) [0] [⟨0, u0.sa, .n64⟩, ⟨1, u0.sb, .n64⟩] =
      .ok (withW (fun w => { w with divtrap := true }), [.const 0, .const 0]) :=
  ⟨fun i h => can (by revert i; decide +kernel), by decide +kernel, by decide +kernel, can (by decide +kernel), ready (by decide +kernel), okIs (by decide +kernel)⟩

theorem wit_scalarBits : ∀ i ∈ [Instr.sand u0, .sor u0, .sxor u0, .sandn u0, .sshl u0, .sshr u0, .ssra u0, .srol u0, .spopc ⟨.s 5, .s 1, .v 0⟩, .sclz ⟨.s 5, .s 1, .v 0⟩,
      .sctz ⟨.s 5, .s 1, .v 0⟩, .sbrev ⟨.s 5, .s 1, .v 0⟩, .sbfx u0, .sbfxs u0, .sbfi u0, .sbfi ⟨.discard, .s 1, .zero⟩], base.CanIssue i :=
  fun i h => can (by revert i; decide +kernel)

theorem wit_vectorInteger : (∀ i ∈ [Instr.iadd (vf .i32 (.v 4) (.v 0) 0), .isub (vf .i8 (.v 4) (.v 0) 0), .imul (vf .n64 (.v 4) (.v 0) 0), .imulhi (vf .i16 .lit (.v 0) 0),
      .imad (vf .i32 (.v 4) (.v 6) 0), .imin (vf .i32 (.s 4) (.v 0) 0), .imax (vf .i64 (.v 4) (.v 0) 0), .iabs (vf .i8 (.v 0) (.v 0) 0), .ineg (vf .i64 (.v 0) (.v 0) 0),
      .isad (vf .n8 (.v 4) (.v 6) 0)], base.CanIssue i) ∧ base.dstCheck (.v 8) 1 = .ok base ∧
    ∃ t os, base.prepAll (.iadd (vf .i32 (.v 4) (.v 0) 0)) (threads (base.gmask g7)) [⟨1, .v 2, .i32⟩, ⟨2, .v 4, .i32⟩] = .ok (t, os) ∧
      ∃ u, t.writeDst (.v 8) false ((t.visit (base.gmask g7)).map (fun th => (th, 1))) = .ok u :=
  ⟨fun i h => can (by revert i; decide +kernel), okIs (by decide +kernel), ready (by decide +kernel)⟩

theorem wit_vectorDivision : (∀ i ∈ [Instr.idiv (vf .i32 (.v 4) (.v 0) 0), .irem (vf .i32 (.v 4) (.v 0) 0)], base.CanIssue i ∧ (withW (fun w => { w with divtrap := true })).CanIssue i) ∧
    (∃ t os, base.prepAll (.idiv (vf .i32 (.v 4) (.v 0) 0)) (threads (base.gmask g7)) [⟨1, .v 2, .i32⟩, ⟨2, .v 4, .i32⟩] = .ok (t, os) ∧
      ∃ u, t.writeDst (.v 8) false ((t.visit (base.gmask g7)).map (fun th => (th, 1))) = .ok u) ∧
    (threads ((withW (fun w => { w with divtrap := true })).gmask g7)).find? (fun th => intVal .i32 ((Opnd.reg 4).read base.cg .i32 th) == 0) = some 0 :=
  ⟨fun i h => ⟨can (by revert i; decide +kernel), can (by revert i; decide +kernel)⟩, ready (by decide +kernel), by decide +kernel⟩

theorem wit_vectorBits : ∀ i ∈ [Instr.and (vf .n32 (.v 4) (.v 0) 0), .or (vf .n64 (.v 4) (.v 0) 0), .xor (vf .n32 .lit (.v 0) 0), .not (vf .n32 (.v 0) (.v 0) 0), .shl (vf .i32 (.v 4) (.v 0) 0),
      .shr (vf .i64 (.v 4) (.v 0) 0), .rol (vf .n32 (.v 4) (.v 0) 0), .popc (vf .n64 (.v 0) (.v 0) 0), .clz (vf .n32 (.v 0) (.v 0) 0), .brev (vf .n64 (.v 0) (.v 0) 0),
      .lop3 (vf .n32 (.v 4) (.v 6) 0xE8), .bfx (vf .i32 (.v 4) (.v 0) 0), .bfi (vf .n32 (.v 4) (.v 6) 0)], base.CanIssue i := fun i h => can (by revert i; decide +kernel)

theorem wit_vectorFloat : (∀ i ∈ [Instr.fadd (vf .f32 (.v 4) (.v 0) 0), .fsub (vf .f64 (.v 4) (.v 0) 0), .fmul (vf .bf16 (.v 4) (.v 0) 0), .ffma (vf .f32 (.v 4) (.v 6) 0),
      .fdiv (vf .f16 (.v 4) (.v 0) 0), .fsqrt (vf .f32 (.v 0) (.v 0) 0), .fmin (vf .f32 (.v 4) (.v 0) 0), .fmax (vf .f64 (.v 4) (.v 0) 0), .fabs (vf .f32 (.v 0) (.v 0) 0),
      .fneg (vf .f16 (.v 0) (.v 0) 0)], base.CanIssue i) ∧ Ty.f32.isFloat = true ∧ (decTy .f32 0x3F800000).lt (decTy .f32 0x40000000) = true ∧
    (decTy .f32 0x7FC00000).isNan = true ∧ (decTy .f32 0).isZero = true ∧ (decTy .f32 0x80000000).sign ≠ (decTy .f32 0).sign :=
  ⟨fun i h => can (by revert i; decide +kernel), rfl, by and_intros <;> decide +kernel⟩

def cvtf (dt : Ty) (src : Nat) (r : Rnd) : FmtV := { vf dt (.v 0) (.v 0) (BitVec.ofNat 8 src) with rnd := r }

theorem wit_roundingConversions : (∀ i ∈ [Instr.frint { vf .f32 (.v 0) (.v 0) 0 with rnd := .rs }, .cvt (cvtf .i8 2 .rne), .cvt (cvtf .f32 2 .rz), .cvt (cvtf .i32 9 .rd),
      .cvt (cvtf .f64 9 .rne), .cvt (cvtf .f16 9 .ru)], base.CanIssue i) ∧ widens .f32 .f64 = true ∧ widens .f32 .f16 = false ∧
    (∃ t os, base.prepAll (.cvt (cvtf .i8 2 .rne)) (threads (base.gmask g7)) [⟨1, .v 2, .i32⟩] = .ok (t, os) ∧
      ∃ u, t.writeDst (.v 8) false ((t.visit (base.gmask g7)).map (fun th => (th, 0))) = .ok u) :=
  ⟨fun i h => can (by revert i; decide +kernel), rfl, rfl, ready (by decide +kernel)⟩

theorem wit_specialFunctions : (∀ i ∈ [Instr.fexp2 (vf .f32 (.v 0) (.v 0) 0), .flog2 (vf .f16 (.v 0) (.v 0) 0), .frcp (vf .bf16 (.v 0) (.v 0) 0), .frsq (vf .f32 (.v 0) (.v 0) 0),
      .fsin (vf .f32 (.v 0) (.v 0) 0), .fcos (vf .f32 (.v 0) (.v 0) 0), .ftanh (vf .f32 (.v 0) (.v 0) 0)], base.CanIssue i) ∧ (fmt32.decode 0x7F800001).isNan = true :=
  ⟨fun i h => can (by revert i; decide +kernel), by decide +kernel⟩

def cmpf (ty : Ty) (aux : BitVec 8) : FmtV := { vf ty (.v 4) (.v 0) aux with vd := .v 0 }

theorem wit_predicatesSelections : (∀ i ∈ [Instr.icmp (cmpf .i32 0x11), .fcmp (cmpf .f32 0x31), .fclass { cmpf .f32 0x81 with sb := .v 0 }, .vtop { cmpf .n32 1 with sb := .v 0 },
      .plop { cmpf .i8 0x0E with vd := .v 1, sa := .v 2, sb := .v 3 }, .sel (vf .n32 (.v 4) (.v 0) 1), .ptov { vf .n32 (.v 0) (.v 0) 1 with sa := .v 0 }, .mov (vf .i8 (.v 0) (.v 0) 0),
      .voteany { vf .n32 (.v 0) (.v 0) 1 with sa := .v 0, vd := .s 3 }, .voteall { vf .n32 (.v 0) (.v 0) 1 with sa := .v 0 }, .ballot (vf .n32 (.v 0) (.v 0) 0)], base.CanIssue i) ∧
    (∃ t os, base.prepAll (.icmp (cmpf .i32 0x11)) (threads (base.gmask g7)) [⟨1, .v 2, .i32⟩, ⟨2, .v 4, .i32⟩] = .ok (t, os) ∧ ∃ u, t.writeDst (.v 8) false [] = .ok u) ∧
    base.dstCheck (.s 3) 1 = .ok base := ⟨fun i h => can (by revert i; decide +kernel), ready (by decide +kernel), okIs (by decide +kernel)⟩

theorem wit_crossLane : (∀ i ∈ [Instr.shfl (vf .n32 (.v 4) (.v 0) 5), .shflup (vf .n32 (.s 4) (.v 0) 3), .shfldn (vf .n64 .lit (.v 0) 0), .shflx (vf .n32 (.v 4) (.v 0) 5), .bcast (vf .n32 .lit (.v 0) 5),
      .redadd (vf .i32 (.v 0) (.v 0) 5), .redmin (vf .f32 (.v 0) (.v 0) 2), .redmax { vf .n32 (.v 0) (.v 0) 5 with vd := .s 2 }, .redand (vf .n32 (.v 0) (.v 0) 5), .redor (vf .n64 (.v 0) (.v 0) 1),
      .scanadd (vf .i32 (.v 0) (.v 0) 5), .scanaddx (vf .i32 (.v 0) (.v 0) 0), .scanmax (vf .f64 (.v 0) (.v 0) 4)], base.CanIssue i) ∧ base.rangeCheck (.v 2) 2 = .ok base ∧
    base.dstCheck (.v 8) 2 = .ok base ∧ ∃ u, base.writeDst (.v 8) false ((base.visit (base.gmask g7)).map (fun th => (th, 0))) = .ok u :=
  ⟨fun i h => can (by revert i; decide +kernel), okIs (by decide +kernel), okIs (by decide +kernel), ready1 (by decide +kernel)⟩

theorem wit_blockConversions : base.CanIssue (.cvts { vf .e4m3 (.v 0) (.v 0) 0 with sa := .v 188, vd := .v 190 }) ∧ base.rangeCheck (.v 190) 2 = .ok base ∧ base.rangeCheck (.v 188) 4 = .ok base ∧
    base.CanIssue (.merge { vf .f32 (.v 4) (.v 0) 0 with sa := .v 189 }) ∧ base.rangeCheck (.v 189) 3 = .ok base ∧ base.rangeCheck (.v 8) 3 = .ok base :=
  ⟨can (by decide +kernel), okIs (by decide +kernel), okIs (by decide +kernel), can (by decide +kernel), okIs (by decide +kernel), okIs (by decide +kernel)⟩


/-! ### Hypotheses of the statements about memory -/

def mf (vd addr : Sel) (off : BitVec 21) : FmtM := ⟨g7, .n32, .rlx, .grp, vd, addr, 0, off⟩
/-- s10 holds a global address of the mapped pages, s11 a managed one, s12 a generic window address. -/
def mem : State := withS [(10, 0x10000), (11, 0x20000), (12, 0xFE00000000000100)]
/-- Twin slot 1 of the workgroup. -/
def twins : State := mem.modWg 0 (fun w => { w with twins := [(1, { base0 := 0x100, base1 := 0x200, size := 0x80 })] })

theorem wit_loadsComplete : (∀ i ∈ [Instr.ld (mf (.v 8) (.s 12) 0), .ldg (mf (.v 8) (.s 10) 8), .lds (mf .zero .zero 4), .ldt (mf (.v 8) .zero 0x400)], twins.CanIssue i) ∧
    twins.cg.inflight 0 < 63 ∧ twins.rangeCheck (.v 8) 1 = .ok twins ∧
    (∃ t os, twins.prepAll (.ldg (mf (.v 8) (.s 10) 8)) (threads (twins.gmask g7)) [baseSrc (mf (.v 8) (.s 10) 8) true] = .ok (t, os) ∧
      ∃ r, t.loadThreads .global 4 4 false (formedEas twins t (mf (.v 8) (.s 10) 8) true 8 (os.getD 0 (.const 0))) = .ok r) ∧
    (∃ r, twins.twinResolve ⟨false, 1⟩ 4 false ((threads (twins.gmask g7)).map (fun th => ⟨th, 0⟩)) = .ok r) ∧
    (∃ r, twins.loadThreads .window 4 4 false ((threads (twins.gmask g7)).map (fun th => ⟨th, 4⟩)) = .ok r) ∧
    ∃ r, twins.loadThreads .generic 4 4 false ((threads (twins.gmask g7)).map (fun th => ⟨th, 0xFE00000000000100⟩)) = .ok r :=
  ⟨fun i h => can (by revert i; decide +kernel), by decide +kernel, okIs (by decide +kernel), ready (by decide +kernel), ready1 (by decide +kernel),
    ready1 (by decide +kernel), ready1 (by decide +kernel)⟩

def xlat (a : Nat) : Xlat := { pa := a, gpa := a, w := true, x := true, sh := false, mg := false, pw := 0, leafBase := 0x10000, leafSize := 0x10000 }

theorem readable_window : mem.Readable .window 4 0xFFFC :=
  show _ ∧ 0xFFFC < mem.cw.winSize ∧ mem.cw.emptyAt 0xFFFC = false ∧ mem.cw.winPoisoned 0xFFFC 4 = false from
    by and_intros <;> decide +kernel
theorem readable_global : mem.Readable .generic 8 0x1FFF8 :=
  show _ ∧ mem.pinBusy mem.cw.who 0x1FFF8 false = none ∧ mem.pinFails mem.cw.who 0x1FFF8 false = false ∧ mem.cg.loggedByte 0x1FFF8 8 = false ∧
      ∃ x, mem.fate mem.cw.who 0x1FFF8 false = .ok x ∧ mem.snoopBusy x.pa 8 false = false ∧ mem.poisoned x.pa 8 = false from
    ⟨by decide +kernel, rfl, by decide +kernel, by decide +kernel, xlat 0x1FFF8, by and_intros <;> decide +kernel⟩
theorem writable_window : mem.Writable .window 4 0 :=
  show _ ∧ 0 < mem.cw.winSize ∧ mem.cw.readOnly 0 = false ∧ mem.cw.emptyAt 0 = false from
    by and_intros <;> decide +kernel
theorem writable_global : mem.Writable .global 4 0x10000 :=
  show _ ∧ mem.pinBusy mem.cw.who 0x10000 true = none ∧ mem.pinFails mem.cw.who 0x10000 true = false ∧
      ∃ x, mem.fate mem.cw.who 0x10000 true = .ok x ∧ x.dirty = none ∧ mem.snoopBusy x.pa 4 true = false from
    ⟨by decide +kernel, rfl, by decide +kernel, xlat 0x10000, by and_intros <;> decide +kernel⟩

theorem wit_accessesSucceed : mem.Readable .window 4 0xFFFC ∧ mem.Readable .generic 8 0x1FFF8 ∧ mem.Writable .window 4 0 ∧ mem.Writable .global 4 0x10000 ∧
    mem.hasIssuer = true ∧ Memory.wf mem.mem ∧ (∃ w, mem.wg? mem.cg.wid = some w) ∧ mem.cg.inflight 1 < 63 ∧ mem.cg.sideLog = [] ∧
    (∃ t, twins.getTwin twins.cw.who twins.cg.wid ⟨false, 1⟩ = .ok t ∧ t.size ≠ 0 ∧ t.flipping = false ∧ (4 : Word64).toNat < t.size.toNat) :=
  ⟨readable_window, readable_global, writable_window, writable_global, by decide +kernel, by decide +kernel, ⟨_, rfl⟩, by decide +kernel, by decide +kernel, _, rfl, by decide +kernel⟩

theorem wit_storesComplete : (∀ i ∈ [Instr.st (mf (.v 8) (.s 12) 0), .stg (mf .tid (.s 10) 8), .sts (mf .lit .zero 4), .stt (mf (.v 8) .zero 0x400),
      .stl { mf (.v 8) (.s 10) 0 with nlog := 5 }], twins.CanIssue i) ∧ (isRel .rel = true → twins.cg.sideLog = []) ∧
    (∃ t os, twins.prepAll (.sts (mf .lit .zero 4)) (threads (twins.gmask g7)) [⟨0, .lit, .n32⟩, ⟨1, .zero, .n64⟩] = .ok (t, os) ∧
      ∃ u, t.storeThreads .window 4 0 2 false false true ((t.visit (twins.gmask g7)).map (fun th => ⟨th, 4, leBytes 4 th⟩)) = .ok u) ∧
    (∃ r, twins.twinResolve ⟨false, 1⟩ 4 true ((threads (twins.gmask g7)).map (fun th => ⟨th, 0⟩)) = .ok r) ∧
    ∃ u, twins.storeThreads .global 128 0 1 true false true [⟨0, 0x10000, List.replicate 128 7⟩] = .ok u :=
  ⟨fun i h => can (by revert i; decide +kernel), fun _ => rfl, ready (by decide +kernel), ready1 (by decide +kernel), ready1 (by decide +kernel)⟩

/-- A stream descriptor at 0x10040: one dimension of two 4-byte elements. -/
def streams : State := (mem.wr 0x10040 8 (0x10000 + 2 * 2 ^ 58)).wr 0x10050 8 (2 + 4 * 2 ^ 32)

theorem wit_uniformLoadsStreams : mem.CanIssue (.ldu { mf (.s 3) (.s 10) 0 with ty := .n64 }) ∧ asMule.CanIssue (.ldu { mf (.q 1) .zero 0 with ty := .n64 }) ∧
    (∃ r, mem.uniformEa (.ldu { mf (.s 3) (.s 10) 0 with ty := .n64 }) (mf (.s 3) (.s 10) 0) = .ok r) ∧ (∃ r, mem.loadThreads .global 8 8 false [⟨0, 0x10000⟩] = .ok r) ∧
    (∃ u, asMule.writeSD (.q 1) 5 = .ok u) ∧ mem.CanIssue (.pref ⟨g7, .i8, .rlx, .grp, .v 0, .s 10, 0, 0⟩) ∧
    streams.CanIssue (.stbind ⟨g7, .i8, .rlx, .grp, .w 2, .s 10, 0, 0x40⟩) ∧
    (∃ t vs, streams.loadThreads .generic 64 64 false [⟨0, 0x10040⟩] = .ok (t, vs) ∧ badStream (leNat ((vs.map Prod.snd).headD [])) = false) ∧
    (withG (fun g => { g with streams := [{ bound := true }] })).CanIssue (.stsave ⟨g7, .i8, .rlx, .grp, .w 0, .zero, 0, 0⟩) ∧
    ((withG (fun g => { g with streams := [{ bound := true }] })).stream 0).bound = true ∧
    (∃ u, mem.storeThreads .generic 64 0 1 false false true [⟨0, 0x10040, leBytes 64 (encodeStream {})⟩] = .ok u) ∧ ({} : Stream).dims.length = 4 :=
  ⟨can (by decide +kernel), can (by decide +kernel), ready1 (by decide +kernel), ready1 (by decide +kernel), ready1 (by decide +kernel), can (by decide +kernel),
    can (by decide +kernel), ⟨_, _, rfl, by decide +kernel⟩, can (by decide +kernel), by decide +kernel, ready1 (by decide +kernel), rfl⟩

def mapf (vd : Sel) : FmtM := ⟨g7, .i8, .rlx, .grp, vd, .s 20, 0, 3⟩
/-- s20 and s21 hold a legal map of one block, s22 and s23 one of no block. -/
def maps : State := withS [(20, 1 * 2 ^ 36 + 2), (21, 0x10000)]

theorem wit_scratchpadMaps : maps.CanIssue (.mapset (mapf (.s 4))) ∧ maps.mapStatus 3 (1 * 2 ^ 36 + 2 + 0x10000 * 2 ^ 64) = 0 ∧ base.CanIssue (.mapset (mapf (.s 4))) ∧ base.mapStatus 3 0 ≠ 0 ∧
    maps.CanIssue (.mapflush ⟨g7, .i8, .rlx, .grp, .v 0, .v 0, 0, 3⟩) ∧ maps.CanIssue (.mapclr ⟨g7, .i8, .rlx, .grp, .v 0, .v 0, 0, 3⟩) ∧ (∃ u, maps.flushMap 3 = .ok u) ∧
    (∀ m, SMap.get none maps.cw.maps 3 = some m → ∀ j, m.blocks.getD j .clean ≠ .dirty) :=
  ⟨can (by decide +kernel), by decide +kernel, can (by decide +kernel), by decide +kernel, can (by decide +kernel), can (by decide +kernel), ready1 (by decide +kernel),
    fun m h => by cases h⟩

def atf (ty : Ty) (vd cmp : Sel) : FmtAT := ⟨g7, ty, .rlx, .dev, vd, .s 10, .v 4, cmp⟩

theorem wit_atomics : (∀ i ∈ [Instr.aadd (atf .i32 (.v 8) (.v 0)), .amin (atf .f32 (.v 8) (.v 0)), .amax (atf .i64 (.v 8) (.v 0)), .aand (atf .n32 (.v 8) (.v 0)), .aor (atf .n64 (.v 8) (.v 0)),
      .axor (atf .n32 .zero (.v 0)), .axchg (atf .n32 (.v 8) (.v 0)), .acas (atf .n32 (.v 8) (.v 6)), .radd (atf .f64 .zero (.v 0)), .rmin (atf .i32 .zero (.v 0)), .rmax (atf .n32 .zero (.v 0)),
      .rand (atf .n32 .zero (.v 0)), .ror (atf .n64 .zero (.v 0)), .rxor (atf .n32 .zero (.v 0))], mem.CanIssue i) ∧
    (∃ t os, mem.prepAll (.aadd (atf .i32 (.v 8) (.v 0))) (threads (mem.gmask g7)) [⟨1, .s 10, .n64⟩, ⟨2, .v 4, .i32⟩] = .ok (t, os) ∧
      ∃ v, t.touchAll .generic ((threads (t.gmask g7)).map (fun th => ⟨th, 0x10000⟩)) = .ok v) ∧
    (∃ v, mem.addressCheck .generic ((threads (mem.gmask g7)).map (fun th => ⟨th, 0x10000⟩)) 4 true false = .ok v) ∧
    (∀ x ∈ mem.fates .generic ((threads (mem.gmask g7)).map (fun th => ⟨th, 0x10000⟩)) true, x.2 = .ok (xlat 0x10000)) ∧ mem.snoopBusy 0x10000 4 true = false ∧
    (∃ v, mem.atomPoison false 4 ((threads (mem.gmask g7)).map (fun th => ⟨th, 0x10000⟩)) = .ok v) ∧
    Ty.i32.isInt = true ∧ (7 : Nat) < 2 ^ Ty.i32.width ∧ resolveGeneric 0xFE00000000000100 = some (.win 0x100) :=
  ⟨fun i h => can (by revert i; decide +kernel), ready (by decide +kernel), ready1 (by decide +kernel), by decide +kernel, by decide +kernel, ready1 (by decide +kernel), rfl,
    by decide +kernel, by decide +kernel⟩

def cf (sa sb : SIdx) (imm : BitVec 6) : FmtC := ⟨g7, sa, sb, imm⟩
/-- A barrier object with ERR, in the window at 0x100. -/
def errObj : State := mem.modWg 0 (fun w => w.setWinN 0x100 (leBytes 16 (objSetErr (objInit 0 1))))
def setObj : State := mem.modWg 0 (fun w => w.setWinN 0x100 (leBytes 16 (objInit 0 1)))

theorem wit_fencesBarrierObjects : mem.CanIssue (.fence ⟨g7, .i8, .ar, .dev, .v 0, .v 0, .v 0, .v 0⟩) ∧ mem.cg.sideLog = [] ∧
    mem.CanIssue (.boinit ⟨g7, .i8, .rlx, .grp, .v 0, .s 12, .s 13, .v 0⟩) ∧
    (∃ t os, mem.prepAll (.boinit ⟨g7, .i8, .rlx, .grp, .v 0, .s 12, .s 13, .v 0⟩) [0] [⟨1, .s 12, .n64⟩, ⟨2, .s 13, .n64⟩] = .ok (t, os) ∧
      ∃ u, t.objUpdate (valueAt os 0) (fun o => objInit o (valueAt os 1).toNat) = .ok u) ∧
    mem.CanIssue (.boarv (cf (some 12) (some 0) 1)) ∧ (∃ u, setObj.objUpdate 0xFE00000000000100 (fun o => objStep o 0 1 false) = .ok u) ∧
    mem.CanIssue (.bowait (cf (some 12) (some 0) 0)) ∧
    (∃ u vs, setObj.loadThreads .generic 16 16 false [⟨0, 0xFE00000000000100⟩] = .ok (u, vs) ∧ objErr (leNat ((vs.map Prod.snd).headD [])) = false ∧
      objPhase (leNat ((vs.map Prod.snd).headD [])) = 0 ∧ objPhase (leNat ((vs.map Prod.snd).headD [])) ≠ 1) ∧
    (∃ u vs, errObj.loadThreads .generic 16 16 false [⟨0, 0xFE00000000000100⟩] = .ok (u, vs) ∧ objErr (leNat ((vs.map Prod.snd).headD [])) = true ∧ u.cur.mule = false) ∧
    (0xFE00000000000100 : Word64).toNat % 16 = 0 ∧ 0x100 < mem.cw.winSize ∧ mem.cw.mapAt 0x100 = none ∧ mem.cg.inflight 2 < 63 ∧
    0 < objInit 0 (1 + 2 * 2 ^ 32) / 2 ^ 32 % 2 ^ 16 ∧ objInit 0 (1 + 2 * 2 ^ 32) < 2 ^ 128 :=
  ⟨can (by decide +kernel), by decide +kernel, can (by decide +kernel), ready (by decide +kernel), can (by decide +kernel), ready1 (by decide +kernel), can (by decide +kernel),
    ⟨_, _, rfl, by decide +kernel⟩, ⟨_, _, rfl, by decide +kernel⟩, by decide +kernel⟩

/-- A valid queue of 4 entries of group scope at 0x10080, holding one entry. -/
def qhdr (head tail : Nat) (valid : Bool) : Nat := head + tail * 2 ^ 64 + 2 * 2 ^ 128 + (if valid then 2 ^ 139 else 0)
def queue (valid : Bool) : State := (withS [(10, 0x10080)]).wr 0x10080 64 (qhdr 0 1 valid)

theorem queueReady (push : Bool) : (queue true).QueueReady 0x10080 push { xlat 0x10080 with } (decodeQueue (qhdr 0 1 true)) := by
  unfold State.QueueReady
  and_intros
  all_goals try first | decide +kernel | exact okIs (by decide +kernel)
  all_goals revert push; decide +kernel

theorem wit_hardwareQueues : (queue true).CanIssue (.qpush (cf (some 10) (some 3) 0)) ∧ (queue true).CanIssue (.qpop (cf (some 10) (some 3) 0)) ∧ (queue true).cg.sideLog = [] ∧
    (queue true).QueueReady 0x10080 true (xlat 0x10080) (decodeQueue (qhdr 0 1 true)) ∧ (queue true).QueueReady 0x10080 false (xlat 0x10080) (decodeQueue (qhdr 0 1 true)) ∧
    (∃ y, (queue true).queueReach 0x100C8 8 = .ok y) ∧ (∃ r, (queue true).loadThreads .global 8 8 false [⟨0, 0x100C0⟩] = .ok r) ∧
    (queue true).CanIssue (.qcreate (cf (some 10) (some 3) 0)) ∧ (queue false).CanIssue (.qcreate (cf (some 10) (some 3) 0)) ∧
    createStatus 0 (decodeQueue ((queue true).rd 0x10080 64)) = 3 ∧ createStatus 0 (decodeQueue ((queue false).rd 0x10080 64)) = 0 :=
  ⟨can (by decide +kernel), can (by decide +kernel), by decide +kernel, queueReady true, queueReady false, ready1 (by decide +kernel), ready1 (by decide +kernel),
    can (by decide +kernel), can (by decide +kernel), by decide +kernel, by decide +kernel⟩

/-! ### Hypotheses of the statements about matrices, commands and control -/

/-- A format block of BF16 in s20 and s21, one tile and the matrix side. -/
def matrix : State := withG (fun g => { (g.setS 20 0) with tiles := 2, mside := 32, sparse := true, spq := [List.replicate 256 0x44] })
def xf : FmtX := ⟨g7, 0, false, false, 0, 0, 4, 20⟩
def xa : FmtX := ⟨g7, 0, false, false, 0, 0, 4, 0⟩

theorem wit_matrixOperations : matrix.CanIssue (.mma xf) ∧ matrix.MatReady xf false ∧ matrix.CanIssue (.mmas xf) ∧ matrix.MatReady xf true ∧
    matrix.CanIssue (.dmma { xf with fbp := 0 }) ∧ matrix.MatSrcOk (matrix.matSrc false 0 32) 1 (threads (matrix.gmask g7)) ∧ matrix.MatSrcOk (matrix.matSrc false 4 32) 1 (List.range 64) ∧
    0 + 1 < matrix.cg.tiles ∧ matrix.cw.winPoison = [] ∧ threads (matrix.gmask g7) ≠ [] :=
  ⟨can (by decide +kernel), by unfold State.MatReady State.MatSrcOk; decide +kernel, can (by decide +kernel), by unfold State.MatReady State.MatSrcOk; decide +kernel,
    can (by decide +kernel), by unfold State.MatSrcOk; decide +kernel, by unfold State.MatSrcOk; decide +kernel, by and_intros <;> decide +kernel⟩

/-- s4 holds a window row base of 8192 with pitch 256. -/
def accs : State := withG (fun g => { (g.setS 4 (n64 (8192 + 256 * 2 ^ 20))) with tiles := 2, mside := 32 })

theorem wit_accumulatorCopies : (xf.acc.val < accs.cg.tiles) ∧ accs.CanIssue (.accclr { xa with bop := 0 }) ∧ accs.CanIssue (.accmv { xa with aop := 1, bop := 0 }) ∧ 1 < accs.cg.tiles ∧ accs.cg.inflight 3 < 63 ∧
    accs.CanIssue (.accrd xa) ∧ accs.CanIssue (.accwr xa) ∧ (accs.cg.sreg xa.bop.val).toNat = 8192 + 256 * 2 ^ 20 ∧
    (∀ t ∈ threads (accs.gmask g7), 8192 + t * 256 + 256 ≤ accs.cw.winSize) ∧ (∀ t ∈ threads (accs.gmask g7), ∀ i, i < 256 → accs.cw.readOnly (8192 + t * 256 + i) = false) ∧
    (∃ v, accs.touchRows ((threads (accs.gmask g7)).map (fun t => 8192 + t * 256)) = .ok v) ∧
    (∃ v, accs.touchRows ((threads (accs.gmask g7)).map (fun t => 8192 + t * 256)) = .ok v ∧ ∀ t ∈ threads (accs.gmask g7), v.cw.winPoisoned (8192 + t * 256) 256 = false) :=
  ⟨by decide +kernel, can (by decide +kernel), can (by decide +kernel), by decide +kernel, by decide +kernel, can (by decide +kernel), can (by decide +kernel), by decide +kernel,
    by decide +kernel, by decide +kernel, ⟨_, rfl⟩, ⟨_, rfl, by decide +kernel⟩⟩

theorem cmdReady {s : State} {f : FmtA} {addrs : List Word64} {bad : List Nat} (h1 : (s.cmds.filter (fun c => c.gid == s.cur.gid)).length < 32)
    (h2 : (match f.sb with
      | some b => (s.sreg b.val).toNat % 16 == 0
      | none => true) = true) (h3 : (addrs ++ (s.objAddr f).toList).all (fun a => (resolveGeneric a).isSome) = true) (h4 : bad ++ objBad s.cw (s.objAddr f) = []) :
    s.CommandReady f addrs bad := ⟨h1, fun b e => by simpa [e] using h2, List.all_eq_true.mp h3, h4⟩

def af (sd : SIdx) (sb sc : SIdx) : FmtA := ⟨sd, sb, sc⟩
/-- s0 to s3 describe a copy of 2 rows of 16 bytes from the first mapped page to the window, s4 to s9 a chain of no operation from
F32 to F16; s16 to s19 describe twins; s30 names a barrier object in the window. -/
def cmds : State := withS [(0, 0x10000), (1, 0xFE00000000001000), (2, n64 (64 * 2 ^ 32 + 16)), (3, n64 (2 * 2 ^ 48 + 16)), (4, n64 (9 * 2 ^ 60 + 10 * 2 ^ 56)),
  (12, 0x10100), (14, 0x10000), (15, 1), (16, n64 (1 * 2 ^ 32)), (17, 0x100), (18, 0x200), (19, 0x80), (20, 0x10000), (21, n64 (1 * 2 ^ 32)), (22, n64 (64 * 2 ^ 32 + 16)), (23, n64 (2 * 2 ^ 48 + 16)),
  (30, 0xFE00000000000100)]
def fills : State := cmds.modGroup 0 (fun g => { g with sparse := true })
def twinned : State := cmds.modWg 0 (fun w => { w with twins := [(1, { base0 := 0x100, base1 := 0x200, size := 0x80 })] })

theorem wit_commandsStart : cmds.CanIssue (.cpy (af (some 0) (some 30) (some 31))) ∧ tileOk (cmds.descReg (af (some 0) (some 30) (some 31)) 3) = true ∧
    resolveGeneric (n64 (cmds.descReg (af (some 0) none none) 0)) = some (.glob 0x10000) ∧ resolveGeneric (n64 (cmds.descReg (af (some 0) none none) 1)) = some (.win 0x1000) ∧
    cmds.CommandReady (af (some 0) (some 30) (some 31)) [] (cmds.cw.badRows false (some (.glob 0x10000)) 64 2 16 ++ cmds.cw.badRows true (some (.win 0x1000)) 16 2 16) ∧
    cmds.CanIssue (.cpych (af (some 0) (some 30) none)) ∧ chainOk ((List.range 6).map (fun i => n64 (cmds.descReg (af (some 0) none none) (4 + i)))) 16 = true ∧
    cmds.CommandReady (af (some 0) (some 30) none) [0, 0] (cmds.cw.badRows true (some (.win 0x1000)) 16 2 8) ∧
    cmds.CanIssue (.cpyrel (af (some 12) none (some 31))) ∧ cmds.CommandReady (af (some 12) none (some 31)) [] [] ∧
    fills.CanIssue (.spqfill (af (some 14) (some 30) none)) ∧ fills.cg.sparse = true ∧ fills.CommandReady (af (some 14) (some 30) none) [] (fills.cw.badRows false (some (.glob 0x10000)) 256 1 256) ∧
    cmds.CanIssue (.twcpy (af (some 20) none none)) ∧ designatorOk (cmds.descReg (af (some 20) none none) 1) false true = true ∧
    (cmds.cmds.filter (fun c => c.gid == cmds.cur.gid)).length < 32 ∧ (∃ t, cmds.getTwin cmds.cw.who cmds.cg.wid (designator (2 ^ 32)) = .ok t ∧ t.size = 0) ∧
    cmds.CanIssue (.twset (af (some 16) none (some 31))) ∧ designatorOk (cmds.descReg (af (some 16) none none) 0) false false = true ∧
    twinned.CanIssue (.twclr (af (some 16) none none)) ∧ twinned.CanIssue (.twflip (af (some 16) none none)) ∧ designatorOk (2 ^ 32) true false = true ∧ twinned.cg.sideLog = [] ∧
    (∃ t, twinned.getTwin twinned.cw.who twinned.cg.wid (designator (2 ^ 32)) = .ok t ∧ t.size ≠ 0 ∧ t.flipping = false ∧ t.pend = 0) :=
  ⟨can (by decide +kernel), by decide +kernel, by decide +kernel, by decide +kernel, cmdReady (by decide +kernel) (by decide +kernel) (by decide +kernel) (by decide +kernel), can (by decide +kernel), by decide +kernel,
    cmdReady (by decide +kernel) (by decide +kernel) (by decide +kernel) (by decide +kernel), can (by decide +kernel), cmdReady (by decide +kernel) (by decide +kernel) (by decide +kernel) (by decide +kernel), can (by decide +kernel), by decide +kernel,
    cmdReady (by decide +kernel) (by decide +kernel) (by decide +kernel) (by decide +kernel), can (by decide +kernel), by decide +kernel, by decide +kernel, ⟨{}, okIs (by decide +kernel), by decide +kernel⟩, can (by decide +kernel), by decide +kernel,
    can (by decide +kernel), can (by decide +kernel), by decide +kernel, by decide +kernel, { base0 := 0x100, base1 := 0x200, size := 0x80 }, okIs (by decide +kernel), by decide +kernel⟩

/-- s0 to s4 describe a stream of one tile of 16 bytes in 2 slots; s8 names slot 0 of subscription 0. -/
def subsc : State := withS [(0, 0x10000), (1, n64 (16 * 2 ^ 32 + 1 * 2 ^ 16 + 16)), (2, n64 (1 * 2 ^ 32 + 16)), (3, n64 (2 * 2 ^ 40 + 16 * 2 ^ 20 + 0x1000)), (4, 0x2000)]
def oneSub : Sub := { idx := 0, gid := 0, tbase := 0x10000, rpitch := 16, trows := 1, tbytes := 16, tcount := 1, tpitch := 16, outbound := false, slots := 2, spitch := 16, ring := 0x1000, objs := 0x2000 }
def subbed : State := subsc.modWg 0 (fun w => ({ w with subs := [oneSub] }).setWinN 0x2010 (leBytes 16 (objInit 0 1)))

theorem wit_subscriptions : subsc.CanIssue (.subscr (af (some 0) none (some 9))) ∧ subsc.fitting = .h ∧ ({ subsc with fitting := .l }).CanIssue (.subscr (af (some 0) none (some 9))) ∧
    (let d (i : Nat) : Nat := subsc.descReg (af (some 0) none (some 9)) i
     d 0 < 2 ^ 57 ∧ d 1 / 2 ^ 16 % 2 ^ 16 ≠ 0 ∧ d 1 % 2 ^ 16 ≠ 0 ∧ d 2 / 2 ^ 32 % 2 ^ 32 ≠ 0 ∧ d 3 / 2 ^ 46 % 2 ^ 18 = 0 ∧ d 3 / 2 ^ 40 % 2 ^ 5 = 2 ∧ d 1 / 2 ^ 16 % 2 ^ 16 * (d 1 % 2 ^ 16) ≤ d 3 / 2 ^ 20 % 2 ^ 20 ∧
     d 4 / 2 ^ 20 % 2 ^ 44 = 0 ∧ d 4 % 2 ^ 20 % 16 = 0 ∧ subsc.cw.badRows true (some (.win (d 3 % 2 ^ 20))) 16 2 16 ++ subsc.cw.badRows true (some (.win (d 4 % 2 ^ 20))) 0 1 64 = []) ∧
    (∀ b ∈ subsc.cw.subs, b.idx ≠ 0) ∧ (subsc.cmds.filter (fun c => c.gid == subsc.cur.gid)).length < 32 ∧
    (let full : State := subsc.modWg 0 (fun w => { w with subs := [oneSub, { oneSub with idx := 1 }, { oneSub with idx := 2 }, { oneSub with idx := 3 }] })
     full.CanIssue (.subscr (af (some 0) none (some 9))) ∧ ∀ i, i < 4 → ∃ b ∈ full.cw.subs, b.idx = i) ∧
    subbed.CanIssue (.slotrel (af (some 8) none none)) ∧ subbed.descReg (af (some 8) none none) 0 = 0 ∧ subbed.cw.subs.find? (fun b => b.idx == 0 % 4) = some oneSub ∧ 0 < oneSub.slots ∧
    subbed.cg.sideLog = [] ∧ ∃ u, subbed.objUpdate (Where.generic (.win 0x2010)) (fun o => objStep o 0 1 false) = .ok u :=
  ⟨can (by decide +kernel), rfl, can (by decide +kernel), by decide +kernel, by decide +kernel, by decide +kernel, ⟨can (by decide +kernel), by decide +kernel⟩, can (by decide +kernel), by decide +kernel,
    by decide +kernel, by decide +kernel, by decide +kernel, ready1 (by decide +kernel)⟩

def bf (p : Guard) : FmtCB := ⟨p, 13, 29, 0⟩
def g1 : Guard := ⟨false, 1⟩
/-- p1 of the threads in `m`. -/
def withP (m : BitVec 32) : State := withG (fun g => g.setPred 1 (BitVec.allOnes 32) m)

theorem wit_branches : (withP 0xFF).CanIssue (.bra (bf g1)) ∧ asMule.CanIssue (.bra (bf g1)) ∧ asMule.cur.mule = true ∧ (withP 0xFFFFFFFF).cur.mule = false ∧
    (withP 0xFFFFFFFF).CanIssue (.bra (bf g1)) ∧ (withP 0xFFFFFFFF).gmask g1 = (withP 0xFFFFFFFF).cf.mask ∧ (withP 0).gmask g1 = 0 ∧ (withP 0).cf.mask ≠ 0 ∧
    (withP 0xFF).gmask g1 ≠ (withP 0xFF).cf.mask ∧ (withP 0xFF).gmask g1 ≠ 0 ∧ (withP 0xFF).splitAllowed (withP 0xFF).cg = true ∧
    (let full : State := (withP 0xFF).modGroup 0 (fun g => { g with frags := g.frags ++ (List.range 32).map (fun i => { fid := i + 1, mask := 0, hdr := 0 }) })
     full.CanIssue (.bra (bf g1)) ∧ full.splitAllowed full.cg = false ∧ full.cf.chain.length < 16 ∧ full.gmask g1 ≠ full.cf.mask ∧ full.gmask g1 ≠ 0) ∧
    (let deep : State := (withP 0xFF).modGroup 0 (fun g => { (g.modFrag 0 (fun f => { f with chain := List.range 16, serial := (List.range 16).map (fun i => ⟨i, 0, 0, 0, 0, 0, 0, .exited, [], .none, [], 0⟩) })) with
        frags := (g.modFrag 0 (fun f => { f with chain := List.range 16, serial := (List.range 16).map (fun i => ⟨i, 0, 0, 0, 0, 0, 0, .exited, [], .none, [], 0⟩) })).frags ++ (List.range 32).map (fun i => { fid := i + 1, mask := 0, hdr := 0 }) })
     deep.CanIssue (.bra (bf g1)) ∧ deep.splitAllowed deep.cg = false ∧ 16 ≤ deep.cf.chain.length ∧ deep.gmask g1 ≠ 0) ∧
    base.CanIssue (.brs ⟨g7, 2, 0, 0xC0⟩) ∧ base.CanIssue (.brz ⟨g7, -2, 0, 0xEF⟩) ∧
    (withG (fun g => { g with streams := [{ bound := true, flags := 1 }] })).CanIssue (.breod ⟨g7, 2, 0, 0⟩) ∧
    (withG (fun g => { g with streams := [{ bound := true }] })).CanIssue (.brneod ⟨g7, 2, 0, 0⟩) ∧ ((withG (fun g => { g with streams := [{ bound := true }] })).stream 0).bound = true := by and_intros <;> first | decide +kernel | exact can (by decide +kernel)

def cc (sa : SIdx) : FmtC := ⟨g7, sa, some 0, 0⟩
/-- The fragment holds a join opened at its call depth. -/
def joined : State := withG (fun g => g.modFrag 0 (fun f => { f with joins := [⟨5, 0x10040, 0⟩] }))

theorem wit_callsReturns : base.CanIssue (.call ⟨g7, 4, 0, 47⟩) ∧ base.depth ≠ BitVec.allOnes 16 ∧ base.CanIssue (.ret (cc (some 10))) ∧
    ((∀ j, base.cf.pendingTop = .join j → j.depth ≠ base.cf.depth) ∧ ∀ l, base.cf.pendingTop = .level l → l.depth ≠ base.cf.depth) ∧
    (base.sregOr 0 (some 10)).toNat < 2 ^ 57 ∧ (base.sregOr 0 (some 10)).toNat % 4 = 0 ∧ joined.CanIssue (.ret (cc (some 10))) ∧ joined.cur.mule = false ∧
    joined.cf.pendingTop = .join ⟨5, 0x10040, 0⟩ ∧ joined.cf.depth = 0 :=
  ⟨can (by decide +kernel), by decide +kernel, can (by decide +kernel), ⟨fun j h => by simp [show base.cf.pendingTop = .none from by decide +kernel] at h, fun j h => by
    simp [show base.cf.pendingTop = .none from by decide +kernel] at h⟩, by decide +kernel, by decide +kernel, can (by decide +kernel), by and_intros <;> decide +kernel⟩

theorem wit_exitEffects : base.CanIssue (.exit (cc (some 0))) ∧ asMule.CanIssue (.exit (cc (some 0))) ∧ base.cur.mule = false ∧ (withP 0).gmask g1 = 0 ∧ (withP 0).CanIssue (.exit { cc (some 0) with g := g1 }) ∧
    (withP 0xFF).gmask g1 ≠ 0 ∧ (withP 0xFF).cg.liveMask &&& ~~~(withP 0xFF).gmask g1 ≠ 0 ∧ base.gmask g7 ≠ 0 ∧ base.cg.liveMask &&& ~~~base.gmask g7 = 0 ∧ base.cg.sideLog = [] ∧
    ∃ v, (if base.lastGroup then base.flushMaps else .ok base) = .ok v ∧ v.cg.sideLog = [] :=
  ⟨can (by decide +kernel), can (by decide +kernel), by decide +kernel, by decide +kernel, can (by decide +kernel), by decide +kernel, by decide +kernel, by decide +kernel, by decide +kernel, by decide +kernel, _, rfl, by decide +kernel⟩

def fc (imm : BitVec 6) : FmtC := ⟨g7, some 0, some 0, imm⟩
/-- The only fragment of the workgroup waits at barrier 1, or at gang barrier 1, whose watchdog has run for 2^16 ticks. -/
def stalledAt (w : Wait) : State :=
  { (withG (fun g => g.modFrag 0 (fun f => { f with wait := w, arrived := some w }))).modWg 0 (fun v => v.setBar 1 { arrived := 32, isOpen := true, exp := 16 }) with
    clock := 2 ^ 16, gangs := [{ rcb := 0, num := 0, bars := [(1, { arrived := 32, isOpen := true, exp := 16 })] }] }

theorem wit_barrierArrivals : base.gmask g7 ≠ 0 ∧ base.cf.arrived = none ∧ base.cg.sideLog = [] ∧ base.CanIssue (.bar (fc 0x0F)) ∧ base.CanIssue (.bar (fc 0x1F)) ∧
    base.CanIssue (.bargang (fc 3)) ∧ base.CanIssue (.bargang (fc 0x13)) ∧ (BitVec.getLsbD (0x1F : BitVec 6) 4 = true) ∧ (BitVec.getLsbD (0x0F : BitVec 6) 4 = false) ∧ (base.wg 0).bar 15 = {} ∧
    ((base.wg 0).bar 15).arrived < base.liveThreads 0 ∧
    (∃ w, (stalledAt (.bar 1)).wg? 0 = some w ∧ (w.bar 1).isOpen = true ∧ (w.bar 1).stalled = false ∧ 2 ^ (w.bar 1).exp ≤ ((stalledAt (.bar 1)).clock - (w.bar 1).start).toNat) ∧
    (∃ g f, (stalledAt (.bar 1)).groupsOf 0 = [g] ∧ (stalledAt (.bar 1)).group? g.gid = some g ∧ g.frags.find? (fun f => f.wait == .bar 1 && !g.stopped f) = some f) ∧
    (∃ x, (stalledAt (.gang 1)).gangs.find? (fun x => x.rcb == 0 && x.num == 0) = some x ∧ (x.bar 1).isOpen = true ∧ (x.bar 1).stalled = false ∧ 2 ^ (x.bar 1).exp ≤ ((stalledAt (.gang 1)).clock - (x.bar 1).start).toNat) ∧
    (∃ g f, (stalledAt (.gang 1)).groups.filter (fun h => ((stalledAt (.gang 1)).gangMembers 0 0).contains h.wid && !h.frags.isEmpty) = [g] ∧ (stalledAt (.gang 1)).group? g.gid = some g ∧
      g.frags.find? (fun f => f.wait == .gang 1 && !g.stopped f) = some f) ∧
    (∀ w, base.wg? 0 = some w → (base.clock - (w.bar 1).start).toNat < 2 ^ (w.bar 1).exp) :=
  ⟨by decide +kernel, by decide +kernel, by decide +kernel, can (by decide +kernel), can (by decide +kernel), can (by decide +kernel), can (by decide +kernel), rfl, rfl, by decide +kernel, by decide +kernel,
    ⟨_, rfl, by decide +kernel⟩, ⟨_, _, rfl, rfl, rfl⟩, ⟨_, rfl, by decide +kernel⟩, ⟨_, _, rfl, rfl, rfl⟩, fun w h => by cases h; decide +kernel⟩

/-- Budget of the launch at RCB 0 (its D2 and D3), and room on the matrix side. -/
def pool : State := (withG (fun g => { (g.setS 1 32) with mside := 0 })).wr 16 8 (100 * 2 ^ 28)
def pf (sa : Fin 48) (imm : BitVec 6) : FmtC := ⟨g7, some sa, some 6, imm⟩

theorem wit_waitsHintsPool : base.CanIssue (.wait (fc 4)) ∧ base.cg.inflight 4 ≤ 0 ∧
    (let busy : State := withG (fun g => { g with flights := [{ path := 0, kind := .load }] })
     busy.CanIssue (.wait (fc 0)) ∧ min (busy.sregOr 0 (some 0)).toNat 63 < busy.cg.inflight 0 ∧ busy.cf.swap .none = none) ∧
    base.CanIssue (.yield (fc 0)) ∧ base.CanIssue (.nop (fc 0)) ∧ pool.CanIssue (.grow (pf 1 8)) ∧ (pool.sregOr 0 (some 1)).toNat = 32 ∧
    (sideLimit true < (withS [(1, 32)]).cg.side true + 32) ∧ (withS [(1, 32)]).CanIssue (.grow (pf 1 8)) ∧ pool.cg.side true + 32 ≤ sideLimit true ∧ pool.granFree pool.cw.rcb 32 = true ∧
    (let poor : State := withG (fun g => { (g.setS 1 32) with mside := 0 })
     poor.CanIssue (.grow (pf 1 8)) ∧ poor.cg.side true + 32 ≤ sideLimit true ∧ poor.granFree poor.cw.rcb 32 = false) ∧
    (withS [(1, 32)]).CanIssue (.shrink { pf 1 8 with sb := some 0 }) ∧ 32 ≤ (withS [(1, 32)]).cg.side true ∧ base.CanIssue (.shrink { pf 1 0 with sb := some 0 }) ∧ (base.sregOr 0 (some 1)).toNat = 0 ∧
    SMap.wf 0 pool.cg.sregs = true ∧ SMap.wf 0 pool.cg.preds = true ∧
    (∃ i, ({ pool.cf with clause := some (oneClause ((encode (.grow (pf 1 8))).getD 0 0) 0) } : Frag).growInstr = some i ∧ i.sb = some 6 ∧ i.imm.toNat % 8 ≠ 7) :=
  ⟨can (by decide +kernel), by decide +kernel, ⟨can (by decide +kernel), by decide +kernel⟩, can (by decide +kernel), can (by decide +kernel), can (by decide +kernel), by decide +kernel, by decide +kernel,
    can (by decide +kernel), by decide +kernel, by decide +kernel, ⟨can (by decide +kernel), by decide +kernel⟩, can (by decide +kernel), by decide +kernel, can (by decide +kernel), by decide +kernel,
    by decide +kernel, by decide +kernel, pf 1 8, by decide +kernel⟩

/-- A wave descriptor at 0x10000 with this footprint; the context's RCB at 0 has a code table at 0x40000 that holds the page, a wave queue of
one slot at 0x50000, budgets, and this depth. -/
def wave (vgran depth : Nat) (budget live : Bool) : State :=
  let s := withS [(1, 0x10000)]
  let s := (s.wr 0x10000 8 (1 * 2 ^ 48 + 1 * 2 ^ 42 + vgran % 16 * 2 ^ 38 + (if vgran = 0 then 32 else 0) * 2 ^ 32 + 1 * 2 ^ 21 + (if vgran = 0 then 32 else 1) * 2 ^ 15)).wr 0x10018 8 0x10080
  let s := ((s.wr 0x40000 8 0x10000).wr 0x40008 8 0x10000).wr 72 8 0x40000
  let s := (((s.wr 80 8 0x50000).wr 0 8 (1 * 2 ^ 60 + depth * 2 ^ 53)).wr 16 8 (if budget then 200 * 2 ^ 28 + 1000 * 2 ^ 10 else 0)).wr 24 8 (2000 * 2 ^ 40)
  if live then s.newWork 0 0x50000 else s
def waveOk (s : State) : Bool := match s.loadThreads .global 32 32 false [⟨0, 0x10000⟩] with
  | .ok (t, vs) => t.waveDescOk (t.ctxRcb t.cw.ctx) (waveDesc (leNat ((vs.map Prod.snd).headD [])))
  | .error _ => false
/-- The facts of each status. -/
def waveStatus (s : State) : Nat := match s.loadThreads .global 32 32 false [⟨0, 0x10000⟩] with
  | .ok (t, vs) => (t.spawnStatus (waveDesc (leNat ((vs.map Prod.snd).headD [])))).1
  | .error _ => 9

theorem wit_spawnStatuses : (∀ s ∈ [wave 1 4 true false, wave 0 0 true false, wave 1 0 false false, wave 1 0 true true, wave 1 0 true false],
      s.canIssueB (.spawn ⟨g7, some 1, some 2, 3⟩) = true ∧ (s.sregOr 0 (some 1)).toNat % 32 = 0 ∧ waveOk s = true) ∧
    [wave 1 4 true false, wave 1 0 false false, wave 1 0 true true, wave 1 0 true false].map waveStatus = [1, 2, 4, 0] ∧ (wave 1 0 true false).cg.sideLog = [] ∧
    neverFits 32 12 32 1 = true ∧ neverFits 1 1 0 32 = false ∧ neverFits 5 0 0 32 = true :=
  by and_intros <;> decide +kernel

/-- The worked clause of R141 to R144 at 0x10000: FFMA, and IADD of the literal 100. The fragment stands at its header. -/
def clauseWords : List Nat := [0x52038100, 0x28CA4006, 0x01C30600, 0x201C8008, 0x08FC0000, 0x64]
def withClause (l : List Nat) : State := (withG (fun g => g.modFrag 0 (fun f => { f with clause := none }))).wrN 0x10000 ((l.map (leBytes 4)).flatten)
def atClause : State := withClause clauseWords

theorem wit_clauseEntry : atClause.hasFetcher = true ∧ atClause.cur.mule = false ∧ atClause.cf.widx = 0 ∧ atClause.cf.atRecon = false ∧ atClause.cg.pending = [] ∧ atClause.cg.good = atClause.ctxGood atClause.cw.ctx ∧
    atClause.fetchClause atClause.cw.who atClause.cf.hdr = .ok (0x52038100, clauseWords.tail) ∧
    (∃ c, decodeClause 0x52038100 clauseWords.tail atClause.cg.role atClause.cw.priv atClause.cg.tlevel = .ok c ∧ 0 < c.nIns ∧ startsAt c.words 0 16 0 = true ∧ atClause.cg.waitsMet c.hdr = true ∧
      (withG (fun g => { g with flights := [{ path := 0, kind := .load }] })).cg.waitsMet c.hdr = false) :=
  ⟨by decide +kernel, by decide +kernel, by decide +kernel, by decide +kernel, by decide +kernel, by decide +kernel, okIs (by decide +kernel),
    ⟨⟨5, .vector, 0, 0, 7, 0, false, 1⟩, clauseWords.tail⟩, okIs (by decide +kernel), by decide +kernel⟩

def crf (n : BitVec 6) : FmtC := ⟨g7, some 1, none, n⟩
def crn : FmtC := ⟨g7, some 1, some 2, 0⟩
/-- s2 names a control register; the workgroup is not privileged. -/
def plain (n : Word64) : State := (withS [(2, n)]).modWg 0 (fun w => { w with priv := false })

theorem wit_controlRegisters : ([(0 : BitVec 6), 1, 2, 3, 4, 5, 6, 7, 0x10, 0x11, 0x12, 0x13, 0x18, 0x19, 0x1A, 0x1B, 0x1F].all (fun n => base.canIssueB (.crrd (crf n))) = true) ∧
    ([0x40, 0x41, 0x42].all (fun n => (withS [(2, n64 n)]).canIssueB (.crrd crn) && (withS [(2, n64 n)]).crNumber crn == n && (plain (n64 n)).canIssueB (.crrd crn) && (plain (n64 n)).crNumber crn == n) = true) ∧
    base.cw.priv = true ∧ base.cur.mule = false ∧
    ([8, 15, 0x14, 0x17, 0x1C, 0x1E, 0x20, 0x3F, 0x43, 0xFFF].all (fun n => (plain (n64 n)).canIssueB (.crrd crn) && (plain (n64 n)).crNumber crn == n) = true) ∧ (plain 0x40).cw.priv = false ∧
    ([(3 : BitVec 6), 4, 0x10, 0x11, 0x12, 0x13, 0x18, 0x19, 0x1A, 0x1B, 0x1F].all (fun n => base.canIssueB (.crwr (crf n))) = true) ∧ (withS [(2, 0x41)]).canIssueB (.crwr crn) = true :=
  by and_intros <;> decide +kernel

/-- The handler table is at 0x10000; the entry of code 1 names a handler at 0x20000. -/
def handled : State := (withG (fun g => { g with tvec := 0x10001 })).wr 0x10008 8 0x20000
def theGroup (s : State) : Group := s.cg

theorem wit_trapEntry : handled.group? (theGroup handled).gid = some (theGroup handled) ∧ (theGroup handled).frag? handled.cf.fid = some handled.cf ∧ (theGroup handled).tlevel < 2 ∧
    (∀ h ∈ (theGroup handled).frags, h.fid < (theGroup handled).nextFid) ∧ SMap.wf 0 (theGroup handled).sregs = true ∧ (1 ≠ cPoison ∧ 1 ≠ cViral ∧ 1 ≠ cLost) ∧
    handled.handlerEntry (handled.wg (theGroup handled).wid).who (theGroup handled).tvec 1 = .ok 0x20000 ∧
    (theGroup (withG (fun g => { g with tlevel := 2 }))).tlevel = 2 ∧ (theGroup base).tvec.getLsbD 0 = false ∧
    (withG (fun g => { g with tvec := 0x30001 })).handlerEntry base.cw.who 0x30001 1 = .error (.kill 3) ∧
    ∃ x, { handled with fitting := .l, snoop := [{ line := 0x10008 / 64, owner := some 3 }] }.handlerEntry handled.cw.who 0x10001 1 = .error (.busy x) :=
  ⟨by decide +kernel, by decide +kernel, by decide +kernel, by decide +kernel, by decide +kernel, by decide +kernel, okIs (by decide +kernel), by decide +kernel, by decide +kernel, by rfl, _, rfl⟩

/-- Fragment 1 runs at level 1 behind the trapped fragment 0. -/
def inHandler : State := { withG (fun g => { g with tlevel := 1, nextFid := 2, bank1 := { frag := 0, ret := 0x10004 }, frags := g.frags ++ [{ fid := 1, mask := BitVec.allOnes 32, hdr := 0x20000, level := 1, clause := some (oneClause 0 0) }] }) with cur := { fid := 1 } }

theorem wit_trapsByInstruction : base.CanIssue (.trap (cc none)) ∧ base.CanIssue (.trap ⟨g7, some 3, some 0, 63⟩) ∧ inHandler.CanIssue (.tret (fc 1)) ∧ inHandler.CanIssue (.tret (fc 0)) ∧
    inHandler.cg.tlevel ≠ 0 ∧ (∀ h ∈ inHandler.cg.frags, h.level = inHandler.cg.tlevel → h.fid = inHandler.cf.fid) ∧ inHandler.cf.pendingTop = .none ∧
    (inHandler.cg.bank inHandler.cg.tlevel).ret.toNat % 4 = 0 ∧ decide ((inHandler.cg.bank inHandler.cg.tlevel).ret.toNat / 2 ^ 59 % 2 = 1) = false ∧
    (inHandler.cg.bank inHandler.cg.tlevel).posted = none ∧ inHandler.cf.fid ≠ (inHandler.cg.bank inHandler.cg.tlevel).frag ∧ SMap.wf 0 inHandler.cg.sregs = true ∧
    ∃ q, inHandler.cg.frag? (inHandler.cg.bank inHandler.cg.tlevel).frag = some q := by
  and_intros
  all_goals try first | decide +kernel | exact can (by decide +kernel) | rfl
  · exact ⟨_, rfl⟩

def lf : FmtC := ⟨g7, some 10, some 11, 0⟩
def cf0 : FmtC := ⟨g7, some 10, some 0, 0⟩
def locked : State := mem.modWg 0 (fun w => { w with locks := [512] })

theorem wit_cacheLines : isGlobal (mem.sregOr 0 (some 10)) = true ∧ mem.CanIssue (.lkline lf) ∧ mem.CanIssue (.ulkline lf) ∧ locked.CanIssue (.ulkline lf) ∧ mem.lineXlat lf = .ok (xlat 0x10000) ∧
    locked.lineXlat lf = .ok (xlat 0x10000) ∧ mem.lockStatus (xlat 0x10000) = 0 ∧ locked.cw.locks.contains 512 = true ∧ mem.cw.locks.contains 512 = false ∧ mem.CanIssue (.clrpois cf0) ∧
    (∃ u, mem.storeThreads .global 128 6 1 true false false [⟨0, 0x10000, List.replicate 128 0⟩] = .ok u) ∧ mem.CanIssue (.clwb cf0) ∧ mem.CanIssue (.clinv cf0) ∧
    mem.fate mem.cw.who 0x10000 false = .ok (xlat 0x10000) ∧ mem.cg.inflight 1 < 63 ∧ SMap.wf 0 mem.mem = true ∧ ({ xlat 0x10000 with sh := true } : Xlat).sh = true :=
  ⟨by decide +kernel, can (by decide +kernel), can (by decide +kernel), can (by decide +kernel), okIs (by decide +kernel), okIs (by decide +kernel), by decide +kernel, by decide +kernel, by decide +kernel,
    can (by decide +kernel), ready1 (by decide +kernel), can (by decide +kernel), can (by decide +kernel), by decide +kernel, by decide +kernel, by decide +kernel, rfl⟩

/-! ### Hypotheses of the statements about the heap, regions and engines -/

/-- GOOD is 1; h1 and h2 hold a good reference to 0x20000; the page word of that page is `pw`. -/
def heapWith (pw : Nat) : State := (withG (fun g =>
  { ((g.setS 10 0x10000).setS 11 0x20000) with good := 1, hregs := ((List.range 32).map (fun t => (32 + t, (0x4000000000020000 : Word64)))) ++ ((List.range 32).map (fun t => (64 + t, (0x4000000000020000 : Word64)))) })).wr 0x30000 8 pw
def heap : State := heapWith 0
/-- The page at 0x20000 is being moved: its table at 0x10000 holds one slot, of this STATE, for the object at 0x20000, now at 0x20100. -/
def moved (state : Nat) : State := ((heapWith (2 ^ 12 + 0x100 * 2 ^ 15)).wrN 0x10000 (leBytes 16 (0x20000 * 2 ^ 71 + 1))).wrN 0x10010 (leBytes 16 (0x20100 * 2 ^ 71 + 2 * 2 ^ 28 + state))
def hf (vd addr : Sel) (nlog : Fin 8) (off : BitVec 21) : FmtM := ⟨g7, .i8, .rlx, .grp, vd, addr, nlog, off⟩
def slow : Word64 := 0x8000000000020000
def isFound (l : Lookup) : Option (Nat × FwdEntry) := match l with
  | .found k e => some (k, e)
  | _ => none

theorem wit_loadBarrier : heap.barOne 0 = .good 0 ∧ (0x4000000000020004 : Word64).toNat % 2 ^ 57 % 8 ≠ 0 ∧ (0x4200000000020000 : Word64).toNat / 2 ^ 57 % 2 ^ 4 ≠ 0 ∧
    (0x4000000000020000 : Word64).toNat / 2 ^ 62 = heap.cg.good.toNat ∧ heap.cg.good ≠ 0 ∧
    (slow ≠ 0 ∧ slow.toNat / 2 ^ 57 % 2 ^ 4 = 0 ∧ slow.toNat % 2 ^ 57 % 8 = 0 ∧ ¬(slow.toNat / 2 ^ 62 = heap.cg.good.toNat ∧ heap.cg.good ≠ 0)) ∧
    (∃ x, heap.onManaged 0x10000 = .ok x ∧ x.mg = false) ∧ (∃ x, heap.onManaged 0x20000 = .ok x ∧ x.mg = true ∧ heap.rd x.pw 8 / 2 ^ 12 % 2 = 0) ∧
    (∀ st ∈ [1, 2, 3], ∃ x, (moved st).onManaged 0x20000 = .ok x ∧ x.mg = true ∧ (moved st).rd x.pw 8 / 2 ^ 12 % 2 = 1 ∧
      isFound ((moved st).lookupFwd (moved st).cw.who ((moved st).rd x.pw 8 / 2 ^ 15 * 2 ^ 8) (x.pageOf 0x20000) 0x20000) = some (0, ⟨0x20100, 0, 2, st⟩)) := by
  and_intros
  all_goals try first | decide +kernel
  · exact ⟨{ xlat 0x10000 with }, okIs (by decide +kernel), rfl⟩
  · exact ⟨{ xlat 0x20000 with mg := true, pw := 0x30000, leafBase := 0x20000 }, okIs (by decide +kernel), by decide +kernel⟩
  · exact fun st h =>
        ⟨{ xlat 0x20000 with mg := true, pw := 0x30000, leafBase := 0x20000 }, okIs (by revert st; decide +kernel), by revert st; decide +kernel⟩

def good1 : List (Nat × Word64) := (List.range 32).map (fun t => (t, 0x4000000000020000))
theorem barrier1 : heap.barAll (heap.refsOf 1 true (threads (heap.gmask g7))) = .ok (heap, good1) := okIs (by decide +kernel)

def loaded : State × List (Nat × List Byte) := match heap.loadThreads .global 8 8 true (fieldEas good1 8) with
  | .ok a => a
  | .error _ => (heap, [])

theorem wit_heapAccesses : heap.CanIssue (.hldSlot (hf (.v 3) (.s 10) 0 8)) ∧ heap.CanIssue (.hldField (hf (.v 3) (.v 1) 1 8)) ∧ heap.CanIssue (.hfld { hf (.v 8) (.v 1) 0 8 with ty := .n32 }) ∧
    heap.CanIssue (.hstSlot (hf (.v 2) (.s 10) 0 8)) ∧ heap.CanIssue (.hstField (hf (.v 2) (.v 1) 1 8)) ∧ heap.CanIssue (.hstr { hf (.v 8) (.v 1) 0 8 with ty := .n32 }) ∧
    heap.prepAll (.hldSlot (hf (.v 3) (.s 10) 0 8)) (threads (heap.gmask g7)) [baseSrc (hf (.v 3) (.s 10) 0 8) true] = .ok (heap, [.const 0x10000]) ∧ heap.cg.inflight 0 < 63 ∧
    heap.fieldRange good1 8 8 = .ok heap ∧ heap.fieldRange good1 65532 4 = .ok heap ∧ heap.barAll (heap.refsOf 2 false (threads (heap.gmask g7))) = .ok (heap, good1) ∧
    heap.loadThreads .global 8 8 true (fieldEas good1 8) = .ok loaded ∧ loaded.1.barAll (loaded.2.map (fun x => ⟨x.1, n64 (leNat x.2), false⟩)) = .ok (loaded.1, (List.range 32).map (fun t => (t, 0))) ∧
    (∃ v, loaded.1.healSlots ((fieldEas good1 8).map (fun e => (e.t, e.ea, 0, 0))) = .ok v) ∧
    (∃ u, heapStore (hf (.v 2) (.v 1) 1 8) true 8 (fieldEas good1 8) (fun th => leBytes 8 (thrOf good1 th).toNat) heap = .ok u) ∧
    (∃ u, heapStore (hf (.v 2) (.s 10) 0 8) false 8 [⟨0, 0x10008⟩] (fun th => leBytes 8 (thrOf good1 th).toNat) heap = .ok u) := by and_intros <;> first | decide +kernel | exact can (by decide +kernel) | exact okIs (by decide +kernel) | exact ready1 (by decide +kernel)

/-- The managed page at 0x20000 and its page word. -/
def pinPage : Xlat := { xlat 0x20000 with mg := true, pw := 0x30000, leafBase := 0x20000 }
def pinWord : Xlat := pinPage.word
theorem wit_heapPinsTestsMoves : heap.CanIssue (.hpin (hf (.v 8) (.v 1) 0 2)) ∧ heap.rangeCheck (.v 8) 2 = .ok heap ∧ heap.barAll (heap.refsOf 1 false (threads (heap.gmask g7))) = .ok (heap, good1) ∧
    (∀ e ∈ good1, heap.pinOne 16 e.2 = .page pinWord 0x20000) ∧ (heapWith 4095).CanIssue (.hpin (hf (.v 8) (.v 1) 0 2)) ∧
    (let f : FmtM := ⟨g1, .i8, .rel, .dev, .v 0, .s 11, 0, 0⟩
     let one : State := (heapWith 5).modGroup 0 (fun g => g.setPred 1 (BitVec.allOnes 32) 4)
     one.CanIssue (.hunpin f) ∧ threads (one.gmask g1) = [2] ∧ one.prepAll (.hunpin f) [2] [baseSrc f true] = .ok (one, [.const 0x20000]) ∧ one.addressCheck .global [⟨2, 0x20000⟩] 1 false true = .ok one ∧
       one.cg.sideLog = [] ∧ one.cg.inflight 1 < 63 ∧ one.onManaged 0x20000 = .ok pinPage ∧ pinPage.mg = true ∧ one.wordStop 0x20000 pinPage true = none ∧ one.rd pinPage.pw 8 % 2 ^ 12 ≠ 0) ∧ threads (heap.gmask g1) = [] ∧
    heap.CanIssue (.htnull (hf (.v 0) (.v 1) 0 7)) ∧ heap.CanIssue (.hteq (hf (.v 1) (.v 2) 0 6)) ∧ heap.CanIssue (.hmovRef (hf (.v 15) (.v 1) 0 0)) ∧ heap.CanIssue (.hmovToRef (hf (.v 4) (.s 10) 0 1)) ∧
    heap.prepAll (.hmovToRef (hf (.v 4) (.s 10) 0 1)) (threads (heap.gmask g7)) [⟨1, .s 10, .n64⟩] = .ok (heap, [.const 0x10000]) ∧ heap.CanIssue (.hmovFromRef (hf (.v 8) (.v 1) 0 2)) ∧
    (∃ u, heap.writeDst (.v 8) true ((threads (heap.gmask g7)).map (fun th => (th, heap.cg.href 1 th))) = .ok u) :=
  ⟨can (by decide +kernel), okIs (by decide +kernel), okIs (by decide +kernel), by decide +kernel, can (by decide +kernel), ⟨can (by decide +kernel), by decide +kernel, okIs (by decide +kernel), okIs (by decide +kernel),
    by decide +kernel, by decide +kernel, okIs (by decide +kernel), by and_intros <;> decide +kernel⟩, by decide +kernel, can (by decide +kernel), can (by decide +kernel), can (by decide +kernel), can (by decide +kernel), okIs (by decide +kernel), can (by decide +kernel),
    ready1 (by decide +kernel)⟩

def reg3 : Region := { id := 3, config := 0, weights := [], apxb := 0x10000 }
def img3 : Image := { key := 0, text := 0, vgran := 1, mgran := 0, scrk := 0, acct := 0, ngrp := 1, roles := [], sparse := 0, mules := [], side := [], regions := [reg3] }
/-- Region 3 with a surrogate of 2 inputs and 1 output in this state. -/
def kite3 (st : KState) (scnt : Nat) (nin : Nat) : Kite := { die := 0, cluster := 0, ctx := 0, id := 3, state := st, scnt := scnt, config := BitVec.ofNat 128 (nin * 2 ^ 53), weights := [], code := 0, codeGpa := 0, codePa := 0 }
def kited (k : Kite) : State := { base with images := [img3], kites := [k] }
def opened (sampled record : Bool) (st : KState) : State := (kited (kite3 st 0 0)).modGroup 0 (fun g => { g with apx := some { region := 3, sampled := sampled, record := record, mask := BitVec.allOnes 32, inputs := [], joins := [] } })
/-- A surrogate that trains, while a recorded execution is open. -/
def learner : Kite := { kite3 .observe 0 0 with training := true }
def training : State := { opened false true .observe with kites := [learner] }
def apb : FmtP := ⟨g7, 12, .v 8, .v 20, .v 1, 3⟩
def ape : FmtP := ⟨g7, 0, .v 0, .v 20, .v 0, 3⟩
def apv (vd sa : Sel) : FmtV := ⟨g7, .i8, .rne, false, vd, sa, .v 0, .v 0, 0⟩

theorem wit_approximableRegions : base.CanIssue (.apxb apb) ∧ base.rangeCheck (.v 8) 2 = .ok base ∧ base.rangeCheck (.v 20) 1 = .ok base ∧ base.region? 3 = none ∧
    (∀ e ∈ [(KState.fallback, 0, 1), (.observe, 0, 1), (.serve, 0, 1), (.serve, 7, 1), (.serve, 0, 0)], (kited (kite3 e.1 e.2.1 e.2.2)).canIssueB (.apxb apb) = true ∧ (kited (kite3 e.1 e.2.1 e.2.2)).region? 3 = some reg3 ∧
      (kited (kite3 e.1 e.2.1 e.2.2)).kite? 3 = some (kite3 e.1 e.2.1 e.2.2)) ∧ (kite3 .serve 0 1).nin = 2 ∧ (kite3 .serve 0 1).nout = 1 ∧ (kite3 .serve 0 1).samplen - 1 = 0 ∧ (kite3 .serve 0 0).nin ≠ 2 ∧
    (kite3 .serve 0 1).isSaved = false ∧ (kite3 .serve 0 1).training = false ∧
    base.CanIssue (.apxe ape) ∧ base.cg.apx = none ∧ (∀ e ∈ [(false, false, KState.serve), (false, true, .observe), (true, true, .serve)], (opened e.1 e.2.1 e.2.2).canIssueB (.apxe ape) = true ∧
      (∃ a, (opened e.1 e.2.1 e.2.2).cg.apx = some a ∧ a.region = 3 ∧ a.record = e.2.1 ∧ a.sampled = e.1 ∧ ∀ j ∈ (opened e.1 e.2.1 e.2.2).cg.pendingIds, j ∈ a.joins) ∧
      (opened e.1 e.2.1 e.2.2).region? 3 = some reg3 ∧ (opened e.1 e.2.1 e.2.2).kite? 3 = some (kite3 e.2.2 0 0)) ∧ (training.canIssueB (.apxe ape) = true ∧ training.kite? 3 = some learner ∧ learner.training = true) ∧ (opened false false .serve).canIssueB (.apxe { ape with aux := 4 }) = true ∧
    (withS [(3, 15)]).CanIssue (.apxinv (apv (.v 0) (.s 3))) ∧ (withS [(3, 15)]).prepAll (.apxinv (apv (.v 0) (.s 3))) [0] [⟨1, .s 3, .n64⟩] = .ok (withS [(3, 15)], [.const 15]) ∧
    (withS [(3, 15)]).CanIssue (.apxstat (apv (.s 2) (.s 3))) ∧ (withS [(3, 15)]).region? 15 = none := by
  and_intros
  all_goals try first | decide +kernel | exact can (by decide +kernel) | exact okIs (by decide +kernel) | rfl
def entry1 (op : Nat) : LogEntry := { seq := 0, line := 512, bytes := [(3, 7)], op := op, ty := 0, scope := 0 }
/-- One group with something of every kind in flight. -/
def flying (g : Group → Group) : State := withG (fun h => g { h with flights := [{ path := 0, kind := .load }, { path := 1, kind := .store }, { path := 3, kind := .copy }] })

/-- A stream of four words, bound at an aligned base and at an odd one. -/
def wide (b : BitVec 57) : Stream := { bound := true, base := b, esize := 2, dims := [{ cnt := 4, stride := 4 }, {}, {}, {}] }
theorem ahead_all : ((List.range 32).map ((withG (fun g => { g with streams := [wide 0x10000, {}] })).aheadElem (theGroup (withG (fun g => { g with streams := [wide 0x10000, {}] })))
    ((wide 0x10000).after (wide 0x10000).ahead.length))).all Option.isSome = true := by decide +kernel
theorem ahead_none : none ∈ (List.range 32).map (base.aheadElem (theGroup base) ((wide 0x10001).after 0)) := by decide +kernel

theorem wit_groupEvents : base.group? 0 = some (theGroup base) ∧ (theGroup base).frag? 0 = some base.cf ∧ (theGroup base).tlevel ≤ base.cf.level ∧ base.cf.wait = .none ∧
    (theGroup (flying id)).flights.find? (fun x => x.path == 0) = some { path := 0, kind := .load } ∧ (theGroup (flying id)).flights.find? (fun x => x.path == 1) = some { path := 1, kind := .store } ∧
    (theGroup (flying id)).flights.find? (fun x => x.path == 3) = some { path := 3, kind := .copy } ∧ (theGroup (flying id)).matrix = [] ∧
    (theGroup (withG (fun g => { g with matrix := [{ poison := some 5 }, { assist := some [(0, 1)] }] }))).matrix.find? (fun m => m.assist.isSome) = some { assist := some [(0, 1)] } ∧
    (∀ op ∈ [0, 1], (theGroup (withG (fun g => { g with sideLog := [entry1 op] }))).sideLog = [entry1 op]) ∧ (entry1 0).tag = none ∧
    base.fate (base.wg 0).who ((entry1 0).line.toNat * 128) true = .ok (xlat 0x10000) ∧ (xlat 0x10000).mg = false ∧ base.snoopBusy 0x10000 128 true = false ∧ (xlat 0x10000).dirty = none ∧ SMap.wf 0 base.mem = true ∧
    (let f : Frag := { base.cf with wait := .serve 3 [(640, 9)] 0x10040 }
     (theGroup (withG (fun g => { g with frags := [f] }))).frags.find? Frag.served = some f) ∧
    (let x : Stream := wide 0x10000
     let s : State := withG (fun g => { g with streams := [x, {}] })
     (∀ e ∈ (List.range 32).map (s.aheadElem (theGroup s) (x.after x.ahead.length)), e.isSome = true) ∧ 0 < (theGroup s).streams.length ∧ x.bound = true ∧ x.dir = false) ∧
    (let x : Stream := wide 0x10001
     ∃ e ∈ (List.range 32).map (base.aheadElem (theGroup base) (x.after 0)), e = none) := by
  and_intros
  all_goals first | exact List.all_eq_true.mp ahead_all | exact ⟨none, ahead_none, rfl⟩ | decide +kernel

/-- A command of the workgroup, on no object. -/
def cmd1 (k : CmdKind) (dst : Where) (todo : List (Nat × Nat)) : Cmd :=
  { id := 7, gid := 0, wid := 0, ctx := 0, kind := k, src := .glob 0x10000, dst := dst, spitch := 16, dpitch := 16, rows := 2, rbytes := 16, todo := todo, registered := true }
def engine (c : Cmd) : State := { base with cmds := [c] }
def reads : State × List (Byte × Bool) := match base.engRead (base.ctxWho 0) 0 (.glob 0x10010) 8 with
  | .ok a => a
  | .error _ => (base, [])
def fills256 : State × List (Byte × Bool) := match base.engRead (base.ctxWho 0) 0 (.glob 0x10000) 256 with
  | .ok a => a
  | .error _ => (base, [])

theorem wit_commandLandings : (engine { cmd1 .copy (.win 0x1000) [(0, 32)] with registered := false }).cmd? 7 = some { cmd1 .copy (.win 0x1000) [(0, 32)] with registered := false } ∧
    (∃ t, (engine { cmd1 .copy (.win 0x1000) [(0, 32)] with registered := false }).registerObj (base.ctxWho 0) 0 none = .ok t) ∧ 16 % (16 : Nat) + 8 ≤ 16 ∧ 8 ≤ rangeRest [(0, 32)] 16 ∧
    base.engRead (base.ctxWho 0) 0 (.glob 0x10010) 8 = .ok reads ∧ (∃ v, reads.1.engCheck (base.ctxWho 0) 0 (.win 0x1010) 8 = .ok v) ∧ (∃ w, reads.1.objReach (base.ctxWho 0) 0 none = .ok w) ∧
    (∃ t, (engine { cmd1 .chain (.win 0x1000) [(0, 8)] with chain := [n64 (9 * 2 ^ 60 + 10 * 2 ^ 56), 0, 0, 0, 0, 0] }).landChain { cmd1 .chain (.win 0x1000) [(0, 8)] with chain := [n64 (9 * 2 ^ 60 + 10 * 2 ^ 56), 0, 0, 0, 0, 0] } = .ok t) ∧
    base.engRead (base.ctxWho 0) 0 (.glob 0x10000) 256 = .ok fills256 ∧ (∀ b ∈ fills256.2, b.2 = false) ∧ (theGroup base).spq.length < 16 ∧
    ((engine (cmd1 .fill (.win 0) [(0, 1)])).cmds.find? (fun d => d.kind == .fill && d.gid == 0)).map (·.id) = some 7 :=
  ⟨by decide +kernel, ready1 (by decide +kernel), by decide +kernel, by decide +kernel, okIs (by decide +kernel), ready1 (by decide +kernel), ready1 (by decide +kernel), ready1 (by decide +kernel),
    okIs (by decide +kernel), fun b hb => by simpa using List.all_eq_true.mp (by decide +kernel : fills256.2.all (fun b => !b.2) = true) b hb, by decide +kernel, by decide +kernel⟩

/-- Subscription 0 with objects of this phase on its slots. -/
def streamer (outbound : Bool) (full empty : Nat) : State :=
  base.modWg 0 (fun w => (({ w with subs := [{ oneSub with outbound := outbound, tcount := 2 }] }).setWinN 0x2000 (leBytes 16 full)).setWinN 0x2010 (leBytes 16 empty))
def objOf (s : State) (o : Nat) : Nat := match s.objRead (s.ctxWho 0) 0 (.win o) with
  | .ok x => x
  | .error _ => 0

theorem wit_streamers : (∀ e ∈ [(false, 0, 0), (false, 0, 1), (true, 1, 0), (true, 0, 0)], let s := streamer e.1 e.2.1 e.2.2
      s.sub? 0 0 = some { oneSub with outbound := e.1, tcount := 2 } ∧ (s.wg 0).ending = false ∧ (s.wg 0).stopping = false ∧ objOf s 0x2000 = e.2.1 ∧ objOf s 0x2010 = e.2.2) ∧
    (∀ e ∈ [(false, 0, 0), (true, 1, 0)], let s := streamer e.1 e.2.1 e.2.2
      let b : Sub := { oneSub with outbound := e.1, tcount := 2 }
      ((s.objReach (s.ctxWho 0) 0 (some b.full)).bind fun t => if t = s then .ok t else .error (.wait t)).isOk = true ∧
      ((s.objReach (s.ctxWho 0) 0 (some b.empty)).bind fun t => if t = s then .ok t else .error (.wait t)).isOk = true) ∧
    (∃ t, (streamer false 0 0).tileCopy ((streamer false 0 0).ctxWho 0) 0 { oneSub with tcount := 2 } oneSub.memRow oneSub.winRow = .ok t) ∧
    (∃ t, (streamer true 1 0).tileCopy ((streamer true 1 0).ctxWho 0) 0 { oneSub with outbound := true, tcount := 2 } oneSub.winRow oneSub.memRow = .ok t) :=
  ⟨by decide +kernel, by decide +kernel, ready1 (by decide +kernel), ready1 (by decide +kernel)⟩

/-- A relocation command of the table at 0x10000 over a page that is moving, its only entry in this STATE. -/
def relocs (state : Nat) (c : Cmd → Cmd) : State := { moved state with cmds := [c { cmd1 .reloc (.glob 0x10000) [] with table := 0x10000 }] }
def relocCmd (s : State) : Cmd := (s.cmd? 7).getD (cmd1 .reloc (.win 0) [])

theorem wit_relocations : (∀ st ∈ [1, 2, 3], ∃ p, (relocs st id).engFwd ((relocs st id).ctxWho 0) 0x10000 = .ok p) ∧
    (∃ v x t, (relocs 1 id).engFwd ((relocs 1 id).ctxWho 0) 0x10010 = .ok (v, x) ∧ x % 4 = 1 ∧ v.claimFwd ((relocs 1 id).ctxWho 0) 0x10010 3 = .ok t ∧ v.claimBusy ((relocs 1 id).ctxWho 0) 0x10010 = none) ∧
    (∃ v x, (relocs 3 id).engFwd ((relocs 3 id).ctxWho 0) 0x10010 = .ok (v, x) ∧ x % 4 ≠ 1) ∧ (∃ t, (relocs 2 id).copyObject ((relocs 2 id).ctxWho 0) 0x10000 0 = .ok t) ∧
    (let done : State := (relocs 3 id).wrN 0x10000 (leBytes 16 (0x20000 * 2 ^ 71 + 2 ^ 32 + 1))
     ∃ v x t, done.engFwd (done.ctxWho 0) 0x10000 = .ok (v, x) ∧ x / 2 ^ 32 % 2 ^ 32 = x % 2 ^ 32 ∧ v.objReach (done.ctxWho 0) 0 none = .ok t) :=
  ⟨fun st h => ready1 (by revert st; decide +kernel), ⟨(relocs 1 id).noteFwd ((relocs 1 id).ctxWho 0) 0x10010, 0x20100 * 2 ^ 71 + 2 * 2 ^ 28 + 1, (match ((relocs 1 id).noteFwd ((relocs 1 id).ctxWho 0) 0x10010).claimFwd ((relocs 1 id).ctxWho 0) 0x10010 3 with
    | .ok t => t
    | .error _ => base), okIs (by decide +kernel), by decide +kernel, okIs (by decide +kernel), by decide +kernel⟩, ⟨(relocs 3 id).noteFwd ((relocs 3 id).ctxWho 0) 0x10010, 0x20100 * 2 ^ 71 + 2 * 2 ^ 28 + 3, okIs (by decide +kernel), by decide +kernel⟩, ready1 (by decide +kernel),
    ⟨((relocs 3 id).wrN 0x10000 (leBytes 16 (0x20000 * 2 ^ 71 + 2 ^ 32 + 1))).noteFwd (base.ctxWho 0) 0x10000, 0x20000 * 2 ^ 71 + 2 ^ 32 + 1, _, okIs (by decide +kernel), by decide +kernel, rfl⟩⟩

/-- A CB7-L with one extent over its first GiB, in this state, coherent or not; these agents hold the line at 0x1000 shared. -/
def extent (state : Nat) (sharers : List Nat) (coh : Nat := 2 ^ 47) : State :=
  { (base.setBar physFn 0x150 0x60000).wr 0x60000 8 (state * 2 ^ 50 + coh) with fitting := .l, snoop := [{ line := 64, sharers := sharers }] }
def cxl (write exclusive : Bool) : CxlReq := { agent := 3, pa := 0x1000, write := write, exclusive := exclusive, data := List.replicate 64 1 }
def peer (write : Bool) (op : Nat) (world : BitVec 8) : PeerReq := { peer := 3, world := world, prot := true, off := 0x1000, len := 8, write := write, op := op, ty := .n64, data := leBytes 8 1, cmp := 0 }
/-- An entry of line 5 with these acknowledgements to come, recalled at time 0. -/
def recalled (acks : List Nat) : State := { base with dir := [{ line := 5, acks := acks, requester := some 3, recallAt := some 0 }], clock := 2 ^ 20 }
/-- The filter's entry of 64-byte line 5 is recalled, and these agents have not answered. -/
def recalledFrom (agents : List Nat) : State := { base with fitting := .l, snoop := [{ line := 5, awaited := agents, recallAt := some 0 }] }
/-- Agent 3 holds 64-byte line 5 modified, and line 5 of another device is held modified here. -/
def holding : State := { base with fitting := .l, snoop := [{ line := 5, owner := some 3 }], remote := [(5, some true)], asked := [(5, 0)] }

theorem wit_coherenceExpansion : (1 ∈ ((recalled [1, 2]).dirEntry 5).acks ∧ ((recalled []).dirEntry 5).acks = [] ∧ ((recalled [1]).dirEntry 5).acks ≠ [] ∧ ((recalled [1]).dirEntry 5).recallAt = some 0 ∧
      (recalled []).late = [] ∧ 2 ^ 20 ≤ ((recalled []).clock - 0).toNat) ∧
    (((recalledFrom []).snoopEntry 5).recallAt = some 0 ∧ ((recalledFrom []).snoopEntry 5).awaited = [] ∧ (recalledFrom []).late = [] ∧
      ((recalledFrom [2]).snoopEntry 5).recallAt = some 0 ∧ ((recalledFrom [2]).snoopEntry 5).awaited ≠ []) ∧
    (holding.askedFor 5 = true ∧ holding.late = [] ∧ holding.boot.fatal = none ∧ (∀ b, b < 64 → holding.byteRule (64 * 5 + b) = (0, 0)) ∧ holding.fitting = .l ∧ SMap.wf [] holding.modified = true ∧ SMap.wf none holding.remote = true ∧ SMap.get none holding.remote (10 / 2) = some true ∧
      (holding.snoopEntry 5).owner = some 3 ∧ SMap.wf 0 holding.mem = true) ∧
    (∀ r ∈ [cxl false false, cxl true false], r.pa < (extent 0 []).capacity ∧ (extent 0 []).extentAt r.pa = none ∧ (extent 2 [] 0).extentAt r.pa = some 0x60000 ∧ (extent 2 [] 0).extentCoh 0x60000 = false ∧
      (extent 3 []).extentAt r.pa = some 0x60000 ∧ (extent 3 []).extentState 0x60000 = 3 ∧ (extent 2 []).extentAt r.pa = some 0x60000 ∧ (extent 2 []).extentState 0x60000 = 2 ∧ (extent 2 []).extentCoh 0x60000 = true) ∧
    (∀ r ∈ [cxl false false, cxl false true, cxl true false, { cxl false false with uncached := true }, { cxl false false with agent := 16 }], (extent 2 []).cxlWaits r = false) ∧
    ((extent 2 [4]).cxlWaits (cxl false true) = true ∧ (extent 2 [4]).extentAt 0x1000 = some 0x60000 ∧ (extent 2 [4]).extentState 0x60000 = 2 ∧ (extent 2 [4]).extentCoh 0x60000 = true) ∧
    (let p := base.pageWorld physFn 0x1000
     base.cerlink = true ∧ 0x1000 + 8 ≤ base.capacity ∧ base.poisoned 0x1000 8 = false ∧ ¬(p.1 ≠ 0 ∧ p.2 = false) ∧ (p.1 ≠ 1 ∧ p.2 = false) ∧ base.worldProtected p.1 = false ∧ (peer true 0 1).write = true ∧
     (peer true 0 1).prot = true ∧ (AtomOp.ofCode 1).new .n64 (base.rd 0x1000 8) 1 0 = some 1) :=
  by and_intros <;> decide +kernel

theorem errIs {ε α : Type} [DecidableEq ε] {x : Except ε α} {e : ε} (h : (match x with
    | .ok _ => false
    | .error f => decide (f = e)) = true) : x = .error e := by
  cases x with
  | ok a => cases h
  | error f => simp at h; rw [h]

/-! ### Hypotheses of the statements about the device -/

/-- Doublewords of memory, their addresses rising, where nothing was listed. -/
def wrs (s : State) (l : List (Nat × Nat)) : State :=
  { s with mem := s.mem ++ (l.map (fun e => ((leBytes 8 e.2).zipIdx.filter (fun b => b.1 != 0)).map (fun b => (e.1 + b.2, b.1)))).flatten }

/-- A remote range table with one valid entry, of two pages at 0x10000. -/
def ranged : State := { base.setBar physFn 0x130 0x9000 with mem := [(0x9000, 1), (0x9002, 1), (0x900C, 2)], ctxs := [{ num := 5, rcb := 0x1000 }] }

theorem ranged_rd {e : Nat} (h : 0x9010 ≤ e) : ranged.rd e 8 = 0 := by
  have z : ∀ i, ranged.rd8 (e + i) = 0 := fun i => by
    show SMap.get 0 [(0x9000, (1 : Byte)), (0x9002, 1), (0x900C, 2)] (e + i) = 0
    simp only [SMap.get]
    rw [if_neg (by omega), if_neg (by omega), if_neg (by omega)]
  have l : ranged.rdN e 8 = List.replicate 8 0 := by
    unfold State.rdN
    simp only [z]
    rfl
  unfold State.rd
  rw [l]
  rfl

def cell (fn i : Nat) : Option (Nat × Nat × Nat × Nat) :=
  if bitN (ranged.rd (ranged.rrt fn i) 8) 0 then some (fn, ranged.rrt fn i, fld (ranged.rd (ranged.rrt fn i) 8) 16 36 * 2 ^ 16, fld (ranged.rd (ranged.rrt fn i + 8) 8) 32 32 * 2 ^ 16) else none

theorem cell_none {fn i : Nat} (h : fn ≠ 0 ∨ i ≠ 0) : cell fn i = none := by
  have b : (ranged.barReg physFn 0x130).toNat = 0x9000 := by decide +kernel
  unfold cell State.rrt
  rw [b, ranged_rd (by omega)]
  rfl

theorem ranged_ranges : ranged.ranges = [(0, 0x9000, 0x10000, 0x20000)] := by
  show ((List.range (64 + 1)).map (fun fn => (List.range (63 + 1)).filterMap (cell fn))).flatten = _
  have rest : (List.map (fun fn => (List.range (63 + 1)).filterMap (cell fn)) (List.map Nat.succ (List.range 64))).flatten = [] :=
    List.flatten_eq_nil_iff.mpr fun l h => by
      obtain ⟨fn, hf, rfl⟩ := List.mem_map.mp h
      obtain ⟨k, _, rfl⟩ := List.mem_map.mp hf
      exact List.filterMap_eq_nil_iff.mpr fun i _ => cell_none (.inl (Nat.succ_ne_zero k))
  have row : (List.map Nat.succ (List.range 63)).filterMap (cell 0) = [] := List.filterMap_eq_nil_iff.mpr fun i h => by
    obtain ⟨k, _, rfl⟩ := List.mem_map.mp h
    exact cell_none (.inr (Nat.succ_ne_zero k))
  rw [List.range_succ_eq_map (n := 64), List.map_cons, List.flatten_cons, rest, List.append_nil, List.range_succ_eq_map]
  rw [List.filterMap_cons, row, show cell 0 0 = some (0, 0x9000, 0x10000, 0x20000) from by decide +kernel]

theorem wit_errorsLosses : ranged.fitting = .h ∧ ({ base with fitting := .l } : State).fitting = .l ∧
    ranged.ranges.filter (fun r => decide (r.2.2.1 < 0x10000 + 1 * 65536) && decide (0x10000 < r.2.2.1 + r.2.2.2)) = [(0, 0x9000, 0x10000, 0x20000)] ∧
    (∀ i, i < 64 → base.rd (base.rrt (base.ctxFn ((5 : Word64).toNat % 2 ^ 16)) i + 8) 8 / 2 ^ 16 % 2 = 0) ∧ (3 : Nat) < 4 :=
  ⟨rfl, rfl, by rw [ranged_ranges]; rfl, by decide +kernel, by decide⟩

/-- Page 1 is of a domain that holds cluster 1 alone; the group stands on cluster 0. -/
def divided : State := { mem with domains := [⟨[1], [7], [(1, 1)]⟩] }
theorem wit_coherenceDomains : (match divided.translate divided.cw.who.fn divided.cw.who.ctx 0x10000 .read with
    | .ok x => divided.rejects divided.cw.who x && paTarget x.pa == 0 && divided.fateAt divided.cw.who x 0x10000 false == .reject && x.pa == 0x10000
    | .error _ => false) = true := by decide +kernel

/-- Context 5 of function 0 with its RCB at 0x1000, one launch queue of 4 commands whose HEAD and TAIL are these and whose first command
this, a code table, and a launch of two workgroups at 0x4000. -/
def devWith (head tail cmd rcb state gang : Nat) (rest : List (Nat × Nat)) : State :=
  wrs { base with ctxs := [{ num := 5, rcb := 0x1000 }], images := [{ img3 with key := 0x8880, scrk := 1 }] }
    ([(0x1000, 2 ^ 60 + 63 * 2 ^ 42), (0x1010, 100 * 2 ^ 48 + 1000 * 2 ^ 28 + 100 * 2 ^ 10), (0x1018, 500 * 2 ^ 40), (0x1048, 0x5000), (0x1070, 0x2000),
     (0x2000, 0x3000), (0x2008, 2 * 2 ^ 44), (0x2010, head * 2 ^ 32 + tail), (0x3000, cmd), (0x3008, rcb),
     (0x4000, 3 * 2 ^ 60 + state * 2 ^ 56 + (if state = 0 then 0 else 2 ^ 53) + (if gang = 0 then 0 else 2 ^ 47)), (0x4008, 0x1000), (0x4020, gang * 2 ^ 35), (0x4040, 0x10000), (0x4048, 0x8880), (0x4058, 2 * 2 ^ 32),
     (0x5000, 0x10000), (0x5008, 0x10000)] ++ rest)
def dev (head tail cmd rcb : Nat) : State := devWith head tail cmd rcb 0 0 []

theorem wit_launchQueues : (dev 0 0 0 0).running = true ∧ base.ctx? 5 = none ∧ ((dev 0 0 0 0).ctx? 5).isSome = true ∧ (dev 0 0 0 0).ctxFn 5 = 0 ∧ 0 < (dev 0 0 0 0).nlq 5 ∧ (dev 0 0 0 0).nlq 5 ≤ 1 ∧
    ((dev 0 0 0 0).lq 5 0).qerr = 0 ∧ ((dev 0 0 0 0).wr 0x2018 1 2 |> fun s => (s.lq 5 0).qerr ≠ 0) ∧ (5, 0) ∉ (dev 0 0 0 0).stopped ∧ ((dev 0 2 0 0).lq 5 0).tail = 2 ∧ ((dev 0 2 0 0).lq 5 0).head = 0 ∧
    ((dev 0 2 0 0).lq 5 0).logn = 2 ∧ (dev 0 1 (2 ^ 56) 0x4000).command 5 0 = some (2 ^ 56, 0x4000) ∧ (dev 0 1 (2 ^ 56) 0x6000).command 5 0 = some (2 ^ 56, 0x6000) ∧
    commandOp (2 ^ 56) 0x4000 = some 1 ∧ (dev 0 1 (2 ^ 56) 0x4000).launchFail 5 0x4000 = 0 ∧ (dev 0 1 (2 ^ 56) 0x6000).launchFail 5 0x6000 = 1 ∧ (dev 0 1 (2 ^ 56) 0x4000).orders = [] ∧
    (dev 0 1 (2 ^ 56) 0x4000).rcbD 0x4000 11 / 2 ^ 8 % 2 ^ 8 = 0 ∧ SMap.wf 0 (dev 0 1 (2 ^ 56) 0x4000).mem = true ∧ (dev 0 1 (2 * 2 ^ 56) 0).command 5 0 = some (2 * 2 ^ 56, 0) ∧ commandOp (2 * 2 ^ 56) 0 = some 2 ∧
    commandOp (3 * 2 ^ 56 + 255) 0 = some 3 ∧ (dev 0 1 (3 * 2 ^ 56 + 255) 0).command 5 0 = some (3 * 2 ^ 56 + 255, 0) ∧ (dev 0 1 (4 * 2 ^ 56) 0).command 5 0 = some (4 * 2 ^ 56, 0) ∧ commandOp (4 * 2 ^ 56) 0 = none ∧
    base.group? (theGroup base).gid = some (theGroup base) ∧ (base.wg (theGroup base).wid).priv = true :=
  by and_intros <;> decide +kernel

/-- The launch at 0x4000 is a candidate; with `gang` it starts by twos. -/
def candidate (gang : Nat) : State :=
  let s := devWith 0 0 0 0 1 gang []
  { s.newWork 5 0x4000 with candidates := [0x4000], wgs := [], groups := [] }
def places2 : List Place := [⟨0, 0, 0, 0⟩, ⟨0, 0, 1, 0⟩]
def work1 (s : State) : Work := (s.workOf 0x4000).getD ⟨0, 0, [], 0, 0, 0, 0⟩
def huge : State := { candidate 0 with images := [{ img3 with key := 0x8880, vgran := 12, ngrp := 32, mgran := 32 }] }
def stopping (busy : Bool) : State :=
  { (withG (fun g => { g with frags := [{ fid := 0, mask := BitVec.allOnes 32, hdr := 0x10000, wait := .counter }], flights := if busy then [{ path := 0, kind := .load }] else [] })).modWg 0 (fun w => { w with stopping := true, winSize := 16 }) with
    bar := [(0x20, 0x80000), (0x28, 0x100000)] }
def savedOne (sealed : Bool) : Saved := { id := 9, fn := 0, addr := 0x80000, written := [1], isSealed := sealed, ver := 1, wg := { blankWg with wid := 1, rcb := 0x4000, ctx := 5, ngrp := 1, winSize := 1024 }, groups := [{ gid := 2, wid := 1, gidx := 0, vside := 1 }] }

theorem wit_placement : base.running = true ∧ 4096 ≤ (({ base with clock := 4096 } : State).clock - base.lastEpoch).toNat ∧ (base.clock - base.lastEpoch).toNat < 4096 ∧
    (candidate 2).workOf 0x4000 = some (work1 (candidate 2)) ∧ (candidate 2).turn (work1 (candidate 2)) = true ∧ (candidate 2).nextWg 0x4000 < (candidate 2).nwg 0x4000 ∧ (candidate 2).neverFail (work1 (candidate 2)) = none ∧
    ((candidate 2).tryStart (work1 (candidate 2)) places2).isSome = true ∧ huge.workOf 0x4000 = some (work1 huge) ∧ huge.turn (work1 huge) = true ∧ huge.nextWg 0x4000 < huge.nwg 0x4000 ∧ huge.neverFail (work1 huge) = some 2 ∧
    (∃ w, (stopping false).wg? w.wid = some w ∧ w.gangSize < 2 ∧ w.stopping = true ∧ (stopping false).drained w.wid = true ∧ (stopping false).poolFits w = true ∧ (stopping false).sealable w = true) ∧
    (stopping false).running = true ∧ (stopping true).drained 0 = false ∧
    (let s : State := { candidate 0 with saved := [savedOne false] }
     s.saved.find? (fun j => j.id == 9) = some (savedOne false) ∧ s.workOf 0x4000 = some (work1 s) ∧ s.turn (work1 s) = true ∧ (∀ j ∈ s.savedUnit (savedOne false), s.unsealOk j = true) ∧
     (s.tryRestore (savedOne false) [⟨0, 0, 0, 0⟩]).isSome = true) ∧
    (let s : State := { candidate 0 with saved := [savedOne true] }
     s.turn (work1 s) = true ∧ ∃ j ∈ s.savedUnit (savedOne true), s.unsealOk j = false) := by
  and_intros
  all_goals try first | decide +kernel
  · exact ⟨(stopping false).wg 0, by decide +kernel⟩

theorem rdN_blank {s : State} {a n : Nat} (h : s.mem.all (fun e => decide (e.1 < a) || decide (a + n ≤ e.1)) = true) : s.rdN a n = List.replicate n 0 := by
  have z : ∀ m : SMap Byte, m.all (fun e => decide (e.1 < a) || decide (a + n ≤ e.1)) = true → ∀ i, i < n → SMap.get 0 m (a + i) = 0 := fun m => by
    induction m with
    | nil => exact fun _ _ _ => rfl
    | cons e m ih =>
      intro h i hi
      simp only [List.all_cons, Bool.and_eq_true, Bool.or_eq_true, decide_eq_true_eq] at h
      simp only [SMap.get]
      rw [if_neg (by omega)]
      exact ih h.2 i hi
  refine List.ext_getElem (by simp [State.rdN]) fun i h1 _ => ?_
  simp only [State.rdN, List.length_map, List.length_range] at h1
  simpa [State.rdN, State.rd8] using z s.mem h i h1

theorem writeRange_blank {m : SMap Byte} {a n : Nat} (h : m.all (fun e => decide (e.1 < a)) = true) : writeRange m a (List.replicate n 0) = m := by
  have z : (((List.replicate n (0 : Byte)).zipIdx a).filter (fun e => e.1 ≠ 0)) = [] := List.filter_eq_nil_iff.mpr fun e he => by
    have := (List.mem_replicate.mp (List.fst_mem_of_mem_zipIdx he)).2
    simp [this]
  simp only [List.all_eq_true, decide_eq_true_eq] at h
  unfold writeRange
  rw [z, List.filter_eq_self.mpr (by simpa using h), List.filter_eq_nil_iff.mpr (fun e he => by have := h e he; simp; omega)]
  simp

/-- A device without stage 2, caches, poison or surrogates copies a page of zeros over a page that lies above all of memory's bytes. -/
theorem pageCopy_blank {s : State} {fn ctx src dst : Nat} (h : (s.rd (s.machBlock (s.machOf fn)) 8 % 2, s.snoop, s.poison, s.kites) = (0, [], [], []))
    (c : (s.modified, s.remote, s.l1, s.l2, s.dir) = ([], [], [], [], [])) (hs : s.mem.all (fun e => decide (e.1 < src) || decide (src + 65536 ≤ e.1)) = true)
    (hd : s.mem.all (fun e => decide (e.1 < dst)) = true) : s.pageCopy fn ctx src dst = .ok s := by
  simp only [Prod.mk.injEq] at h c
  have z (a : Acc) (g : Nat) : s.stage2 (s.machOf fn) g a = .ok ⟨g, true, true, false, 2 ^ 30, 2, none⟩ := by
    unfold State.stage2
    simp [bitN, h.1]
  have b (g : Nat) (w : Bool) : s.snoopBusy g 65536 w = false := by
    simp [State.snoopBusy, State.snoopEntry, h.2.1, SnoopEntry.blocks, SnoopEntry.mustInvalidate]
  have x (a : Acc) (g : Nat) : s.gpaXlat fn g a = .ok { pa := g, gpa := g, w := true, x := true, sh := false, mg := false, pw := 0, leafBase := g / 2 ^ 30 * 2 ^ 30, leafSize := 2 ^ 30, dirty := none } := by
    simp [State.gpaXlat, z]
  have e : ({ (s.uncacheRange (dst / 128) ((List.replicate 65536 (0 : Byte)).length / 128)).wrBig dst (List.replicate 65536 0) with
      poison := s.poison.filter (fun k => !(dst / 128 ≤ k && k < (dst + (List.replicate 65536 (0 : Byte)).length) / 128)) } : State) = s := by
    rw [State.wrBig, State.uncacheRange]
    simp only [c, h, writeRange_blank hd, staleKites, List.filter_nil, List.map_nil]
    cases s
    simp_all only
  have p (i : Nat) : s.poisonedLine i = false := by rw [State.poisonedLine, h.2.2.1]; rfl
  have q : (List.range 512).filter (fun _ => false) = [] := List.filter_eq_nil_iff.mpr (by simp)
  unfold State.pageCopy State.serviceReady
  simp only [x, b, State.logDirty, State.pageWrite, z, p, rdN_blank hs, Except.bind, Except.map, Bool.false_eq_true, if_false]
  rw [e, q, List.foldl_nil]
/-- Context 5's page table maps 0x50000 to 0x70000; its ring holds this request; the pool holds a page or none, and the quota is this. -/
def paged (op npg va hgen quota pool : Nat) : State :=
  (((devWith 0 0 0 0 0 0 [(0x8000, 0xB000), (0x8008, quota * 2 ^ 32), (0x8018, 0xC000), (0xB0A0, 0x100001), (0xB0B0, 0xD000 + 4 * 2 ^ 60), (0xB0B8, 1), (0xC000, pool), (0xC008, 0x900000), (0xD000, op * 2 ^ 56 + npg * 2 ^ 40 + 1), (0xD008, va), (0xD010, 0x50000), (0xD018, hgen), (0x100000, 0x101001), (0x101000, 0x102001), (0x102000, 0x103001), (0x103000, 0x104001),
     (0x104028, 0x7000F)]).setBar physFn 0x100 0x8000).setBar physFn 0x108 0xA000)
def req (op npg va hgen : Nat) : PageReq := ⟨0xD000, op, npg, va, 0x50000, hgen⟩
def rec1 : FaultRec := { fn := 0, tag := 4, owner := 0, ctx := 5, va := 0x50000, acc := .read, kind := 1, stage := 1, level := 0, gpa := 0, isPosted := true }
def faulted : State := { (paged 1 1 0x60000 0 4 1).modGroup 0 (fun g => { g with frags := [{ fid := 0, mask := 1, hdr := 0, wait := .fault 0 4 0x50000 (some 0) }] }) with faults := [rec1] }
/-- A promotion of 0x50000 whose leaf is now this, asked for at this generation. -/
def promoting (now hgen : Nat) : State :=
  { (paged 2 1 0x50000 hgen 4 1).wr 0x104028 8 now with ctxs := [{ num := 5, rcb := 0x1000, promote := some ⟨0x50000, 0x900000, 0x104028, 0x104028, 0x7000F⟩ }] }
def ctx5 (s : State) : Ctx := (s.ctx? 5).getD { num := 0, rcb := 0 }

theorem wit_faults : (∃ x, (paged 0 0 0 0 0 0).walkBoth 0 5 0x50008 .write = .ok x ∧ x.pa % 65536 = 8 ∧ x.gpa % 65536 = 8 ∧ x.w = true) ∧ (∃ x, (paged 0 0 0 0 0 0).walkBoth 0 5 0x60000 .read = .error x) ∧
    faulted.answered 0 4 = some rec1 ∧ faulted.worldFails rec1 = false ∧
    (let s : State := { faulted with ctxs := [{ num := 5, rcb := 0x1000 }, { num := 6, rcb := 0x7000 }] }
     let t := wrs (s.setBar physFn 0x128 0x600000) [(0x7020, 3 * 2 ^ 44), (0x7040, 4), (0x60000E, 3)]
     t.worldFails rec1 = true ∧ t.answered 0 4 = some rec1) ∧
    (∃ g f, g ∈ faulted.groups ∧ f ∈ g.frags ∧ f.wait = .fault 0 4 0x50000 (some 0)) ∧ ({ base with invPending := [(0, n64 (5 * 2 ^ 48), 0x50000)] } : State).invPending.find? (fun e => e.1 == 0) = some (0, n64 (5 * 2 ^ 48), 0x50000) ∧
    SMap.wf 0 base.invDone = true ∧ base.faults = [] :=
  ⟨⟨{ pa := 0x70008, gpa := 0x70008, w := true, x := true, sh := false, mg := false, pw := 0, leafBase := 0x50000, leafSize := 0x10000 }, okIs (by decide +kernel), by decide +kernel⟩,
    ⟨⟨1, 1, 0, 0x104030, .read, false⟩, errIs (by decide +kernel)⟩, by decide +kernel, by decide +kernel, by decide +kernel, ⟨theGroup faulted, _, by decide +kernel, by exact List.mem_cons_self, rfl⟩, by and_intros <;> decide +kernel⟩

theorem wit_appends : (let s := paged 1 1 0x60000 0 4 1
     s.prqHead 5 = some (req 1 1 0x60000 0) ∧ s.ctx? 5 = some (ctx5 s) ∧ (ctx5 s).held = none ∧ (req 1 1 0x60000 0).ok = true ∧ s.leafSlot 0 5 0x60000 = .ok (some (0x104030, 0x104030)) ∧ s.rd 0x104030 8 % 2 = 0 ∧
       s.pageStatus 0 1 = none ∧ s.serviceReady 0 5 0x104030 8 = .ok s ∧ s.poolTop 0 1 = [0x900000] ∧ s.serviceReady 0 5 0x900000 65536 = .ok s) ∧
    ((paged 1 1 0x60000 0 0 1).quota 0 < (paged 1 1 0x60000 0 0 1).usedPages 0 + 1 ∧ (paged 1 1 0x60000 0 1 0).usedPages 0 + 1 ≤ (paged 1 1 0x60000 0 1 0).quota 0 ∧ (paged 1 1 0x60000 0 1 0).poolCount 0 < 1) ∧
    (paged 3 1 0 0 1 0).prqHead 5 = some (req 3 1 0 0) ∧ (paged 1 0 0 0 1 0).prqHead 5 = some (req 1 0 0 0) ∧ (req 1 0 0 0).ok = false :=
  by and_intros <;> first | decide +kernel | exact okIs (by decide +kernel)

theorem wit_promotions : (let s := paged 2 1 0x50000 0 4 1
     s.prqHead 5 = some (req 2 1 0x50000 0) ∧ s.ctx? 5 = some (ctx5 s) ∧ (ctx5 s).held = none ∧ (ctx5 s).promote = none ∧ s.leafSlot 0 5 0x50000 = .ok (some (0x104028, 0x104028)) ∧ malformed 0x7000F 0 true = false ∧
       s.hintGen 5 (req 2 1 0x50000 0) = .ok 0 ∧ s.pageStatus 0 1 = none ∧ s.serviceReady 0 5 0x104028 8 = .ok s) ∧
    ((paged 2 1 (2 ^ 50) 0 4 1).prqHead 5 = some (req 2 1 (2 ^ 50) 0) ∧ (paged 2 1 (2 ^ 50) 0 4 1).leafSlot 0 5 (2 ^ 50) = .ok none) ∧ (paged 2 1 0x50000 7 4 1).hintGen 5 (req 2 1 0x50000 7) = .ok 0 ∧
    (paged 2 2 0x50000 0 4 1).prqHead 5 = some (req 2 2 0x50000 0) ∧
    (∀ e ∈ [(0x7000B, 0), (0x8000F, 0), (0x7000B, 7)], let s := promoting e.1 e.2
     s.prqHead 5 = some (req 2 1 0x50000 e.2) ∧ s.ctx? 5 = some (ctx5 s) ∧ (ctx5 s).held = none ∧ (ctx5 s).promote = some ⟨0x50000, 0x900000, 0x104028, 0x104028, 0x7000F⟩) ∧
    ((promoting 0x7000B 0).serviceReady 0 5 0x104028 8 = .ok (promoting 0x7000B 0) ∧
      (promoting 0x7000B 0).hintGen 5 (req 2 1 0x50000 0) = .ok (0 : Nat) ∧ (promoting 0x7000B 0).rd 0x104028 8 = putFld 0x7000F 2 1 0) ∧
    ((promoting 0x8000F 0).serviceReady 0 5 0x104028 8 = .ok (promoting 0x8000F 0) ∧
      (promoting 0x8000F 0).hintGen 5 (req 2 1 0x50000 0) = .ok (0 : Nat) ∧ (promoting 0x8000F 0).rd 0x104028 8 ≠ putFld 0x7000F 2 1 0) :=
  by and_intros <;> first | decide +kernel | exact okIs (by decide +kernel)

theorem wit_pageCopies : (promoting 0x7000B 0).pageCopy 0 5 (leafAddr 0x7000F) 0x900000 = .ok (promoting 0x7000B 0) ∧
    (promoting 0x8000F 0).pageCopy 0 5 (leafAddr 0x7000F) 0x900000 = .ok (promoting 0x8000F 0) :=
  ⟨pageCopy_blank (by decide +kernel) (by decide +kernel) (by decide +kernel) (by decide +kernel),
    pageCopy_blank (by decide +kernel) (by decide +kernel) (by decide +kernel) (by decide +kernel)⟩


/-- A CB7-L whose record of extent `i` at 0x60000 is in this state. -/
def extentAt (i state : Nat) : State := wrs ({ base with fitting := .l }.setBar physFn 0x150 0x60000) [(0x60000 + 32 * i, state * 2 ^ 50)]
/-- Tenant record 0 at 0x61000, whose ring at 0x10000 holds an empty packet at HEAD. -/
def tenanted : State :=
  { wrs ({ base with fitting := .l }.setBar physFn 0x148 0x61000) [(0x10000, 0x11000 + 4 * 2 ^ 60), (0x10008, 1), (0x61000, 77), (0x61008, 2 ^ 16), (0x61010, 0x10000)] with taskTails := [(0, 1)] }

theorem wit_extentsTasks : (∀ e ∈ [(0, 0), (2047, 1), (5, 2)], (extentAt e.1 e.2).fitting = .l ∧ ((extentAt e.1 e.2).barReg physFn 0x150).toNat ≠ 0 ∧ SMap.wf 0 (extentAt e.1 e.2).mem = true ∧
      (extentAt e.1 e.2).rd (((extentAt e.1 e.2).barReg physFn 0x150).toNat + 32 * e.1) 8 / 2 ^ 50 % 2 ^ 3 = e.2 ∧ (extentAt e.1 e.2).tasks = [] ∧ (extentAt e.1 e.2).ordered = [] ∧ (extentAt e.1 e.2).modified = [] ∧ (extentAt e.1 e.2).late = []) ∧
    ({ extentAt 0 3 with scrubs := [(0, 9)] } : State).scrubs.find? (fun e => e.1 == 0) = some (0, 9) ∧ tenanted.tenantValid 0 = true ∧ tenanted.tenantAt 0 (tenanted.tenantRing 0) 16 false = .ok 0x10000 ∧
    tenanted.running = true ∧ tenanted.tenantAt 0 (tenanted.tenantRing 0) 16 true = .ok 0x10000 ∧ (tenanted.ring 0x10000).head ≠ (SMap.get 0 tenanted.taskTails 0).toNat ∧ 4 ≤ (tenanted.ring 0x10000).logn ∧
    tenanted.tenantAt 0 0x11000 4096 true = .ok 0x11000 ∧ tenanted.packetCheck 0 (List.replicate 4096 0) = .error 2 :=
  ⟨by decide +kernel, by decide +kernel, by decide +kernel, okIs (by decide +kernel), by decide +kernel, okIs (by decide +kernel), by decide +kernel, by decide +kernel, okIs (by decide +kernel), errIs (by decide +kernel)⟩

/-- Context 0's collective queue at 0x10080 holds the descriptor at 0x10100 of an operation on one 4-byte element over two members, of which
peer 1 is on the roster. -/
def coll (op : Nat) : State :=
  wrs (base.setBar physFn 0x118 0x62000) [(0x10088, 1), (0x10090, 2 + 2 ^ 11), (0x100C0, 0x10100), (0x10100, 0x10180), (0x10108, 0x10190), (0x10110, 0x101A0), (0x10118, 1 + op * 2 ^ 48 + (if op = 1 then 2 ^ 56 else 0)),
    (0x10120, 2), (0x10128, 0x101B0), (0x101B0, 0x10000), (0x62000, 2), (0x62200, 0x10080)]
def collDescAt (s : State) : CollDesc := collDesc (leNat (s.rdN 0x10100 64))
def collRead (s : State) (va n : Nat) : State × List (Byte × Bool) := match s.engRead (s.ctxWho 0) 0 (.glob (n64 va)) n with
  | .ok a => a
  | .error _ => (s, [])
def result1 (s : State) : State := { s with collectives := [⟨3, 0, 0, 0x10190, 0x101A0, [(1, false), (2, false), (3, false), (4, false)]⟩] }

theorem wit_collectives : (∀ op ∈ [1, 2], ((coll op).collHead 0).isOk = true ∧ ((coll op).engRead ((coll op).ctxWho 0) 0 (.glob (n64 0x10100)) 64).isOk = true ∧ (collDescAt (coll op)).ok = true ∧
      collDesc (leNat ((collRead (coll op) 0x10100 64).2.map Prod.fst)) = collDescAt (coll op) ∧ (collDescAt (coll op)).op = op ∧ (collDescAt (coll op)).nmem = 2 ∧ (collDescAt (coll op)).rank = 0 ∧
      leNat (((collRead (coll op) 0x101B0 4).2.map Prod.fst).drop 2 |>.take 2) = 1 ∧ (coll op).onRoster 0 1 = true ∧ ((coll op).engRead ((coll op).ctxWho 0) 0 (.glob (n64 0x10180)) 4).isOk = true ∧ (collDescAt (coll op)).bytes = 4) ∧
    (result1 base).coll? 3 = some ⟨3, 0, 0, 0x10190, 0x101A0, [(1, false), (2, false), (3, false), (4, false)]⟩ ∧
    (((result1 base).engCheck (base.ctxWho 0) 0 (.glob 0x10190) 4).bind fun v => v.engReady (base.ctxWho 0) 0 (.glob 0x101A0, 16)).isOk = true ∧
    ((result1 { base with tlb := [] }).engCheck (base.ctxWho 0) 0 (.glob 0x10190) 4).isOk = false :=
  by and_intros <;> decide +kernel

def tether1 : Tether := { slotw := 1, ngrp := 3, life := 2, sender := 5, seq := 9, hops := 8 }

theorem wit_powerEvents : SMap.wf 0 base.bar = true ∧ ({ base with power := { base.power with isOff := true } } : State).power.isOff = true ∧ ({ base with power := { base.power with thermal := true } } : State).emergency = true ∧
    base.emergency = false ∧ base.drawLow ≤ base.drawHigh ∧ base.drawLow ≤ 0 + base.drawLow ∧ base.cerlink = true ∧ (0x0010000100000000 * 16 + 2 ^ 52 : Nat) / 2 ^ 52 ≠ 0 ∧ (n64 (2 ^ 52 + 5 * 2 ^ 36)).toNat / 2 ^ 52 ≠ 0 ∧
    (n64 (2 ^ 52 + 5 * 2 ^ 36)).toNat / 2 ^ 36 % 2 ^ 8 ≠ 0 ∧ (tether1.sender, tether1.seq) ∉ base.power.taken ∧ (tether1.sender, tether1.seq) ∈ ({ base with power := { base.power with taken := [(5, 9)] } } : State).power.taken ∧
    base.power.left = 0 ∧ ({ base with power := { base.power with delay := some 0 } } : State).power.delay = some 0 ∧ 1000 ≤ (n64 (3200 * 2 ^ 48)).toNat / 2 ^ 48 ∧ base.fitting = .h :=
  by and_intros <;> decide +kernel

theorem wit_startupManagement : base.boot.fails ≠ 3 ∧ ({ base with boot := { base.boot with fails := 3 } } : State).boot.fails = 3 ∧
    (let s : State := { base with boot := { base.boot with stage := 6, starts := 1 }, clock := n64 (30 * 1400000000) }
     s.boot.stage < 7 ∧ s.boot.starts ≠ 0 ∧ s.boot.mode = 0 ∧ s.boot.ended = false ∧ 30 * 1400000000 ≤ s.clock.toNat) ∧
    (0xFFFFB007 : Word64).toNat % 2 ^ 16 = 0xB007 ∧ (0xB006 : Word64).toNat % 2 ^ 16 ≠ 0xB007 ∧ base.boot.fatal = none ∧ State.reset.running = false ∧
    (let s : State := { base with boot := { base.boot with fatal := some (0, 5) } }
     s.boot.fatal = some (0, 5) ∧ s.boot.dumped = false ∧ s.running = false ∧ s.barReg physFn 0x298 = 0) :=
  by and_intros <;> decide +kernel

def atWords (l : List Nat) : State := withClause l
def fetched (l : List Nat) : List Nat := match (atWords l).fetchClause (atWords l).cw.who (atWords l).cf.hdr with
  | .ok (h, w) => h :: w
  | .error _ => []
/-- Decoding fails, and so. -/
def failure (l : List Nat) (role : Role) : Option ClauseFault := match decodeClause (l.headD 0) l.tail role true 0 with
  | .ok _ => none
  | .error e => some e

theorem wit_fetchAlignmentTraps : (∀ l ∈ [clauseWords, [0x52038101, 0, 0, 0, 0, 0], [0x52038100, 0x28CA5006, 0x01C30600, 0x201C8008, 0x08FC0000, 0x64]], (atWords l).hasFetcher = true ∧ (atWords l).cur.mule = false ∧ (atWords l).cf.widx = 0 ∧
      (atWords l).cf.atRecon = false ∧ (atWords l).cg.pending = [] ∧ (atWords l).cg.good = (atWords l).ctxGood (atWords l).cw.ctx ∧ fetched l = l) ∧
    failure [0x52038101, 0, 0, 0, 0, 0] .none = some .header ∧ failure clauseWords .matrix = some .role ∧ failure [0x52038100, 0x28CA5006, 0x01C30600, 0x201C8008, 0x08FC0000, 0x64] .none = some (.word 0) ∧
    mem.CanIssue (.ldg (mf (.v 8) (.s 10) 2)) ∧ mem.rangeCheck (.v 8) 1 = .ok mem ∧ mem.prepAll (.ldg (mf (.v 8) (.s 10) 2)) (threads (mem.gmask g7)) [baseSrc (mf (.v 8) (.s 10) 2) true] = .ok (mem, [.const 0x10000]) ∧
    (let l := formedEas mem mem (mf (.v 8) (.s 10) 2) true 2 (.const 0x10000)
     (∀ x ∈ l, placeOf .global x.ea = some (.glob 0x10002)) ∧ l.find? (fun x => x.ea.toNat % 4 ≠ 0) = some ⟨0, 0x10002⟩) ∧
    mem.CanIssue (.sts (mf .lit .zero 2)) ∧ mem.prepAll (.sts (mf .lit .zero 2)) (threads (mem.gmask g7)) [⟨0, .lit, .n32⟩, baseSrc (mf .lit .zero 2) false] = .ok (mem, [.const 0, .const 0]) ∧
    (let l := formedEas mem mem (mf .lit .zero 2) false 2 (.const 0)
     (∀ x ∈ l, placeOf .window x.ea = some (.win 2) ∧ 2 < mem.cw.winSize ∧ mem.cw.readOnly 2 = false) ∧ l.find? (fun x => x.ea.toNat % 4 ≠ 0) = some ⟨0, 2⟩) :=
  ⟨by decide +kernel, by decide +kernel, by decide +kernel, by decide +kernel, can (by decide +kernel), okIs (by decide +kernel), okIs (by decide +kernel), by decide +kernel, can (by decide +kernel), okIs (by decide +kernel), by decide +kernel⟩

/-- The agenda's next move. -/
def soon (m : Move) (s : State) : State := { s with agenda := [m] }

/-- Before the move of a literal into s10, as a fragment and as a Mule. -/
def moving : State := withG (fun g => g.modFrag 0 (fun f => { f with clause := some (oneClause 0x0C0AFC00 0) }))
def movingMule : State := withG (fun g => { g with mule := some { hdr := 0x10000, clause := some (oneClause 0x0C0AFC00 0) } })

theorem wit_stepRunsDecoded : (soon (.issue 0 0 []) base).agenda = .issue 0 0 [] :: [] ∧ base.running = true ∧ base.group? 0 = some (theGroup base) ∧ (theGroup base).frag? 0 = some base.cf ∧ (theGroup base).canIssue base.cf = true ∧
    base.parked (theGroup base) base.cf = false ∧ base.mustYield (theGroup base) base.cf = false ∧ base.cf.wait = .none ∧ (theGroup atClause).frag? 0 = some atClause.cf ∧ atClause.cf.clause = none ∧ (theGroup atClause).canIssue atClause.cf = true ∧
    (∃ c i lits, moving.cf.clause = some c ∧ c.instrAt moving.cf.widx = .ok (i, lits)) ∧
    (let s : State := withG (fun g => g.modFrag 0 (fun f => { f with wait := .trap 3 5 none true false none }))
     s.cf.wait = .trap 3 5 none true false none ∧ (theGroup s).canIssue s.cf = true) ∧
    (∃ m c i lits, (theGroup movingMule).mule = some m ∧ m.ended = false ∧ m.fault = none ∧ (movingMule.wg 0).stopping = false ∧ m.clause = some c ∧ c.instrAt m.widx = .ok (i, lits)) ∧ base.eventOk .schedEpoch = true ∧
    (∃ c, decodeClause 0x52038100 clauseWords.tail .none true 0 = .ok c ∧ startsAt c.words 2 16 0 = true ∧ 2 < c.nIns) :=
  ⟨rfl, by decide +kernel, by decide +kernel, by decide +kernel, by decide +kernel, by decide +kernel, by decide +kernel, by decide +kernel, by decide +kernel, by decide +kernel,
    by decide +kernel, ⟨oneClause 0x0C0AFC00 0, .smov ⟨.s 10, .lit, .v 0⟩, [0], by decide +kernel, by rfl⟩, by decide +kernel,
    ⟨{ hdr := 0x10000, clause := some (oneClause 0x0C0AFC00 0) }, oneClause 0x0C0AFC00 0, .smov ⟨.s 10, .lit, .v 0⟩, [0], by decide +kernel, rfl, rfl, by decide +kernel, rfl, by rfl⟩, by decide +kernel,
    ⟨⟨5, .vector, 0, 0, 7, 0, false, 1⟩, clauseWords.tail⟩, okIs (by decide +kernel), by decide +kernel⟩

/-! ### Further hypotheses -/

def drained : State := withS [(1, 4)]
/-- A load of the group has not returned. -/
def loading : State := drained.modGroup 0 (fun g => { g with flights := [{ path := 0, kind := .load }] })

theorem wit_shrink : drained.CanIssue (.shrink { pf 1 8 with sb := some 0 }) ∧ (drained.sregOr 0 (some 1)).toNat = 4 ∧ 4 ≤ drained.cg.side true ∧ drained.cg.matrix = [] ∧ (∀ x ∈ drained.cg.flights, x.kind = .store) ∧
    loading.CanIssue (.shrink { pf 1 8 with sb := some 0 }) ∧ (loading.sregOr 0 (some 1)).toNat = 4 ∧ 4 ≤ loading.cg.side true ∧ (∃ x ∈ loading.cg.flights, x.kind ≠ .store) :=
  ⟨can (by decide +kernel), by decide +kernel, by decide +kernel, by decide +kernel, by decide +kernel, can (by decide +kernel), by and_intros <;> decide +kernel⟩

/-- The handler table at 0x10000 has no entry, and one in an unmapped page cannot be read. -/
theorem wit_handlerFails : (withG (fun g => { g with tvec := 0x10001 })).handlerEntry base.cw.who 0x10001 1 = .error (.kill 2) ∧ (withG (fun g => { g with tvec := 0x30001 })).handlerEntry base.cw.who 0x30001 1 = .error (.kill 3) :=
  ⟨by rfl, by rfl⟩

/-- As `inHandler`, where the trapped fragment's clause is the worked one. -/
def returning : State := inHandler.wrN 0x10000 ((clauseWords.map (leBytes 4)).flatten)

theorem wit_trapReturns : returning.CanIssue (.tret (fc 1)) ∧ returning.cg.tlevel ≠ 0 ∧ (∀ h ∈ returning.cg.frags, h.level = returning.cg.tlevel → h.fid = returning.cf.fid) ∧ returning.cf.pendingTop = .none ∧
    (returning.cg.bank returning.cg.tlevel).ret = 0x10004 ∧ (returning.cg.bank returning.cg.tlevel).posted = none ∧ returning.cf.fid ≠ (returning.cg.bank returning.cg.tlevel).frag ∧ SMap.wf 0 returning.cg.sregs = true ∧
    returning.growers returning.cg = [] ∧ returning.afterInstr returning.cw.who 0x10000 0 false = .ok (0x10000, 2) := by and_intros <;> first | decide +kernel | exact can (by decide +kernel) | exact okIs (by decide +kernel)

/-- A cache holds the first line of the mapped pages modified. -/
def modified : State := { mem with modified := [(512, List.replicate 128 1)] }

theorem wit_cacheWrites : modified.CanIssue (.clwb cf0) ∧ modified.lineXlat cf0 = .ok (xlat 0x10000) ∧ SMap.get [] modified.modified 512 ≠ [] ∧ modified.cg.inflight 1 < 63 ∧
    mem.lineXlat cf0 = .ok (xlat 0x10000) ∧ SMap.get [] mem.modified 512 = [] ∧ SMap.wf [] modified.modified = true :=
  ⟨can (by decide +kernel), okIs (by decide +kernel), by decide +kernel, by decide +kernel, okIs (by decide +kernel), by decide +kernel, by decide +kernel⟩

def map1 : WMap := { gbase := 0x10000, nblk := 1, wr := true, wblk := 2, blocks := [.dirty] }
/-- Map 3 has one block, DIRTY. -/
def dirtied : State := maps.modWg 0 (fun w => { w with maps := [(3, map1)].map (fun e => (e.1, some e.2)) })

theorem wit_mapFlush : SMap.get none dirtied.cw.maps 3 = some map1 ∧ SMap.wf none dirtied.cw.maps = true ∧ map1.blocks.getD 0 .clean = .dirty ∧ dirtied.cg.tlevel = 0 ∧ dirtied.cg.sideLog = [] ∧ dirtied.cg.inflight 1 ≤ 47 ∧
    SMap.wf 0 dirtied.mem = true ∧ dirtied.hasIssuer = true ∧ (∃ w, dirtied.wg? dirtied.cg.wid = some w) ∧ dirtied.CanIssue (.mapflush ⟨g7, .i8, .rlx, .grp, .v 0, .v 0, 0, 3⟩) ∧ dirtied.CanIssue (.mapclr ⟨g7, .i8, .rlx, .grp, .v 0, .v 0, 0, 3⟩) ∧
    (∀ l, l < 16 → let va := map1.gbase.toNat + 2048 * 0 + 128 * l
      va < 2 ^ 57 ∧ dirtied.pinFails dirtied.cw.who va true = false ∧ ∃ x, dirtied.fate dirtied.cw.who va true = .ok x ∧ x.pa = 0x10000 + 128 * l ∧ x.dirty = none ∧ dirtied.snoopBusy x.pa 128 true = false) := by
  and_intros
  all_goals try first | decide +kernel | exact can (by decide +kernel)
  · exact ⟨_, rfl⟩
  · exact fun l h => ⟨by revert l; decide +kernel, by revert l; decide +kernel, xlat (0x10000 + 128 * l), by revert l; decide +kernel⟩

/-- The group's fragment last issued 65,536 ticks ago. -/
def waiting : State := { base with clock := base.cf.last + 65536 }

theorem wit_aging : (theGroup waiting).frag? 0 = some waiting.cf ∧ (theGroup waiting).tlevel ≤ waiting.cf.level ∧ waiting.cf.wait = .none ∧ 65536 ≤ (waiting.clock - waiting.cf.last).toNat ∧
    base.lineBusy (xlat 0x10000) 128 true = false ∧ (∀ l ∈ ([] : List Nat), base.lineWaits l = false) ∧ (relocs 1 id).claimBusy ((relocs 1 id).cmdWho (relocCmd (relocs 1 id))) 0x10010 = none :=
  by and_intros <;> decide +kernel

/-- Expander 5 (unit 1 of port 1) has a load outstanding since time 0. -/
def late5 : State := (withG (fun g => { g with flights := [{ path := 0, kind := .load, ext := [(5, 0, 0)] }] }))

theorem wit_losses : ({ late5 with clock := 2 ^ 26 } : State).expanderLate 5 = true ∧ base.expanderLate 5 = false ∧ base.late = [] := by and_intros <;> decide +kernel

/-- Two members of a gang are to be saved; the second still issues. -/
def gangOf2 (fits : Bool) : State :=
  let s := stopping false
  let w : Workgroup := { s.wg 0 with rcb := 0x4000, gang := 3, gangSize := 2 }
  { s with wgs := [w, { w with wid := 1 }], groups := s.groups ++ [{ gid := 1, wid := 1, gidx := 0, frags := [{ fid := 0, mask := 1, hdr := 0x10000 }] }], bar := if fits then s.bar else [] }

/-- Two small windows leave no hole of 500 KiB in the only cluster of a candidate of higher priority. -/
def crowded : State :=
  let s := candidate 0
  let w : Workgroup := { blankWg with wid := 70, ngrp := 1, winSize := 1, winBase := 300 * 1024 }
  { s with fitting := .l, domains := [⟨[0], [5], []⟩], images := s.images.map (fun i => { i with scrk := 500 }), work := s.work.map (fun k => { k with prio := 9 })
           wgs := [w, { w with wid := 71, winBase := 600 * 1024 }], groups := [{ gid := 70, wid := 70, gidx := 0 }, { gid := 71, wid := 71, gidx := 0 }], bar := [(0x20, 0x80000), (0x28, 0x100000)] }

theorem wit_gangsSaved : (gangOf2 true).wg? 0 = some ((gangOf2 true).wg 0) ∧ (gangOf2 true).running = true ∧ (gangOf2 true).doomedWg ((gangOf2 true).wg 0) = false ∧ ((gangOf2 true).wg 0).stopping = true ∧
    (∃ v ∈ (gangOf2 true).gangOf ((gangOf2 true).wg 0), (gangOf2 true).drained v.wid = false) ∧
    (let s : State := { stopping false with bar := [] }
     s.doomedWg (s.wg 0) = false ∧ (∀ v ∈ s.gangOf (s.wg 0), s.drained v.wid = true) ∧ s.poolFits (s.wg 0) = false) ∧
    ((stopping false).doomedWg ((stopping false).wg 0) = false) ∧
    (crowded.wg? 71 = some (crowded.wg 71) ∧ crowded.running = true ∧ crowded.doomedWg (crowded.wg 71) = false ∧ (crowded.wg 71).stopping = false ∧ 71 ∈ crowded.chosen) :=
  by and_intros <;> decide +kernel

/-- A CB7-L has fewer cores for the scheduler to compare. -/
def single : State := { candidate 0 with fitting := .l }

theorem wit_singleStart : single.workOf 0x4000 = some (work1 single) ∧ single.turn (work1 single) = true ∧ single.nextWg 0x4000 < single.nwg 0x4000 ∧ single.neverFail (work1 single) = none ∧ (work1 single).gang < 2 ∧
    single.machPaused (work1 single).ctx = false ∧ single.pathRoom 0x4000 (single.freshUnits (work1 single)) = true ∧
    (single.bestPlace (single.newUnit (work1 single) single.nextId (single.nextWg 0x4000) 1)).isSome = true :=
  by and_intros <;> decide +kernel

/-- Power after intervals of these draws, newest first. -/
def drew (hist : List Nat) : State := { base with power := { base.power with hist := hist } }

theorem wit_draws : (drew []).emergency = false ∧ (drew [500]).emergency = false ∧ (drew [500]).lastDraw ≤ (drew [500]).pcap + (drew [500]).ramp ∧ (drew [500]).drawLow ≤ 490 + 10 ∧ (drew [500]).delayNow 490 = none ∧
    ((drew [500]).drawOf 300 900).2 ≠ 0 ∧ ({ drew [500] with power := { (drew [500]).power with thermal := true } } : State).emergency = true ∧ ({ base with power := { base.power with isOff := true } } : State).power.isOff = true :=
  by and_intros <;> decide +kernel

theorem wit_moves : (base.readyList false).all (fun r => !base.owed r.ctx 0) = true ∧ movingMule.doomedWg (movingMule.wg 0) = false ∧ (movingMule.wg 0).stopping = false := by and_intros <;> decide +kernel

theorem nextIs {x : Host.Outcome State Fault Refusal} (h : (match x with
    | .next _ => true
    | _ => false) = true) : ∃ t, x = .next t := by
  cases x with
  | next t => exact ⟨t, rfl⟩
  | fault f => cases h
  | refused r => cases h

/-! ### Hypotheses of the statements about encodings, kept forms and frames -/

theorem wit_encodeDecodeAgree : (Instr.sadd u0).wf = true ∧ encode (.sadd u0) ≠ [] ∧ (0xA11FFFFE : Nat) < 2 ^ 32 ∧ decodeWords 0xA11FFFFE 0x48 = .ok (.brneod ⟨g7, 0x3FFFE, 0, 0x48⟩) ∧
    (Instr.brneod ⟨g7, 0x3FFFE, 0, 0x48⟩).wf = true := ⟨by decide +kernel, by decide +kernel, by decide +kernel, by rfl, by decide +kernel⟩

theorem wit_scalarMovesComparisons : decodeWords (0x03 * 2 ^ 26 + 1) 0 = .ok (.smov ⟨.s 0, .v 0, .v 1⟩) ∧ (1 : Nat) % 256 ≠ 0 := ⟨okIs (by decide +kernel), by decide⟩

theorem wit_formsKept : Memory.wf (soon (.hostWrite 5 [1]) State.reset).mem ∧ (soon (.hostWrite 5 [1]) State.reset).Canonical ∧ (∃ t, step (soon (.hostWrite 5 [1]) State.reset) = .next t) ∧ Memory.wf mem.mem :=
  ⟨by decide +kernel, ⟨by decide +kernel, by decide +kernel, by decide +kernel, by decide +kernel, by decide +kernel, fun g h => (by cases h), fun i h => (by cases h)⟩, nextIs (by decide +kernel), by decide +kernel⟩

theorem wit_registerFrames : (∃ u, base.writeDst (.v 8) true [(31, 5)] = .ok u) ∧ (∃ u, base.writeSD (.s 47) 5 = .ok u) ∧ (∃ u, asMule.writeSD (.s 0) 5 = .ok u) ∧ (∃ u, asMule.writeSD (.q 3) 5 = .ok u) ∧
    (∃ u, base.writeSD .discard 5 = .ok u) ∧ (∃ t os, base.prepAll (.sadd u0) [0] [⟨0, .s 1, .i64⟩, ⟨1, .lit, .i64⟩] = .ok (t, os)) ∧ (∃ z, exec (.nop (fc 0)) base = .next z) ∧ Completes (.nop (fc 0)) base base :=
  ⟨ready1 (by decide +kernel), ready1 (by decide +kernel), ready1 (by decide +kernel), ready1 rfl, ready1 rfl, ⟨base, [.const 0, .const 0], okIs (by decide +kernel)⟩, ⟨_, rfl⟩, rfl⟩

theorem wit_memoryFrames : (∀ x ∈ ([⟨0, 0x10000, leBytes 4 7⟩, ⟨1, 0x10000, leBytes 4 8⟩] : List St), x.t < 32 ∧ x.data.length = 4) ∧ mem.Writable .global 4 0x10000 ∧
    (([⟨0, 0x10000, leBytes 4 7⟩, ⟨1, 0x10000, leBytes 4 8⟩] : List St).map (fun x => x.t)).Nodup ∧ mem.cg.inflight 1 < 63 ∧ mem.cg.sideLog = [] ∧
    mem.fate mem.cw.who 0x10000 true = .ok (xlat 0x10000) ∧ (xlat 0x10000).dirty = none ∧ (mem.storeAt .global 0x10000).1 = some 0x10000 ∧ (mem.storeAt .window 0x100).2 = some 0x100 :=
  ⟨by decide +kernel, writable_global, by decide +kernel, by decide +kernel, by decide +kernel, by decide +kernel, rfl, by decide +kernel, by decide +kernel⟩

/-! ### Ill-formed instructions are refused -/

def m0 : FmtM := mf (.v 8) (.s 10) 0
def v0 : FmtV := vf .i32 (.v 4) (.v 0) 0

theorem test_illFormedArithmetic : ([.sadd { u0 with sa := .v 3 }, .spopc u0, .iadd { v0 with ty := .f32 }, .imulhi { v0 with sat := true }, .iadd { v0 with rnd := .rz }, .iadd { v0 with vd := .s 3 }, .iadd { v0 with ty := .i64, sb := .v 5 },
    .iadd { v0 with sc := .v 1 }, .iadd { v0 with aux := 1 }, .iabs { v0 with ty := .n32, sb := .v 0 }, .shl { v0 with ty := .i16 }, .rol { v0 with ty := .i32 }, .not { v0 with ty := .n8, sb := .v 0 }, .lop3 { v0 with ty := .i32 },
    .popc { v0 with ty := .i32, sb := .v 0 }, .fadd { v0 with ty := .e4m3 }, .fexp2 { v0 with ty := .f64, sb := .v 0 }, .frint { v0 with ty := .i32, sb := .v 0 }, .icmp { v0 with vd := .v 0, aux := 0x30 }, .fcmp { v0 with ty := .f32, vd := .v 0, aux := 0x40 },
    .plop { v0 with ty := .i8, vd := .v 8 }, .sel { v0 with ty := .n32, aux := 8 }, .ballot { v0 with ty := .n32, vd := .lit, sb := .v 0 }, .voteany { v0 with ty := .n32, vd := .s 1, sa := .v 0, sb := .v 0, aux := 9 }, .fclass { v0 with ty := .i32, vd := .v 0, sb := .v 0 },
    .cvt { v0 with sb := .v 0, aux := 15 }, .cvts { v0 with ty := .e4m3, sb := .v 0, vd := .v 191 }, .mov { v0 with vd := .lit, sb := .v 0 }, .ptov { v0 with ty := .n64, sa := .v 0, sb := .v 0 }, .vtop { v0 with ty := .i8, vd := .v 0, sb := .v 0 },
    .shfl { v0 with ty := .n32, aux := 6 }, .bcast { v0 with ty := .n32 }, .redadd { v0 with sb := .v 0, vd := .s 2, aux := 4 }, .scanadd { v0 with sb := .v 0, vd := .s 2, aux := 5 }, .redand { v0 with sb := .v 0 },
    .merge { v0 with ty := .f32, vd := .v 190 }] : List Instr).all (fun i => !i.wf) = true := by decide +kernel

theorem test_illFormedMemory : ([.ld { m0 with ty := .e2m1 }, .ld { m0 with nlog := 6 }, .ld { m0 with ty := .i8, nlog := 1 }, .ld { m0 with vd := .v 191, nlog := 1 }, .ld { m0 with vd := .s 1 }, .ldg { m0 with ord := .rel }, .ldg { m0 with addr := .v 3 },
    .lds { m0 with addr := .w 1 }, .ldt { m0 with off := 1 }, .st { m0 with ord := .acq }, .sts { m0 with vd := .bad }, .stt { m0 with off := 0x4000 }, .stl { m0 with nlog := 4 }, .stl { m0 with nlog := 5, vd := .v 161 }, .pref m0,
    .stbind { m0 with ty := .i8, vd := .v 1 }, .stsave { m0 with ty := .i8, vd := .w 1, ord := .acq }, .ldu { m0 with vd := .v 1 }, .mapset { mapf (.s 4) with off := 4 }, .mapset { mapf (.s 4) with addr := .s 47 }, .mapflush m0, .mapclr { m0 with ty := .i8 },
    .aadd (atf .n8 (.v 8) (.v 0)), .aadd (atf .i32 (.v 8) (.v 1)), .aand (atf .i32 (.v 8) (.v 0)), .acas (atf .i32 (.v 8) (.v 6)), .radd (atf .i32 (.v 8) (.v 0)), .rmin { atf .i32 .zero (.v 0) with ord := .acq }, .rand (atf .i32 .zero (.v 0)),
    .fence ⟨g7, .i8, .rlx, .dev, .v 0, .v 0, .v 0, .v 0⟩, .boinit ⟨g7, .i8, .acq, .grp, .v 0, .s 12, .s 13, .v 0⟩, .hldSlot { m0 with ty := .i8, nlog := 1 }, .hldField { m0 with ty := .i8, vd := .v 16, addr := .v 1, nlog := 1 },
    .hstSlot { m0 with ty := .i8, vd := .v 1, ord := .acq }, .hstField { m0 with ty := .i8, vd := .v 1, addr := .v 1, nlog := 1, off := 0x100000 }, .hfld { m0 with addr := .v 16 }, .hstr { m0 with ord := .acq, addr := .v 1 }, .hpin { m0 with ty := .i8, vd := .v 3, addr := .v 1 },
    .hunpin { m0 with ty := .i8, vd := .v 0 }, .htnull { m0 with ty := .i8, vd := .v 0, addr := .v 1, off := 8 }, .hteq { m0 with ty := .i8, vd := .v 16, addr := .v 1 }, .hmovRef { m0 with ty := .i8, vd := .v 1, addr := .v 1, off := 1 },
    .hmovToRef { m0 with ty := .i8, vd := .v 1, addr := .lit, off := 1 }, .hmovFromRef { m0 with ty := .i8, vd := .v 1, addr := .v 1, off := 2 }] : List Instr).all (fun i => !i.wf) = true := by decide +kernel

theorem test_illFormedOthers : ([.mma { xf with wcls := 3 }, .mma { xf with bop := 31 }, .mma { xf with sA := true, aop := 47 }, .mma { xf with fbp := 47 }, .mmas { xf with bop := 29 }, .dmma xf, .accclr { xa with bop := 1 }, .accrd { xa with bop := 48 }, .accwr { xa with aop := 1 },
    .accmv { xa with aop := 32, bop := 0 }, .cpy (af (some 45) none none), .cpych (af (some 39) none none), .cpyrel (af none none none), .spqfill (af (some 0) none none), .twcpy (af (some 45) none none), .subscr (af (some 0) none none), .slotrel (af (some 0) (some 1) none),
    .twset (af (some 0) none none), .twclr (af (some 0) none (some 1)), .twflip (af none none none), .bra ⟨g7, 1, 2, 0⟩, .bra ⟨g1, 1, 0, 0⟩, .brs ⟨g7, 1, 0, 0xBF⟩, .brz ⟨g1, 1, 0, 0xC0⟩, .breod ⟨g7, 1, 0, 1⟩, .brneod ⟨g7, 1, 1, 0⟩, .call ⟨g7, 1, 0, 48⟩,
    .ret ⟨g7, none, some 0, 0⟩, .exit ⟨g7, some 1, some 0, 0⟩, .bar (fc 32), .bargang (fc 4), .wait (fc 5), .yield (fc 1), .nop ⟨g1, some 0, some 0, 0⟩, .spawn (fc 8), .grow (fc 16), .shrink (fc 1), .boarv (fc 2), .bowait ⟨g7, none, some 0, 0⟩, .qpush (fc 1), .qpop ⟨g7, some 0, none, 0⟩,
    .qcreate (fc 7), .crrd (crf 8), .crwr (crf 0), .trap ⟨g1, none, some 0, 0⟩, .tret (fc 2), .lkline (fc 1), .ulkline ⟨g7, none, some 0, 0⟩, .clrpois ⟨g7, none, some 0, 0⟩, .clwb (fc 1), .clinv ⟨g7, some 1, some 1, 0⟩, .apxb { apb with skip := 0 }, .apxb { apb with sa := .v 191 },
    .apxe { ape with skip := 1 }, .apxe { ape with sb := .v 191, aux := 0x13 }, .apxinv (apv (.v 1) (.s 3)), .apxstat (apv (.v 2) (.s 3))] : List Instr).all (fun i => !i.wf) = true := by decide +kernel

/-- A narrow literal leaves its unused bits zero (R164). -/
theorem test_litsOk : (Instr.iadd (vf .i8 .lit (.v 0) 0)).litsOk [0x100] = false ∧ (Instr.iadd (vf .i8 .lit (.v 0) 0)).litsOk [0xFF] = true ∧ (Instr.iadd (vf .i32 .lit (.v 0) 0)).litsOk [0xFFFFFFFF] = true := by decide +kernel

/-! ### Words of every row of the opcode map (R150 to R160, R171), with the fields written into their bits -/

theorem test_decodeScalar :
    decodeWords 0x0403C5FC 0 = .ok (.sadd ⟨.s 3, .s 5, .lit⟩) ∧
    decodeWords 0x0443C5FC 0 = .ok (.ssub ⟨.s 3, .s 5, .lit⟩) ∧
    decodeWords 0x0483C5FC 0 = .ok (.smul ⟨.s 3, .s 5, .lit⟩) ∧
    decodeWords 0x04C3C5FC 0 = .ok (.smulhs ⟨.s 3, .s 5, .lit⟩) ∧
    decodeWords 0x0503C5FC 0 = .ok (.smulhu ⟨.s 3, .s 5, .lit⟩) ∧
    decodeWords 0x0543C5FC 0 = .ok (.sdivs ⟨.s 3, .s 5, .lit⟩) ∧
    decodeWords 0x0583C5FC 0 = .ok (.sdivu ⟨.s 3, .s 5, .lit⟩) ∧
    decodeWords 0x05C3C5FC 0 = .ok (.srems ⟨.s 3, .s 5, .lit⟩) ∧
    decodeWords 0x0603C5FC 0 = .ok (.sremu ⟨.s 3, .s 5, .lit⟩) ∧
    decodeWords 0x0643C5FC 0 = .ok (.smins ⟨.s 3, .s 5, .lit⟩) ∧
    decodeWords 0x0683C5FC 0 = .ok (.sminu ⟨.s 3, .s 5, .lit⟩) ∧
    decodeWords 0x06C3C5FC 0 = .ok (.smaxs ⟨.s 3, .s 5, .lit⟩) ∧
    decodeWords 0x0703C5FC 0 = .ok (.smaxu ⟨.s 3, .s 5, .lit⟩) ∧
    decodeWords 0x0803C5FC 0 = .ok (.sand ⟨.s 3, .s 5, .lit⟩) ∧
    decodeWords 0x0843C5FC 0 = .ok (.sor ⟨.s 3, .s 5, .lit⟩) ∧
    decodeWords 0x0883C5FC 0 = .ok (.sxor ⟨.s 3, .s 5, .lit⟩) ∧
    decodeWords 0x08C3C5FC 0 = .ok (.sandn ⟨.s 3, .s 5, .lit⟩) ∧
    decodeWords 0x0903C5FC 0 = .ok (.sshl ⟨.s 3, .s 5, .lit⟩) ∧
    decodeWords 0x0943C5FC 0 = .ok (.sshr ⟨.s 3, .s 5, .lit⟩) ∧
    decodeWords 0x0983C5FC 0 = .ok (.ssra ⟨.s 3, .s 5, .lit⟩) ∧
    decodeWords 0x09C3C5FC 0 = .ok (.srol ⟨.s 3, .s 5, .lit⟩) ∧
    decodeWords 0x0A03C5FC 0 = .ok (.spopc ⟨.s 3, .s 5, .lit⟩) ∧
    decodeWords 0x0A43C5FC 0 = .ok (.sclz ⟨.s 3, .s 5, .lit⟩) ∧
    decodeWords 0x0A83C5FC 0 = .ok (.sctz ⟨.s 3, .s 5, .lit⟩) ∧
    decodeWords 0x0AC3C5FC 0 = .ok (.sbrev ⟨.s 3, .s 5, .lit⟩) ∧
    decodeWords 0x0B03C5FC 0 = .ok (.sbfx ⟨.s 3, .s 5, .lit⟩) ∧
    decodeWords 0x0B43C5FC 0 = .ok (.sbfxs ⟨.s 3, .s 5, .lit⟩) ∧
    decodeWords 0x0B83C5FC 0 = .ok (.sbfi ⟨.s 3, .s 5, .lit⟩) ∧
    decodeWords 0x0C03C5FC 0 = .ok (.smov ⟨.s 3, .s 5, .lit⟩) ∧
    decodeWords 0x0C43C5FC 0 = .ok (.sseq ⟨.s 3, .s 5, .lit⟩) ∧
    decodeWords 0x0C83C5FC 0 = .ok (.ssne ⟨.s 3, .s 5, .lit⟩) ∧
    decodeWords 0x0CC3C5FC 0 = .ok (.sslts ⟨.s 3, .s 5, .lit⟩) ∧
    decodeWords 0x0D03C5FC 0 = .ok (.ssltu ⟨.s 3, .s 5, .lit⟩) ∧
    decodeWords 0x0D43C5FC 0 = .ok (.ssles ⟨.s 3, .s 5, .lit⟩) ∧
    decodeWords 0x0D83C5FC 0 = .ok (.ssleu ⟨.s 3, .s 5, .lit⟩) :=
  by and_intros <;> rfl

theorem test_decodeVectorInteger :
    decodeWords 0x20288006 0x01C3F245 = .ok (.iadd ⟨⟨true, 2⟩, .i32, .rne, false, .v 6, .v 1, .s 3, .w 2, 0x45⟩) ∧
    decodeWords 0x20688006 0x01C3F245 = .ok (.isub ⟨⟨true, 2⟩, .i32, .rne, false, .v 6, .v 1, .s 3, .w 2, 0x45⟩) ∧
    decodeWords 0x20A88006 0x01C3F245 = .ok (.imul ⟨⟨true, 2⟩, .i32, .rne, false, .v 6, .v 1, .s 3, .w 2, 0x45⟩) ∧
    decodeWords 0x20E88006 0x01C3F245 = .ok (.imulhi ⟨⟨true, 2⟩, .i32, .rne, false, .v 6, .v 1, .s 3, .w 2, 0x45⟩) ∧
    decodeWords 0x21288006 0x01C3F245 = .ok (.imad ⟨⟨true, 2⟩, .i32, .rne, false, .v 6, .v 1, .s 3, .w 2, 0x45⟩) ∧
    decodeWords 0x21688006 0x01C3F245 = .ok (.idiv ⟨⟨true, 2⟩, .i32, .rne, false, .v 6, .v 1, .s 3, .w 2, 0x45⟩) ∧
    decodeWords 0x21A88006 0x01C3F245 = .ok (.irem ⟨⟨true, 2⟩, .i32, .rne, false, .v 6, .v 1, .s 3, .w 2, 0x45⟩) ∧
    decodeWords 0x21E88006 0x01C3F245 = .ok (.imin ⟨⟨true, 2⟩, .i32, .rne, false, .v 6, .v 1, .s 3, .w 2, 0x45⟩) ∧
    decodeWords 0x22288006 0x01C3F245 = .ok (.imax ⟨⟨true, 2⟩, .i32, .rne, false, .v 6, .v 1, .s 3, .w 2, 0x45⟩) ∧
    decodeWords 0x22688006 0x01C3F245 = .ok (.iabs ⟨⟨true, 2⟩, .i32, .rne, false, .v 6, .v 1, .s 3, .w 2, 0x45⟩) ∧
    decodeWords 0x22A88006 0x01C3F245 = .ok (.ineg ⟨⟨true, 2⟩, .i32, .rne, false, .v 6, .v 1, .s 3, .w 2, 0x45⟩) ∧
    decodeWords 0x22E88006 0x01C3F245 = .ok (.isad ⟨⟨true, 2⟩, .i32, .rne, false, .v 6, .v 1, .s 3, .w 2, 0x45⟩) ∧
    decodeWords 0x24288006 0x01C3F245 = .ok (.and ⟨⟨true, 2⟩, .i32, .rne, false, .v 6, .v 1, .s 3, .w 2, 0x45⟩) ∧
    decodeWords 0x24688006 0x01C3F245 = .ok (.or ⟨⟨true, 2⟩, .i32, .rne, false, .v 6, .v 1, .s 3, .w 2, 0x45⟩) ∧
    decodeWords 0x24A88006 0x01C3F245 = .ok (.xor ⟨⟨true, 2⟩, .i32, .rne, false, .v 6, .v 1, .s 3, .w 2, 0x45⟩) ∧
    decodeWords 0x24E88006 0x01C3F245 = .ok (.not ⟨⟨true, 2⟩, .i32, .rne, false, .v 6, .v 1, .s 3, .w 2, 0x45⟩) ∧
    decodeWords 0x25288006 0x01C3F245 = .ok (.shl ⟨⟨true, 2⟩, .i32, .rne, false, .v 6, .v 1, .s 3, .w 2, 0x45⟩) ∧
    decodeWords 0x25688006 0x01C3F245 = .ok (.shr ⟨⟨true, 2⟩, .i32, .rne, false, .v 6, .v 1, .s 3, .w 2, 0x45⟩) ∧
    decodeWords 0x25A88006 0x01C3F245 = .ok (.rol ⟨⟨true, 2⟩, .i32, .rne, false, .v 6, .v 1, .s 3, .w 2, 0x45⟩) ∧
    decodeWords 0x25E88006 0x01C3F245 = .ok (.popc ⟨⟨true, 2⟩, .i32, .rne, false, .v 6, .v 1, .s 3, .w 2, 0x45⟩) ∧
    decodeWords 0x26288006 0x01C3F245 = .ok (.clz ⟨⟨true, 2⟩, .i32, .rne, false, .v 6, .v 1, .s 3, .w 2, 0x45⟩) ∧
    decodeWords 0x26688006 0x01C3F245 = .ok (.brev ⟨⟨true, 2⟩, .i32, .rne, false, .v 6, .v 1, .s 3, .w 2, 0x45⟩) ∧
    decodeWords 0x26A88006 0x01C3F245 = .ok (.bfx ⟨⟨true, 2⟩, .i32, .rne, false, .v 6, .v 1, .s 3, .w 2, 0x45⟩) ∧
    decodeWords 0x26E88006 0x01C3F245 = .ok (.bfi ⟨⟨true, 2⟩, .i32, .rne, false, .v 6, .v 1, .s 3, .w 2, 0x45⟩) ∧
    decodeWords 0x27288006 0x01C3F245 = .ok (.lop3 ⟨⟨true, 2⟩, .i32, .rne, false, .v 6, .v 1, .s 3, .w 2, 0x45⟩) :=
  by and_intros <;> rfl

theorem test_decodeVectorFloat :
    decodeWords 0x28288006 0x01C3F245 = .ok (.fadd ⟨⟨true, 2⟩, .i32, .rne, false, .v 6, .v 1, .s 3, .w 2, 0x45⟩) ∧
    decodeWords 0x28688006 0x01C3F245 = .ok (.fsub ⟨⟨true, 2⟩, .i32, .rne, false, .v 6, .v 1, .s 3, .w 2, 0x45⟩) ∧
    decodeWords 0x28A88006 0x01C3F245 = .ok (.fmul ⟨⟨true, 2⟩, .i32, .rne, false, .v 6, .v 1, .s 3, .w 2, 0x45⟩) ∧
    decodeWords 0x28E88006 0x01C3F245 = .ok (.ffma ⟨⟨true, 2⟩, .i32, .rne, false, .v 6, .v 1, .s 3, .w 2, 0x45⟩) ∧
    decodeWords 0x29288006 0x01C3F245 = .ok (.fmin ⟨⟨true, 2⟩, .i32, .rne, false, .v 6, .v 1, .s 3, .w 2, 0x45⟩) ∧
    decodeWords 0x29688006 0x01C3F245 = .ok (.fmax ⟨⟨true, 2⟩, .i32, .rne, false, .v 6, .v 1, .s 3, .w 2, 0x45⟩) ∧
    decodeWords 0x29A88006 0x01C3F245 = .ok (.fabs ⟨⟨true, 2⟩, .i32, .rne, false, .v 6, .v 1, .s 3, .w 2, 0x45⟩) ∧
    decodeWords 0x29E88006 0x01C3F245 = .ok (.fneg ⟨⟨true, 2⟩, .i32, .rne, false, .v 6, .v 1, .s 3, .w 2, 0x45⟩) ∧
    decodeWords 0x2A288006 0x01C3F245 = .ok (.fdiv ⟨⟨true, 2⟩, .i32, .rne, false, .v 6, .v 1, .s 3, .w 2, 0x45⟩) ∧
    decodeWords 0x2A688006 0x01C3F245 = .ok (.fsqrt ⟨⟨true, 2⟩, .i32, .rne, false, .v 6, .v 1, .s 3, .w 2, 0x45⟩) ∧
    decodeWords 0x2AA88006 0x01C3F245 = .ok (.frint ⟨⟨true, 2⟩, .i32, .rne, false, .v 6, .v 1, .s 3, .w 2, 0x45⟩) ∧
    decodeWords 0x2C288006 0x01C3F245 = .ok (.fexp2 ⟨⟨true, 2⟩, .i32, .rne, false, .v 6, .v 1, .s 3, .w 2, 0x45⟩) ∧
    decodeWords 0x2C688006 0x01C3F245 = .ok (.flog2 ⟨⟨true, 2⟩, .i32, .rne, false, .v 6, .v 1, .s 3, .w 2, 0x45⟩) ∧
    decodeWords 0x2CA88006 0x01C3F245 = .ok (.frcp ⟨⟨true, 2⟩, .i32, .rne, false, .v 6, .v 1, .s 3, .w 2, 0x45⟩) ∧
    decodeWords 0x2CE88006 0x01C3F245 = .ok (.frsq ⟨⟨true, 2⟩, .i32, .rne, false, .v 6, .v 1, .s 3, .w 2, 0x45⟩) ∧
    decodeWords 0x2D288006 0x01C3F245 = .ok (.fsin ⟨⟨true, 2⟩, .i32, .rne, false, .v 6, .v 1, .s 3, .w 2, 0x45⟩) ∧
    decodeWords 0x2D688006 0x01C3F245 = .ok (.fcos ⟨⟨true, 2⟩, .i32, .rne, false, .v 6, .v 1, .s 3, .w 2, 0x45⟩) ∧
    decodeWords 0x2DA88006 0x01C3F245 = .ok (.ftanh ⟨⟨true, 2⟩, .i32, .rne, false, .v 6, .v 1, .s 3, .w 2, 0x45⟩) :=
  by and_intros <;> rfl

theorem test_decodePredicatesConversions :
    decodeWords 0x30288006 0x01C3F245 = .ok (.icmp ⟨⟨true, 2⟩, .i32, .rne, false, .v 6, .v 1, .s 3, .w 2, 0x45⟩) ∧
    decodeWords 0x30688006 0x01C3F245 = .ok (.fcmp ⟨⟨true, 2⟩, .i32, .rne, false, .v 6, .v 1, .s 3, .w 2, 0x45⟩) ∧
    decodeWords 0x30A88006 0x01C3F245 = .ok (.plop ⟨⟨true, 2⟩, .i32, .rne, false, .v 6, .v 1, .s 3, .w 2, 0x45⟩) ∧
    decodeWords 0x30E88006 0x01C3F245 = .ok (.sel ⟨⟨true, 2⟩, .i32, .rne, false, .v 6, .v 1, .s 3, .w 2, 0x45⟩) ∧
    decodeWords 0x31288006 0x01C3F245 = .ok (.voteany ⟨⟨true, 2⟩, .i32, .rne, false, .v 6, .v 1, .s 3, .w 2, 0x45⟩) ∧
    decodeWords 0x31688006 0x01C3F245 = .ok (.voteall ⟨⟨true, 2⟩, .i32, .rne, false, .v 6, .v 1, .s 3, .w 2, 0x45⟩) ∧
    decodeWords 0x31A88006 0x01C3F245 = .ok (.ballot ⟨⟨true, 2⟩, .i32, .rne, false, .v 6, .v 1, .s 3, .w 2, 0x45⟩) ∧
    decodeWords 0x31E88006 0x01C3F245 = .ok (.fclass ⟨⟨true, 2⟩, .i32, .rne, false, .v 6, .v 1, .s 3, .w 2, 0x45⟩) ∧
    decodeWords 0x34288006 0x01C3F245 = .ok (.cvt ⟨⟨true, 2⟩, .i32, .rne, false, .v 6, .v 1, .s 3, .w 2, 0x45⟩) ∧
    decodeWords 0x34688006 0x01C3F245 = .ok (.cvts ⟨⟨true, 2⟩, .i32, .rne, false, .v 6, .v 1, .s 3, .w 2, 0x45⟩) ∧
    decodeWords 0x34A88006 0x01C3F245 = .ok (.mov ⟨⟨true, 2⟩, .i32, .rne, false, .v 6, .v 1, .s 3, .w 2, 0x45⟩) ∧
    decodeWords 0x34E88006 0x01C3F245 = .ok (.ptov ⟨⟨true, 2⟩, .i32, .rne, false, .v 6, .v 1, .s 3, .w 2, 0x45⟩) ∧
    decodeWords 0x35288006 0x01C3F245 = .ok (.vtop ⟨⟨true, 2⟩, .i32, .rne, false, .v 6, .v 1, .s 3, .w 2, 0x45⟩) :=
  by and_intros <;> rfl

theorem test_decodeCrossLane :
    decodeWords 0x38288006 0x01C3F245 = .ok (.shfl ⟨⟨true, 2⟩, .i32, .rne, false, .v 6, .v 1, .s 3, .w 2, 0x45⟩) ∧
    decodeWords 0x38688006 0x01C3F245 = .ok (.shflup ⟨⟨true, 2⟩, .i32, .rne, false, .v 6, .v 1, .s 3, .w 2, 0x45⟩) ∧
    decodeWords 0x38A88006 0x01C3F245 = .ok (.shfldn ⟨⟨true, 2⟩, .i32, .rne, false, .v 6, .v 1, .s 3, .w 2, 0x45⟩) ∧
    decodeWords 0x38E88006 0x01C3F245 = .ok (.shflx ⟨⟨true, 2⟩, .i32, .rne, false, .v 6, .v 1, .s 3, .w 2, 0x45⟩) ∧
    decodeWords 0x39288006 0x01C3F245 = .ok (.redadd ⟨⟨true, 2⟩, .i32, .rne, false, .v 6, .v 1, .s 3, .w 2, 0x45⟩) ∧
    decodeWords 0x39688006 0x01C3F245 = .ok (.redmin ⟨⟨true, 2⟩, .i32, .rne, false, .v 6, .v 1, .s 3, .w 2, 0x45⟩) ∧
    decodeWords 0x39A88006 0x01C3F245 = .ok (.redmax ⟨⟨true, 2⟩, .i32, .rne, false, .v 6, .v 1, .s 3, .w 2, 0x45⟩) ∧
    decodeWords 0x39E88006 0x01C3F245 = .ok (.redand ⟨⟨true, 2⟩, .i32, .rne, false, .v 6, .v 1, .s 3, .w 2, 0x45⟩) ∧
    decodeWords 0x3A288006 0x01C3F245 = .ok (.redor ⟨⟨true, 2⟩, .i32, .rne, false, .v 6, .v 1, .s 3, .w 2, 0x45⟩) ∧
    decodeWords 0x3A688006 0x01C3F245 = .ok (.scanadd ⟨⟨true, 2⟩, .i32, .rne, false, .v 6, .v 1, .s 3, .w 2, 0x45⟩) ∧
    decodeWords 0x3AA88006 0x01C3F245 = .ok (.scanaddx ⟨⟨true, 2⟩, .i32, .rne, false, .v 6, .v 1, .s 3, .w 2, 0x45⟩) ∧
    decodeWords 0x3AE88006 0x01C3F245 = .ok (.scanmax ⟨⟨true, 2⟩, .i32, .rne, false, .v 6, .v 1, .s 3, .w 2, 0x45⟩) ∧
    decodeWords 0x3B288006 0x01C3F245 = .ok (.bcast ⟨⟨true, 2⟩, .i32, .rne, false, .v 6, .v 1, .s 3, .w 2, 0x45⟩) ∧
    decodeWords 0x3C288006 0x01C3F245 = .ok (.merge ⟨⟨true, 2⟩, .i32, .rne, false, .v 6, .v 1, .s 3, .w 2, 0x45⟩) :=
  by and_intros <;> rfl

theorem test_decodeLoadsStores :
    decodeWords 0x601DA608 0xCA5FFFF8 = .ok (.ld ⟨g7, .n32, .rel, .clu, .v 8, .s 10, 2, 0x1FFFF8⟩) ∧
    decodeWords 0x605DA608 0xCA5FFFF8 = .ok (.ldg ⟨g7, .n32, .rel, .clu, .v 8, .s 10, 2, 0x1FFFF8⟩) ∧
    decodeWords 0x609DA608 0xCA5FFFF8 = .ok (.lds ⟨g7, .n32, .rel, .clu, .v 8, .s 10, 2, 0x1FFFF8⟩) ∧
    decodeWords 0x60DDA608 0xCA5FFFF8 = .ok (.ldt ⟨g7, .n32, .rel, .clu, .v 8, .s 10, 2, 0x1FFFF8⟩) ∧
    decodeWords 0x611DA608 0xCA5FFFF8 = .ok (.pref ⟨g7, .n32, .rel, .clu, .v 8, .s 10, 2, 0x1FFFF8⟩) ∧
    decodeWords 0x615DA608 0xCA5FFFF8 = .ok (.stbind ⟨g7, .n32, .rel, .clu, .v 8, .s 10, 2, 0x1FFFF8⟩) ∧
    decodeWords 0x619DA608 0xCA5FFFF8 = .ok (.stsave ⟨g7, .n32, .rel, .clu, .v 8, .s 10, 2, 0x1FFFF8⟩) ∧
    decodeWords 0x61DDA608 0xCA5FFFF8 = .ok (.ldu ⟨g7, .n32, .rel, .clu, .v 8, .s 10, 2, 0x1FFFF8⟩) ∧
    decodeWords 0x621DA608 0xCA5FFFF8 = .ok (.mapset ⟨g7, .n32, .rel, .clu, .v 8, .s 10, 2, 0x1FFFF8⟩) ∧
    decodeWords 0x625DA608 0xCA5FFFF8 = .ok (.mapflush ⟨g7, .n32, .rel, .clu, .v 8, .s 10, 2, 0x1FFFF8⟩) ∧
    decodeWords 0x629DA608 0xCA5FFFF8 = .ok (.mapclr ⟨g7, .n32, .rel, .clu, .v 8, .s 10, 2, 0x1FFFF8⟩) ∧
    decodeWords 0x641DA608 0xCA5FFFF8 = .ok (.st ⟨g7, .n32, .rel, .clu, .v 8, .s 10, 2, 0x1FFFF8⟩) ∧
    decodeWords 0x645DA608 0xCA5FFFF8 = .ok (.stg ⟨g7, .n32, .rel, .clu, .v 8, .s 10, 2, 0x1FFFF8⟩) ∧
    decodeWords 0x649DA608 0xCA5FFFF8 = .ok (.sts ⟨g7, .n32, .rel, .clu, .v 8, .s 10, 2, 0x1FFFF8⟩) ∧
    decodeWords 0x64DDA608 0xCA5FFFF8 = .ok (.stt ⟨g7, .n32, .rel, .clu, .v 8, .s 10, 2, 0x1FFFF8⟩) ∧
    decodeWords 0x651DA608 0xCA5FFFF8 = .ok (.stl ⟨g7, .n32, .rel, .clu, .v 8, .s 10, 2, 0x1FFFF8⟩) :=
  by and_intros <;> rfl

theorem test_decodeAtomics :
    decodeWords 0x681DFC08 0xCA040600 = .ok (.aadd ⟨g7, .n64, .ar, .sys, .v 8, .s 10, .v 4, .v 6⟩) ∧
    decodeWords 0x685DFC08 0xCA040600 = .ok (.amin ⟨g7, .n64, .ar, .sys, .v 8, .s 10, .v 4, .v 6⟩) ∧
    decodeWords 0x689DFC08 0xCA040600 = .ok (.amax ⟨g7, .n64, .ar, .sys, .v 8, .s 10, .v 4, .v 6⟩) ∧
    decodeWords 0x68DDFC08 0xCA040600 = .ok (.aand ⟨g7, .n64, .ar, .sys, .v 8, .s 10, .v 4, .v 6⟩) ∧
    decodeWords 0x691DFC08 0xCA040600 = .ok (.aor ⟨g7, .n64, .ar, .sys, .v 8, .s 10, .v 4, .v 6⟩) ∧
    decodeWords 0x695DFC08 0xCA040600 = .ok (.axor ⟨g7, .n64, .ar, .sys, .v 8, .s 10, .v 4, .v 6⟩) ∧
    decodeWords 0x699DFC08 0xCA040600 = .ok (.axchg ⟨g7, .n64, .ar, .sys, .v 8, .s 10, .v 4, .v 6⟩) ∧
    decodeWords 0x69DDFC08 0xCA040600 = .ok (.acas ⟨g7, .n64, .ar, .sys, .v 8, .s 10, .v 4, .v 6⟩) ∧
    decodeWords 0x6C1DFC08 0xCA040600 = .ok (.radd ⟨g7, .n64, .ar, .sys, .v 8, .s 10, .v 4, .v 6⟩) ∧
    decodeWords 0x6C5DFC08 0xCA040600 = .ok (.rmin ⟨g7, .n64, .ar, .sys, .v 8, .s 10, .v 4, .v 6⟩) ∧
    decodeWords 0x6C9DFC08 0xCA040600 = .ok (.rmax ⟨g7, .n64, .ar, .sys, .v 8, .s 10, .v 4, .v 6⟩) ∧
    decodeWords 0x6CDDFC08 0xCA040600 = .ok (.rand ⟨g7, .n64, .ar, .sys, .v 8, .s 10, .v 4, .v 6⟩) ∧
    decodeWords 0x6D1DFC08 0xCA040600 = .ok (.ror ⟨g7, .n64, .ar, .sys, .v 8, .s 10, .v 4, .v 6⟩) ∧
    decodeWords 0x6D5DFC08 0xCA040600 = .ok (.rxor ⟨g7, .n64, .ar, .sys, .v 8, .s 10, .v 4, .v 6⟩) ∧
    decodeWords 0x701DFC08 0xCA040600 = .ok (.fence ⟨g7, .n64, .ar, .sys, .v 8, .s 10, .v 4, .v 6⟩) ∧
    decodeWords 0x705DFC08 0xCA040600 = .ok (.boinit ⟨g7, .n64, .ar, .sys, .v 8, .s 10, .v 4, .v 6⟩) :=
  by and_intros <;> rfl

theorem test_decodeMatrixAsync :
    decodeWords 0x801D4003 0x00628000 = .ok (.mma ⟨g7, 1, false, true, 3, 0, 6, 10⟩) ∧
    decodeWords 0x805D4003 0x00628000 = .ok (.mmas ⟨g7, 1, false, true, 3, 0, 6, 10⟩) ∧
    decodeWords 0x809D4003 0x00628000 = .ok (.dmma ⟨g7, 1, false, true, 3, 0, 6, 10⟩) ∧
    decodeWords 0x80DD4003 0x00628000 = .ok (.accclr ⟨g7, 1, false, true, 3, 0, 6, 10⟩) ∧
    decodeWords 0x811D4003 0x00628000 = .ok (.accrd ⟨g7, 1, false, true, 3, 0, 6, 10⟩) ∧
    decodeWords 0x815D4003 0x00628000 = .ok (.accwr ⟨g7, 1, false, true, 3, 0, 6, 10⟩) ∧
    decodeWords 0x819D4003 0x00628000 = .ok (.accmv ⟨g7, 1, false, true, 3, 0, 6, 10⟩) ∧
    decodeWords 0x900853F0 0 = .ok (.cpy ⟨some 8, some 20, none⟩) ∧
    decodeWords 0x904853F0 0 = .ok (.cpych ⟨some 8, some 20, none⟩) ∧
    decodeWords 0x908853F0 0 = .ok (.cpyrel ⟨some 8, some 20, none⟩) ∧
    decodeWords 0x90C853F0 0 = .ok (.spqfill ⟨some 8, some 20, none⟩) ∧
    decodeWords 0x910853F0 0 = .ok (.twcpy ⟨some 8, some 20, none⟩) ∧
    decodeWords 0x914853F0 0 = .ok (.subscr ⟨some 8, some 20, none⟩) ∧
    decodeWords 0x918853F0 0 = .ok (.slotrel ⟨some 8, some 20, none⟩) ∧
    decodeWords 0x91C853F0 0 = .ok (.twflip ⟨some 8, some 20, none⟩) ∧
    decodeWords 0x920853F0 0 = .ok (.twset ⟨some 8, some 20, none⟩) ∧
    decodeWords 0x924853F0 0 = .ok (.twclr ⟨some 8, some 20, none⟩) :=
  by and_intros <;> rfl

theorem test_decodeControl :
    decodeWords 0xA01FFFFE 0x00001D48 = .ok (.bra ⟨g7, 0x3FFFE, 29, 0x48⟩) ∧
    decodeWords 0xA05FFFFE 0x00001D48 = .ok (.brs ⟨g7, 0x3FFFE, 29, 0x48⟩) ∧
    decodeWords 0xA09FFFFE 0x00001D48 = .ok (.brz ⟨g7, 0x3FFFE, 29, 0x48⟩) ∧
    decodeWords 0xA0DFFFFE 0x00001D48 = .ok (.breod ⟨g7, 0x3FFFE, 29, 0x48⟩) ∧
    decodeWords 0xA11FFFFE 0x00001D48 = .ok (.brneod ⟨g7, 0x3FFFE, 29, 0x48⟩) ∧
    decodeWords 0xA15FFFFE 0x00001D48 = .ok (.call ⟨g7, 0x3FFFE, 29, 0x48⟩) ∧
    decodeWords 0xA41CAFEA 0 = .ok (.ret ⟨g7, some 10, none, 0x2A⟩) ∧
    decodeWords 0xA45CAFEA 0 = .ok (.exit ⟨g7, some 10, none, 0x2A⟩) ∧
    decodeWords 0xA49CAFEA 0 = .ok (.bar ⟨g7, some 10, none, 0x2A⟩) ∧
    decodeWords 0xA4DCAFEA 0 = .ok (.bargang ⟨g7, some 10, none, 0x2A⟩) ∧
    decodeWords 0xA51CAFEA 0 = .ok (.wait ⟨g7, some 10, none, 0x2A⟩) ∧
    decodeWords 0xA55CAFEA 0 = .ok (.yield ⟨g7, some 10, none, 0x2A⟩) ∧
    decodeWords 0xA59CAFEA 0 = .ok (.spawn ⟨g7, some 10, none, 0x2A⟩) ∧
    decodeWords 0xA5DCAFEA 0 = .ok (.grow ⟨g7, some 10, none, 0x2A⟩) ∧
    decodeWords 0xA61CAFEA 0 = .ok (.shrink ⟨g7, some 10, none, 0x2A⟩) ∧
    decodeWords 0xA65CAFEA 0 = .ok (.boarv ⟨g7, some 10, none, 0x2A⟩) ∧
    decodeWords 0xA69CAFEA 0 = .ok (.bowait ⟨g7, some 10, none, 0x2A⟩) ∧
    decodeWords 0xA6DCAFEA 0 = .ok (.qpush ⟨g7, some 10, none, 0x2A⟩) ∧
    decodeWords 0xA71CAFEA 0 = .ok (.qpop ⟨g7, some 10, none, 0x2A⟩) ∧
    decodeWords 0xA75CAFEA 0 = .ok (.qcreate ⟨g7, some 10, none, 0x2A⟩) ∧
    decodeWords 0xA79CAFEA 0 = .ok (.nop ⟨g7, some 10, none, 0x2A⟩) ∧
    decodeWords 0xA81CAFEA 0 = .ok (.crrd ⟨g7, some 10, none, 0x2A⟩) ∧
    decodeWords 0xA85CAFEA 0 = .ok (.crwr ⟨g7, some 10, none, 0x2A⟩) ∧
    decodeWords 0xA89CAFEA 0 = .ok (.trap ⟨g7, some 10, none, 0x2A⟩) ∧
    decodeWords 0xA8DCAFEA 0 = .ok (.tret ⟨g7, some 10, none, 0x2A⟩) ∧
    decodeWords 0xA91CAFEA 0 = .ok (.lkline ⟨g7, some 10, none, 0x2A⟩) ∧
    decodeWords 0xA95CAFEA 0 = .ok (.ulkline ⟨g7, some 10, none, 0x2A⟩) ∧
    decodeWords 0xA99CAFEA 0 = .ok (.clrpois ⟨g7, some 10, none, 0x2A⟩) ∧
    decodeWords 0xA9DCAFEA 0 = .ok (.clwb ⟨g7, some 10, none, 0x2A⟩) ∧
    decodeWords 0xAA1CAFEA 0 = .ok (.clinv ⟨g7, some 10, none, 0x2A⟩) :=
  by and_intros <;> rfl

theorem test_decodeHeapFitting :
    decodeWords 0xC01C1A02 0x01200008 = .ok (.hldField ⟨g7, .i8, .acq, .dev, .v 2, .v 1, 1, 8⟩) ∧
    decodeWords 0xC01C1A02 0x01000008 = .ok (.hldSlot ⟨g7, .i8, .acq, .dev, .v 2, .v 1, 0, 8⟩) ∧
    decodeWords 0xC05C1A02 0x01200008 = .ok (.hstField ⟨g7, .i8, .acq, .dev, .v 2, .v 1, 1, 8⟩) ∧
    decodeWords 0xC05C1A02 0x01000008 = .ok (.hstSlot ⟨g7, .i8, .acq, .dev, .v 2, .v 1, 0, 8⟩) ∧
    decodeWords 0xC09C1A02 0x01000003 = .ok (.hfld ⟨g7, .i8, .acq, .dev, .v 2, .v 1, 0, 3⟩) ∧
    decodeWords 0xC0DC1A02 0x01000003 = .ok (.hstr ⟨g7, .i8, .acq, .dev, .v 2, .v 1, 0, 3⟩) ∧
    decodeWords 0xC11C1A02 0x01000003 = .ok (.hpin ⟨g7, .i8, .acq, .dev, .v 2, .v 1, 0, 3⟩) ∧
    decodeWords 0xC15C1A02 0x01000003 = .ok (.hunpin ⟨g7, .i8, .acq, .dev, .v 2, .v 1, 0, 3⟩) ∧
    decodeWords 0xC19C1A02 0x01000003 = .ok (.htnull ⟨g7, .i8, .acq, .dev, .v 2, .v 1, 0, 3⟩) ∧
    decodeWords 0xC1DC1A02 0x01000003 = .ok (.hteq ⟨g7, .i8, .acq, .dev, .v 2, .v 1, 0, 3⟩) ∧
    decodeWords 0xC21C1A02 0x01000002 = .ok (.hmovFromRef ⟨g7, .i8, .acq, .dev, .v 2, .v 1, 0, 2⟩) ∧
    decodeWords 0xC21C1A02 0x01000000 = .ok (.hmovRef ⟨g7, .i8, .acq, .dev, .v 2, .v 1, 0, 0⟩) ∧
    decodeWords 0xC21C1A02 0x01000001 = .ok (.hmovToRef ⟨g7, .i8, .acq, .dev, .v 2, .v 1, 0, 1⟩) ∧
    decodeWords 0xC41C000C 0x08140123 = .ok (.apxb ⟨g7, 12, .v 8, .v 20, .v 1, 0x23⟩) ∧
    decodeWords 0xC45C000C 0x08140123 = .ok (.apxe ⟨g7, 12, .v 8, .v 20, .v 1, 0x23⟩) ∧
    decodeWords 0xC4A88006 0x01C3F245 = .ok (.apxinv ⟨⟨true, 2⟩, .i32, .rne, false, .v 6, .v 1, .s 3, .w 2, 0x45⟩) ∧
    decodeWords 0xC4E88006 0x01C3F245 = .ok (.apxstat ⟨⟨true, 2⟩, .i32, .rne, false, .v 6, .v 1, .s 3, .w 2, 0x45⟩) :=
  by and_intros <;> rfl
/-! ### Single steps; the results are the spec's own or worked by hand from its rules -/

/-- The state after one instruction, the same state where it stops. -/
def after (i : Instr) (s : State) : State := match exec i s with
  | .next t => t
  | _ => s
/-- Vector registers of thread 0 from a list. -/
def withV (l : List (Nat × Word32)) : State := withG (fun g => l.foldl (fun g e => g.setV e.1 0 e.2) g)

def rr : FmtU := ⟨.s 5, .s 1, .s 2⟩

/-- Sums wrap, and the high half of a signed product takes its sign. -/
theorem test_scalarWraps : ((after (.sadd rr) (withS [(1, 0xFFFFFFFFFFFFFFFF), (2, 1)])).cg.sreg 5, (after (.smulhs rr) (withS [(1, 0xFFFFFFFFFFFFFFFF), (2, 2)])).cg.sreg 5,
    (after (.smulhu rr) (withS [(1, 0xFFFFFFFFFFFFFFFF), (2, 2)])).cg.sreg 5) = (0, 0xFFFFFFFFFFFFFFFF, 1) := by decide +kernel

/-- Division by zero gives all ones and the dividend as remainder; the one overflowing division gives the dividend. -/
theorem test_scalarDivides : ((after (.sdivs rr) (withS [(1, 7)])).cg.sreg 5, (after (.sremu rr) (withS [(1, 7)])).cg.sreg 5,
    (after (.sdivs rr) (withS [(1, 0x8000000000000000), (2, 0xFFFFFFFFFFFFFFFF)])).cg.sreg 5, (after (.srems rr) (withS [(1, 0xFFFFFFFFFFFFFFF9), (2, 2)])).cg.sreg 5) =
    (0xFFFFFFFFFFFFFFFF, 7, 0x8000000000000000, 0xFFFFFFFFFFFFFFFF) := by decide +kernel

/-- The steps of the spec's example of an address in s10. -/
theorem test_addressExample : ((after (.sshl rr) (withS [(1, 0xFE), (2, 0x38)])).cg.sreg 5, (after (.sor rr) (withS [(1, 0xFE00000000000000), (2, 0x12340)])).cg.sreg 5) =
    (0xFE00000000000000, 0xFE00000000012340) := by decide +kernel

/-- A saturating 8-bit sum stops at 127; without SAT it wraps. -/
theorem test_iaddSaturates : ((after (.iadd { vf .i8 (.v 4) (.v 0) 0 with sat := true }) (withV [(2, 100), (4, 100)])).cg.vreg 8 0,
    (after (.iadd (vf .i8 (.v 4) (.v 0) 0)) (withV [(2, 100), (4, 100)])).cg.vreg 8 0, (after (.isad (vf .i32 (.v 4) (.v 6) 0)) (withV [(2, 3), (4, 10), (6, 5)])).cg.vreg 8 0) =
    (127, 0xFFFFFFC8, 12) := by decide +kernel

/-- A source that is also the destination is read first. -/
theorem test_sourceIsDestination : (after (.imad { vf .i32 (.v 8) (.v 8) 0 with sa := .v 8 }) (withV [(8, 5)])).cg.vreg 8 0 = 30 := by decide +kernel

/-- Ties go to even (1 + 2^-24 and 1 + 3·2^-24), and the fused product rounds once. -/
theorem test_floatTies : ((after (.fadd (vf .f32 (.v 4) (.v 0) 0)) (withV [(2, 0x3F800000), (4, 0x33800000)])).cg.vreg 8 0,
    (after (.fadd (vf .f32 (.v 4) (.v 0) 0)) (withV [(2, 0x3F800001), (4, 0x33800000)])).cg.vreg 8 0,
    (after (.ffma (vf .f32 (.v 4) (.v 6) 0)) (withV [(2, 0x3F800001), (4, 0x3F800001), (6, 0xBF800002)])).cg.vreg 8 0,
    (after (.fdiv (vf .f32 (.v 4) (.v 0) 0)) (withV [(2, 0x3F800000), (4, 0x40400000)])).cg.vreg 8 0) = (0x3F800000, 0x3F800002, 0x28800000, 0x3EAAAAAB) := by decide +kernel

def cvt32 (dt : Ty) (x : Word32) : Word32 := (after (.cvt (cvtf dt 9 .rne)) (withV [(2, x)])).cg.vreg 8 0

/-- One third, 70000 and infinities in the smaller formats (the spec's table of conversions). -/
theorem test_conversions : ([Ty.bf16, .f16, .e4m3, .e5m2].map (fun dt => cvt32 dt 0x3EAAAAAB), cvt32 .f16 0x4788B800, cvt32 .e4m3 0x4788B800, cvt32 .e4m3 0xFF800000, cvt32 .e2m1 0x7FC00000) =
    ([0x3EAB, 0x3555, 0x2B, 0x35], 0x7C00, 0x7E, 0xFE, 0) := by decide +kernel

/-- 0.6 and 200.5 as in the example of R232: the second is a tie, kept even. -/
theorem test_bf16 : (cvt32 .bf16 0x3F19999A, cvt32 .bf16 0x43488000) = (0x3F1A, 0x4348) := by decide +kernel

/-- A three-input logic operation with the majority table, and a bit field inserted. -/
theorem test_bits : ((after (.lop3 (vf .n32 (.v 4) (.v 6) 0xE8)) (withV [(2, 0xF0), (4, 0xCC), (6, 0xAA)])).cg.vreg 8 0, (after (.popc (vf .n32 (.v 0) (.v 0) 0)) (withV [(2, 0xF0F0)])).cg.vreg 8 0,
    (after (.clz (vf .n32 (.v 0) (.v 0) 0)) (withV [(2, 0)])).cg.vreg 8 0, (after (.brev (vf .n32 (.v 0) (.v 0) 0)) (withV [(2, 1)])).cg.vreg 8 0) = (0xE8, 8, 32, 0x80000000) := by decide +kernel

/-- A store's four bytes land least significant first, and a load of them returns the word. -/
theorem test_byteOrder : (((base.wrN 0x20000 (leBytes 4 0x11223344)).rdN 0x20000 4).map BitVec.toNat) = [0x44, 0x33, 0x22, 0x11] := by decide +kernel

/-- The stochastic generator's state after one draw from 1 (R93), and after one from 2. -/
theorem test_generator : (srNext 1, srNext 2) = (0x80200003, 1) := by decide +kernel

/-- The worked chain of R232: times 2 (MULK with K0 = 2.0), then the larger of that and +0 (MAXK with K1), to bf16. -/
def chain : List Word64 := [0x9B20000000000000, 0x24001000, 0, 0x40000000]
theorem test_chainExample : [0x3FC00000, 0xC0400000, 0x3E99999A, 0x42C88000].map (fun x =>
    (chainConvert chain (chainHead 0x9B20000000000000) 0 (leBytes 4 x)).1) = [leBytes 2 0x4040, leBytes 2 0, leBytes 2 0x3F1A, leBytes 2 0x4348] := by decide +kernel

/-- A branch that all threads take: the target counts in words from the clause header (R159). -/
theorem test_braTarget : (after (.bra (bf g1)) (withP 0xFFFFFFFF)).cf.hdr = 0x10034 := by decide +kernel

/-- A load from an odd address traps as MISALIGNED (code 6) with that address; the table entry of the code gives the handler. -/
theorem test_ldMisaligned : (let t := after (.ld (mf (.v 8) (.s 10) 1)) ((mem.modGroup 0 (fun g => { g with tvec := 0x10001 })).wr 0x10030 8 0x20000)
    (t.cg.tlevel, t.cg.bank1.cause.toNat % 64, t.cg.bank1.val, (t.cg.frag 1).hdr)) = (1, 6, 0x10001, 0x20000) := by decide +kernel

/-- A load of a line of another coherence domain takes DATA_POISON (code 30), and the line is poisoned from then on. -/
theorem test_crossDomainLoad : (let t := after (.ldg (mf (.v 8) (.s 10) 8)) ((divided.modGroup 0 (fun g => { g with tvec := 0x20001 })).wr (0x20000 + 8 * 30) 8 0x20000)
    (t.cg.bank1.cause.toNat % 64, t.cg.bank1.val, t.poison)) = (30, 0x10008, [0x200]) := by decide +kernel

/-- A DOB file of two clauses, NOP and EXIT (R140, R279 to R283): a group of one granule; an entry at the procedure's start and
one at EXIT, which can hold. -/
def dob (magic hold : Nat) : List Byte :=
  leBytes 4 magic ++ leBytes 2 1 ++ leBytes 2 0 ++ leBytes 4 4 ++ leBytes 4 0 ++ leBytes 8 32 ++ leBytes 8 0 ++
  ([(1, 128, 16), (16, 144, 32), (17, 176, 16), (18, 192, 8)].map (fun e => leBytes 8 e.1 ++ leBytes 8 e.2.1 ++ leBytes 8 e.2.2)).flatten ++
  ([0x1BC38000, 0xA79C0000, 0x1BC38000, 0xA45C0000].map (leBytes 4)).flatten ++
  leBytes 16 (2 ^ 32) ++ leBytes 16 (hold + 16 * 2 + 2 ^ 34) ++ leBytes 16 0 ++ leBytes 8 (2 ^ 60 + 2 ^ 31)

def codeOf : Except Nat Image → Nat × Nat
  | .ok i => (0, i.vgran)
  | .error c => (c, 0)

/-- The file loads; with another MAGIC it fails check 1, and with its second entry at a word that starts no instruction check 3
(R285). -/
theorem test_loader : (codeOf (loadDob 0 0x10000 0 (dob 0x31424F44 0)), codeOf (loadDob 0 0x10000 0 (dob 0x31424F45 0)),
    codeOf (loadDob 0 0x10000 0 (dob 0x31424F44 1))) = ((0, 1), (1, 0), (3, 0)) := by decide +kernel

/-! ### Hypotheses of clauses beside those above -/

theorem wit_exactFunctions : (-149 : Int) ≤ -149 ∧ (127 : Int) ≤ 127 ∧ (∀ a ∈ [0x40400000, 0xC0400000, 1], ∃ s m e, fmt32.decode a = .fin s m e ∧ m ≠ 0) ∧ specialFn 0 0x40000000 = 0x40800000 ∧
    specialFn 1 0x40800000 = 0x40000000 ∧ specialFn 2 0xC0800000 = 0xBE800000 :=
  ⟨by decide, by decide, fun a h => (by
    simp only [List.mem_cons, List.not_mem_nil, or_false] at h
    obtain rfl | rfl | rfl := h
    · exact ⟨false, 12582912, -22, by decide +kernel, by decide⟩
    · exact ⟨true, 12582912, -22, by decide +kernel, by decide⟩
    · exact ⟨false, 1, -149, by decide +kernel, by decide⟩), by decide +kernel, by decide +kernel, by decide +kernel⟩

theorem wit_twinSlots : twins.twinBusy twins.cw.who ⟨false, 1⟩ false = none ∧ (mem.storeAt .global 0x10000).1 = some 0x10000 ∧
    (∀ x, mem.fate mem.cw.who 0x10000 false = .ok x → x.sh = false → mem.snoopBusy x.pa 1 false = false) ∧ maps.CanIssue (.mapset (mapf .zero)) ∧
    (7 : Nat) < 8 ∧ (0 : Nat) < 2 ^ 512 :=
  ⟨rfl, by decide +kernel, fun x h _ => (by
    rw [show mem.fate mem.cw.who 0x10000 false = .ok (xlat 0x10000) by decide +kernel] at h
    cases h
    decide +kernel), can (by decide +kernel), by decide, Nat.two_pow_pos 512⟩

/-- A twin slot of the workgroup that is flipping, or which commands still read. -/
def twinWith (t : Twin) (w : Wait) : State := (cmds.modWg 0 (fun w => { w with twins := [(1, t)] })).modGroup 0 (fun g => g.modFrag 0 (fun f => { f with wait := w }))
def twin1 : Twin := { base0 := 0x100, base1 := 0x200, size := 0x80 }
/-- The context's global twin table is at 0x10000. -/
def globalTwins : State := base.wr 120 8 0x10000

theorem wit_twinCommands : cmds.TwinIs (designator (2 ^ 32)) {} ∧ cmds.TwinWritable (designator (2 ^ 32)) ∧
    (∀ w ∈ [Wait.none, .clear false 1, .flip false 1], (twinWith twin1 w).CanIssue (.twclr (af (some 16) none none)) ∧ (twinWith twin1 w).CanIssue (.twflip (af (some 16) none none)) ∧
      (twinWith twin1 w).TwinIs ⟨false, 1⟩ twin1 ∧ (twinWith twin1 w).TwinWritable ⟨false, 1⟩ ∧ (twinWith twin1 w).cf.wait = w) ∧
    (twinWith { twin1 with flipping := true } .none).TwinIs ⟨false, 1⟩ { twin1 with flipping := true } ∧ (twinWith { twin1 with pend := 1 } .none).TwinIs ⟨false, 1⟩ { twin1 with pend := 1 } ∧
    (∃ w, twinned.wg? twinned.cg.wid = some w) ∧ SMap.wf {} twinned.cw.twins = true ∧
    globalTwins.tableFate globalTwins.cw.who (globalTwins.twinVa globalTwins.cw.who.ctx 3) = .ok (xlat 0x10060) ∧ (xlat 0x10060).dirty = none ∧ SMap.wf 0 globalTwins.mem = true :=
  ⟨⟨rfl, okIs (by decide +kernel)⟩, ⟨rfl, rfl⟩, fun w h => ⟨can (by revert w; decide +kernel), can (by revert w; decide +kernel), ⟨rfl, okIs (by revert w; decide +kernel)⟩, ⟨rfl, rfl⟩, by revert w; decide +kernel⟩,
    ⟨rfl, okIs (by decide +kernel)⟩, ⟨rfl, okIs (by decide +kernel)⟩, ⟨_, rfl⟩, by decide +kernel, by decide +kernel, rfl, by decide +kernel⟩

/-- A second group of the workgroup, with threads of its own. -/
def twoGroups : State := { base with groups := base.groups ++ [{ base.cg with gid := 1, frags := [{ base.cf with fid := 0 }] }], nextId := 9 }

theorem bar_none (w : Workgroup) (h : w.bars = []) (n : Nat) : (w.bar n).isOpen = false := by rw [Workgroup.bar, h]; rfl

theorem wit_exits : (∀ s ∈ [withP 0xFF, twoGroups, base], s.cg.tlevel = 0 ∧ (∀ h ∈ s.cg.frags, h.serial = [] ∧ h.chain = [] ∧ h.wait ≠ .fuse) ∧ s.cw.bars = [] ∧ s.gangs = [] ∧ s.growers s.cg = [] ∧
      (∀ g ∈ s.groups, g.gid = s.cur.gid → g = s.cg) ∧ (s.wg? s.cg.wid).isSome = true ∧ s.gmask g7 ≠ 0 ∧ s.cg.sideLog = []) ∧
    twoGroups.CanIssue (.exit (cc (some 0))) ∧ twoGroups.lastGroup = false ∧ twoGroups.cg.liveMask &&& ~~~twoGroups.gmask g7 = 0 ∧ (twoGroups.ctx? twoGroups.cw.ctx).bind (·.change) = none ∧
    base.lastGroup = true ∧ base.flushMaps = .ok base ∧ base.group? base.cur.gid = some base.cg ∧
    (let ended (s : State) : State := (s.goto s.nextClause).modCg (fun g => ((g.endThreads (s.gmask g7)).leaveEmpty 2).close)
     (ended base).cg.frags = [] ∧ (ended base).lastGroup = true ∧ ((withP 0xFF).goto (withP 0xFF).nextClause).cg.frags ≠ []) :=
  ⟨by decide +kernel, can (by decide +kernel), by decide +kernel, by decide +kernel, by decide +kernel, by decide +kernel, okIs (by decide +kernel), by decide +kernel, by decide +kernel⟩

/-- The fragment has arrived at this barrier, and all its workgroup's threads with it. -/
def arrivedAt (w a : Wait) (n : Nat) : State :=
  { (withG (fun g => { g with frags := g.frags.map (fun f => { f with wait := w, arrived := some a }) })).modWg 0 (fun v => { v with bars := [(1, { arrived := n, isOpen := true })] }) with
    gangs := [{ rcb := base.cw.rcb, num := base.cw.gang, bars := [(1, { arrived := n, isOpen := true })] }] }

theorem wit_barriersMet : (withP 0).CanIssue (.bar { fc 0x01 with g := g1 }) ∧ (withP 0).CanIssue (.bargang { fc 0x01 with g := g1 }) ∧ (withP 0).gmask g1 = 0 ∧ (withP 0).cf.arrived = none ∧
    (arrivedAt .none (.bar 1) 32).CanIssue (.bar (fc 1)) ∧ (arrivedAt .none (.gang 1) 32).CanIssue (.bargang (fc 1)) ∧ (arrivedAt .none .none 0).CanIssue (.bar (fc 1)) ∧
    (arrivedAt .none .none 0).CanIssue (.bargang (fc 1)) ∧ ((fc 1).imm.getLsbD 4 = false) ∧
    (let s := arrivedAt (.bar 1) (.bar 1) 32
     s.wg? 0 = some (s.wg 0) ∧ SMap.wf {} (s.wg 0).bars = true ∧ ((s.wg 0).bar 1).isOpen = true ∧ s.liveThreads 0 ≤ ((s.wg 0).bar 1).arrived ∧ s.cf.serial = [] ∧ s.cf.clause.isSome = true ∧
       ((arrivedAt (.bar 1) (.bar 1) 31).wg 0 |>.bar 1).arrived < s.liveThreads 0) ∧
    (let s := arrivedAt (.gang 1) (.gang 1) 32
     ∃ x, s.gangs.find? (fun x => x.rcb == s.cw.rcb && x.num == s.cw.gang) = some x ∧ SMap.wf {} x.bars = true ∧ (x.bar 1).isOpen = true ∧ s.gangThreads s.cw.rcb s.cw.gang ≤ (x.bar 1).arrived ∧
       31 < s.gangThreads s.cw.rcb s.cw.gang) ∧ base.gangs.find? (fun x => x.rcb == 0 && x.num == 7) = none := by
  and_intros
  all_goals first | decide +kernel | exact can (by decide +kernel)

/-- A fragment that waits at a WAIT and has a parked path. -/
def parkedPath : State := (withG (fun g => { g with flights := [{ path := 0, kind := .load }] })).modGroup 0 (fun g =>
  g.modFrag 0 (fun f => { f with mask := 0xF, chain := [0], serial := [⟨0, 0xF0, 0x10040, 0, 0, 0, 0, .running, [], .none, [], 0⟩] }))
/-- The group waits for 4 granules of its vector side, of which its partition still has this budget. -/
def growing (budget : Nat) : State := ((withG (fun g => { g with vside := 4, mside := 0 })).modGroup 0 (fun g => g.modFrag 0 (fun f => { f with wait := .grow 4 false }))).wr 16 8 (budget * 2 ^ 28)

theorem wit_poolSettles : parkedPath.CanIssue (.wait (fc 0)) ∧ min (parkedPath.sregOr 0 (some 0)).toNat 63 < parkedPath.cg.inflight 0 ∧ (parkedPath.cf.swap .none).isSome = true ∧
    (∀ b ∈ [0, 100], let s := growing b
      s.growers s.cg = [(s.cg, s.cf, 4, false)] ∧ s.growFirst (s.growers s.cg) = some (s.cg, s.cf, 4, false) ∧ s.growLast (s.growers s.cg) = some (s.cg, s.cf, 4, false) ∧ s.cg.side false + 4 ≤ sideLimit false ∧
      s.cg.stopped s.cf = false ∧ ∀ j ∈ s.groups, s.samePart s.cg j = true → j.frags ≠ [] → j.growBlocked = true ∧ s.doomedWg (s.wg j.wid) = false) ∧
    (growing 100).granFree ((growing 100).wg 0).rcb 4 = true ∧ (growing 0).granFree ((growing 0).wg 0).rcb 4 = false ∧
    4 ≤ 128 - (((growing 100).groups.filter (fun j => (growing 100).samePart (growing 100).cg j)).map (fun j => j.vside + j.mside)).sum ∧
    (let s : State := { growing 0 with groups := (growing 0).groups ++ [{ base.cg with gid := 1 }] }
     s.growers s.cg = [(s.cg, s.cf, 4, false)] ∧ ∃ j ∈ s.groups, s.samePart s.cg j = true ∧ j.frags ≠ [] ∧ (j.growBlocked = false ∨ s.doomedWg (s.wg j.wid) = true)) := by
  refine ⟨can (by decide +kernel), by decide +kernel, by decide +kernel, fun b h => ?_, ?_⟩
  · and_intros <;> revert b <;> decide +kernel
  · and_intros <;> decide +kernel

theorem wit_waveRows : SMap.wf 0 (wave 1 0 true false).mem = true ∧ (wave 1 0 true false).rcbDepth (wave 1 0 true false).cw.rcb < 4 := by and_intros <;> decide +kernel

/-- The object at 0x20008 is not among those that move with their page. -/
theorem wit_pinsAbsent : (moved 0).pinOne 16 0x4000000000020008 = .no ∧ heap.onManaged 0x20000 = .ok pinPage ∧ heap.wordStop 0x20000 pinPage false = none ∧
    (moved 0).wordStop 0x20000 { xlat 0x20000 with mg := true, pw := 0x30000, leafBase := 0x20000 } false = none ∧ SMap.wf 0 heap.mem = true ∧ (5 : Nat) < 2 ^ 64 :=
  ⟨by decide +kernel, okIs (by decide +kernel), by decide +kernel, by decide +kernel, by decide +kernel, by decide⟩

theorem wit_walks : (paged 0 0 0 0 0 0).walkBoth 0 5 0x50008 .write = .ok { pa := 0x70008, gpa := 0x70008, w := true, x := true, sh := false, mg := false, pw := 0, leafBase := 0x50000, leafSize := 0x10000 } ∧
    base.cw.who.place.die < 4 ∧ 0x10000 % 65536 = 0 ∧ 0x70008 % 0x10000 = 0x50008 % 0x10000 ∧
    (withG (fun g => { g with bank1 := { g.bank1 with posted := some (0, 4) } })).cg.bank1.posted = some (0, 4) ∧ base.cf.wait.external = false ∧
    (∃ w, base.lastReady (cmd1 .copy (.win 0x1000) [(0, 32)]) [] = .ok w) := by
  and_intros
  all_goals first | exact okIs (by decide +kernel) | exact ready1 (by decide +kernel) | decide +kernel

theorem wit_fatalSnoops : ({ holding with boot := { holding.boot with fatal := some (0, 5) } } : State).boot.fatal ≠ none ∧ ({ base with fitting := .l } : State).fitting = .l ∧ (3 : Nat) < 4 := by
  and_intros <;> decide +kernel

theorem wit_controlWrites : ((plain 0x40).canIssueB (.crwr crn) && (plain 0x42).canIssueB (.crwr crn) && (withS [(2, 0x40)]).canIssueB (.crwr crn) && (withS [(2, 0x42)]).canIssueB (.crwr crn)) = true ∧
    (plain 0x40).crNumber crn = 0x40 ∧ (plain 0x42).crNumber crn = 0x42 ∧ (plain 0x40).cur.mule = false ∧
    ([(3 : BitVec 6), 4, 0x10, 0x1B, 0x1F].all (fun n => (plain 0).canIssueB (.crwr (crf n)))) = true ∧
    ([0, 2, 5, 15, 0x14, 0x17, 0x1C, 0x1E, 0x20, 0x3F, 0x43, 0xFFF].all (fun n => (plain (n64 n)).canIssueB (.crwr crn) && (plain (n64 n)).crNumber crn == n)) = true := by
  and_intros <;> decide +kernel

/-- Extent 0 of a CB7-L is being scrubbed; receipts go to 0x80000000 and events to the ring of the machine's block at 0x50000000. -/
def scrubbing : State :=
  { wrs ((((extentAt 0 3).setBar physFn 0x160 0x80000000).setBar physFn 0x100 0x50000000)) [] with scrubs := [(0, 9)] }

theorem wit_scrubs : scrubbing.scrubs.find? (fun e => e.1 == 0) = some (0, 9) ∧ SMap.wf 0 scrubbing.mem = true ∧ scrubbing.heldEvents = [] ∧ scrubbing.extentBase 0 = 0 ∧
    scrubbing.lineIn 0 0x1000 = true ∧ scrubbing.retired.contains (0x1000 / 512) = false ∧ scrubbing.barReg physFn 0x160 = 0x80000000 ∧ scrubbing.fnBlock physFn + 48 + 16 ≤ 0x80000000 ∧ 2 ^ 30 ≤ scrubbing.fnBlock physFn + 48 ∧
    (scrubbing.ring (scrubbing.fnBlock physFn + 48)).base + 32 * ((scrubbing.ring (scrubbing.fnBlock physFn + 48)).tail % 2 ^ (scrubbing.ring (scrubbing.fnBlock physFn + 48)).logn) + 32 ≤ 0x80000000 := by
  and_intros <;> decide +kernel

def drawn (p : Power) : State := { base with power := { p with hist := [500] } }

theorem wit_delays : (let x : Tether := tether1
     let s := drawn { tether := some x, left := 5, slot := 2, ballast := 100 }
     s.power.tether = some x ∧ 0 < s.power.left ∧ s.power.delay = none ∧ s.power.used = false ∧ 0 < s.power.slot * x.slotw ∧ s.emergency = false ∧ 0 < s.power.ballast ∧ max s.drawLow s.lastDraw < 900) ∧
    (let s := drawn { ballast := 0 }
     s.lastDraw = 500 ∧ s.drawLow = 490) ∧ (drawn {}).pcap = 3200 := by and_intros <;> decide +kernel

theorem wit_starts : base.boot.minimal = false ∧ base.boot.ended = false ∧ ({ base with boot := { base.boot with stage := 6, starts := 1 }, clock := n64 (30 * 1400000000) } : State).boot.minimal = false ∧
    physFn = 64 ∧ (16 : Nat) ≤ 64 := by and_intros <;> decide +kernel

/-- The fragment's clause is a WAIT at whose path a load is outstanding. -/
def heldAt (n : Nat) : State := (withG (fun g => { g with flights := (List.range n).map (fun _ => { path := 0, kind := .load }) })).modGroup 0 (fun g =>
  g.modFrag 0 (fun f => { f with wait := .counter, clause := some (oneClause ((encode (.wait (fc 0))).getD 0 0) 0) }))

theorem wit_choices : (heldAt 1).heldStill (theGroup (heldAt 1)) (heldAt 1).cf = true ∧ (heldAt 0).heldStill (theGroup (heldAt 0)) (heldAt 0).cf = false ∧ base.heldStill (theGroup base) base.cf = false ∧
    (heldAt 0).mustYield (theGroup (heldAt 0)) (heldAt 0).cf = false := by and_intros <;> decide +kernel

/-- As `tenanted`, with a well-formed packet of the tenant at HEAD, its code in the CODETAB at 0x62000, and extent 0 its own. -/
def accepted : State :=
  { wrs (({ base with fitting := .l }.setBar physFn 0x148 0x61000).setBar physFn 0x150 0x63000)
      [(80, 0x50000), (0x10000, 0x11000 + 4 * 2 ^ 60), (0x10008, 1), (0x11000, 0x4B505443 + 2 ^ 32 + 2 ^ 48), (0x11008, 240), (0x11010, 1), (0x11018, 77), (0x11020, 9), (0x11040, 5), (0x11080, 1), (0x11088, 0x10100),
       (0x61000, 77), (0x61008, 2 ^ 16), (0x61010, 0x10000), (0x61020, 0x62000), (0x62000, 9), (0x62020, 0x10000), (0x63000, 2 * 2 ^ 50), (0x63008, 77), (0x63010, 5)] with taskTails := [(0, 1)] }
def packet1 : List Byte := accepted.rdN 0x11000 4096

/-- The packet is accepted if its signature verifies: whether SM2 accepts a signature is a free value of the model (log 53). -/
theorem wit_acceptedPacket (h : Config.sm2Verify (BitVec.ofNat 512 (accepted.rd (accepted.tenantRec 0 + 64) 64)) (packet1.take 176)
      (BitVec.ofNat 512 (leNat ((packet1.drop 176).take 64))) = true) :
    accepted.packetCheck 0 packet1 = .ok (0, 0x10000, 0) ∧ accepted.waveSlot (accepted.tenantCtx 0) = some 0x50000 ∧ accepted.tabHold 0 packet1 = none ∧ accepted.tenantAt 0 0x11000 4096 true = .ok 0x11000 ∧
    accepted.tenantAt 0 (accepted.tenantRing 0) 16 true = .ok 0x10000 ∧ (∀ x ∈ accepted.tasks, x.rcb ≠ 0x50000) ∧ SMap.wf 0 accepted.mem = true := by
  refine ⟨?_, by decide +kernel, by decide +kernel, okIs (by decide +kernel), okIs (by decide +kernel), by decide +kernel, by decide +kernel⟩
  rw [State.packetCheck]
  have k : accepted.keyFor (accepted.tenantRing 0) (packetAt packet1).tenant = some 0 := by decide +kernel
  have t : (packetAt packet1).tlen - 64 = 176 := by decide +kernel
  have w : (packetAt packet1).wellFormed = true := by decide +kernel
  have q : ¬(packetAt packet1).seq ≤ accepted.rd (accepted.tenantRec 0 + 24) 8 := by decide +kernel
  have c : accepted.codeByDigest (fld (accepted.rd (accepted.tenantRec 0 + 32) 8) 0 57) (packetAt packet1).code 64 0 = some (0x10000, 0) := by decide +kernel
  simp only [k, t, w, q, c, h, Bool.not_true, Bool.false_eq_true, if_false]
  exact okIs (by decide +kernel)
end Sys2Proof.Tests
end

section
/-! Start-up, fatal errors, dumps, attestation and plain registers (R6, R391, R396 to R402): how each event of this group moves
the machine, and the statement about them. -/

namespace Sys2Proof

/-- Dropping entries by their keys leaves the values of the keys that stay; the others read as unlisted. -/
theorem SMap.get_filter_key {α : Type} (d : α) (p : Nat → Bool) (m : SMap α) (a : Nat) :
    SMap.get d (m.filter (fun e => p e.1)) a = if p a then SMap.get d m a else d := by
  induction m with
  | nil => simp [SMap.get]
  | cons e m ih =>
    obtain ⟨k, v⟩ := e
    by_cases hk : k = a
    · subst hk
      by_cases hp : p k = true
      · simp [hp, SMap.get]
      · simp [hp, ih]
    · by_cases hp : p k = true
      · simp [hp, SMap.get, hk, ih]
      · simp [hp, SMap.get, hk, ih]

end Sys2Proof

namespace Sys2Proof.Machine

variable (s : State)

/-! ### The start-up record -/

/-- What a write of BOOTST leaves alone is as the start-up record alone makes it. The word of BOOTST stays a variable in `h`, so that
a field is found without computing that word. -/
theorem State.setBoot_apply {α : Type} (b : Boot) (f : State → α) (h : ∀ (t : State) w, f (t.setBar physFn 0x280 w) = f t) :
    f (s.setBoot b) = f { s with boot := b } := h _ _

@[simp] theorem State.setBoot_boot (b : Boot) : (s.setBoot b).boot = b := s.setBoot_apply b State.boot fun _ _ => rfl
@[simp] theorem State.setBoot_mem (b : Boot) : (s.setBoot b).mem = s.mem := s.setBoot_apply b State.mem fun _ _ => rfl
@[simp] theorem State.setBoot_clock (b : Boot) : (s.setBoot b).clock = s.clock := s.setBoot_apply b State.clock fun _ _ => rfl
@[simp] theorem State.setBoot_groups (b : Boot) : (s.setBoot b).groups = s.groups := s.setBoot_apply b State.groups fun _ _ => rfl
@[simp] theorem State.setBoot_wgs (b : Boot) : (s.setBoot b).wgs = s.wgs := s.setBoot_apply b State.wgs fun _ _ => rfl
@[simp] theorem State.setBoot_cmds (b : Boot) : (s.setBoot b).cmds = s.cmds := s.setBoot_apply b State.cmds fun _ _ => rfl
@[simp] theorem State.setBoot_tlb (b : Boot) : (s.setBoot b).tlb = s.tlb := s.setBoot_apply b State.tlb fun _ _ => rfl
@[simp] theorem State.setBoot_rd8 (b : Boot) (a : Nat) : (s.setBoot b).rd8 a = s.rd8 a := by
  simp only [State.rd8, State.setBoot_mem]

/-- Besides BOOTST the registers stay. -/
theorem State.setBoot_barReg {off : Nat} (b : Boot) (h : off ≠ 0x280) : (s.setBoot b).barReg physFn off = s.barReg physFn off :=
  SMap.get_set_ne s.bar _ (by omega)

theorem State.not_running_of_stage {s : State} (h : s.boot.stage < 7) : s.running = false := by
  simp [State.running, Nat.ne_of_lt h]

theorem State.not_running_of_fatal {s : State} {x : Nat × Word64} (h : s.boot.fatal = some x) : s.running = false := by
  simp [State.running, h]

/-! ### A failed start (R396, R397) -/

variable (b : Boot) (reason stage : Nat)

@[simp] theorem Boot.failed_reason : (b.failed reason stage).reason = reason := by unfold Boot.failed; split <;> rfl
@[simp] theorem Boot.failed_lastStage : (b.failed reason stage).lastStage = stage := by unfold Boot.failed; split <;> rfl
@[simp] theorem Boot.failed_ended : (b.failed reason stage).ended = true := by unfold Boot.failed; split <;> rfl
@[simp] theorem Boot.failed_stage : (b.failed reason stage).stage = b.stage := by unfold Boot.failed; split <;> rfl

variable {b}

/-- A failure of a full start is counted, up to 3. -/
theorem Boot.failed_fails (h : b.minimal = false) : (b.failed reason stage).fails = min 3 (b.fails + 1) := by simp [Boot.failed, h]
/-- A failure of a start in minimal mode leads to recovery. -/
theorem Boot.failed_mode (h : b.minimal = true) : (b.failed reason stage).mode = 3 := by simp [Boot.failed, h]

/-- A start that reaches stage 7 clears FAILS, unless it came up in minimal mode. -/
theorem State.startStages_none {reached : Nat} (h : 7 ≤ reached) :
    s.startStages reached none = s.setBoot { s.boot with stage := 7, fails := if s.boot.minimal then s.boot.fails else 0 } := by
  cases hm : s.boot.minimal <;> simp [State.startStages, Nat.min_eq_right h, hm]

/-- An error before stage 7 ends the start in its stage. -/
theorem State.startStages_some {reached : Nat} (error : Nat) (h : reached < 7) :
    s.startStages reached (some error) =
      s.setBoot ({ s.boot with stage := reached }.failed (if error = 8 then 8 else reached + 1) reached) := by
  have hr : min reached 6 = reached := by omega
  simp [State.startStages, stageReason, hr]

/-! ### Cold reset (R396, log 6) -/

/-- After a cold reset no memory of the device holds anything, and memory outside it is as before. -/
theorem State.afterReset_rd8 (a : Nat) : s.afterReset.rd8 a = if paTarget a = 0 then 0 else s.rd8 a := by
  have h := SMap.get_filter_key 0 (fun k => paTarget k != 0) s.mem a
  simpa [State.rd8, State.afterReset] using h

/-- After a cold reset PWRCTL holds the reset value of the fitting (R389). -/
theorem State.afterReset_pwrctl : s.afterReset.barReg physFn 0x200 = if s.fitting = .h then 0x0C8000460A000001 else 0x03E800460A000001 := by
  cases hf : s.fitting <;> simp [State.afterReset, State.barReg, hf] <;> decide

/-- The device before the first stage of a cold start: reset, with the start counted and its mode chosen by FAILS (R397). -/
def State.coldStart (s : State) : State :=
  { s.afterReset with
    boot := { s.afterReset.boot with
      mode := if s.boot.fails = 3 then 1 else 0, minimal := s.boot.fails == 3, stage := 0
      starts := if s.boot.starts = BitVec.allOnes 32 then s.boot.starts else s.boot.starts + 1 } }

@[simp] theorem State.coldStart_mode : s.coldStart.boot.mode = if s.boot.fails = 3 then 1 else 0 := rfl
@[simp] theorem State.coldStart_minimal : s.coldStart.boot.minimal = (s.boot.fails == 3) := rfl
@[simp] theorem State.coldStart_fails : s.coldStart.boot.fails = s.boot.fails := rfl
@[simp] theorem State.coldStart_starts :
    s.coldStart.boot.starts = if s.boot.starts = BitVec.allOnes 32 then s.boot.starts else s.boot.starts + 1 := rfl
@[simp] theorem State.coldStart_rd8 (a : Nat) : s.coldStart.rd8 a = s.afterReset.rd8 a := by
  simp only [State.rd8, State.coldStart]
@[simp] theorem State.coldStart_barReg (fn off : Nat) : s.coldStart.barReg fn off = s.afterReset.barReg fn off := by
  simp only [State.barReg, State.coldStart]
/-- Nothing is resident, and CLOCK is 0. -/
theorem State.coldStart_empty :
    s.coldStart.groups = [] ∧ s.coldStart.wgs = [] ∧ s.coldStart.cmds = [] ∧ s.coldStart.tlb = [] ∧ s.coldStart.clock = 0 :=
  ⟨rfl, rfl, rfl, rfl, rfl⟩

theorem movesTo_coldReset (reached : Nat) (error : Option Nat) :
    MovesTo (.coldReset reached error) s (s.coldStart.startStages reached error) := rfl

/-- A cold reset whose stages all run starts anew. -/
theorem coldReset_complete {reached : Nat} (h : 7 ≤ reached) :
    ∃ u, MovesTo (.coldReset reached none) s u ∧ u.boot.stage = 7 ∧ u.boot.mode = (if s.boot.fails = 3 then 1 else 0) ∧
      (s.boot.fails ≠ 3 → u.boot.fails = 0) ∧ u.boot.starts = (if s.boot.starts = BitVec.allOnes 32 then s.boot.starts else s.boot.starts + 1) ∧
      u.groups = [] ∧ u.wgs = [] ∧ u.cmds = [] ∧ u.tlb = [] ∧ u.clock = 0 ∧ (∀ a, paTarget a = 0 → u.rd8 a = 0) ∧
      (∀ a, paTarget a ≠ 0 → u.rd8 a = s.rd8 a) ∧
      u.barReg physFn 0x200 = (if s.fitting = .h then 0x0C8000460A000001 else 0x03E800460A000001) := by
  obtain ⟨hgroups, hwgs, hcmds, htlb, hclock⟩ := s.coldStart_empty
  refine ⟨_, movesTo_coldReset s reached none, ?_⟩
  rw [State.startStages_none _ h]
  refine ⟨by simp, by simp, fun hf => by simp [hf], by simp, by simp [hgroups], by simp [hwgs], by simp [hcmds], by simp [htlb],
    by simp [hclock],
    fun a ha => by simp [State.afterReset_rd8, ha], fun a ha => by simp [State.afterReset_rd8, ha], ?_⟩
  rw [State.setBoot_barReg _ _ (by decide), State.coldStart_barReg, State.afterReset_pwrctl]

/-- A cold reset in which a stage reports an error ends there: the failure is counted, or minimal mode gives way to recovery. -/
theorem coldReset_fails {reached : Nat} (error : Nat) (h : reached < 7) :
    ∃ u, MovesTo (.coldReset reached (some error)) s u ∧ u.boot.stage = reached ∧
      u.boot.reason = (if error = 8 then 8 else reached + 1) ∧ u.boot.lastStage = reached ∧ u.running = false ∧
      (s.boot.fails ≠ 3 → u.boot.fails = min 3 (s.boot.fails + 1)) ∧ (s.boot.fails = 3 → u.boot.mode = 3) := by
  refine ⟨_, movesTo_coldReset s reached (some error), ?_⟩
  rw [State.startStages_some _ error h]
  refine ⟨by simp, by simp, by simp, State.not_running_of_stage (by simpa using h), fun hf => ?_, fun hf => ?_⟩
  · exact Boot.failed_fails _ _ (by simp [hf])
  · exact Boot.failed_mode _ _ (by simp [hf])

/-! ### The start watchdog, BOOTCLR and firmware updates (R396, R397) -/

variable {s}

theorem State.startLate_iff : s.startLate = true ↔
    s.boot.stage < 7 ∧ s.boot.starts ≠ 0 ∧ s.boot.ended = false ∧ 30 * 1400000000 ≤ s.clock.toNat := by
  have hstarts : 0 < s.boot.starts.toNat ↔ s.boot.starts ≠ 0 := by
    rw [Nat.pos_iff_ne_zero, Ne, Ne, ← BitVec.toNat_inj]; rfl
  simp only [State.startLate, Bool.and_eq_true, decide_eq_true_eq, Bool.not_eq_true', hstarts, and_assoc]

theorem movesTo_startWatchdogExpiry_late (h : s.startLate = true) :
    MovesTo .startWatchdogExpiry s (s.setBoot (s.boot.failed 9 s.boot.stage)) := congrArg Host.Outcome.next (if_pos h)

theorem movesTo_startWatchdogExpiry_idle (h : ¬s.startLate = true) : MovesTo .startWatchdogExpiry s s :=
  congrArg Host.Outcome.next (if_neg h)

/-- After 30 s a start that has not reached stage 7 fails, and it fails once. -/
theorem startWatchdogExpiry_fails_once (hstage : s.boot.stage < 7) (hstarts : s.boot.starts ≠ 0) (hmin : s.boot.minimal = false)
    (hended : s.boot.ended = false) (hclock : 30 * 1400000000 ≤ s.clock.toNat) :
    ∃ u, MovesTo .startWatchdogExpiry s u ∧ u.boot.reason = 9 ∧ u.boot.lastStage = s.boot.stage ∧
      u.boot.fails = min 3 (s.boot.fails + 1) ∧ MovesTo .startWatchdogExpiry u u := by
  have hlate := State.startLate_iff.mpr ⟨hstage, hstarts, hended, hclock⟩
  refine ⟨_, movesTo_startWatchdogExpiry_late hlate, by simp, by simp, Boot.failed_fails _ _ hmin,
    movesTo_startWatchdogExpiry_idle ?_⟩
  simp [State.startLate_iff]

variable (s)

/-- Only a write of 0xB007 clears FAILS. -/
theorem bootclr_clears (v : Word64) :
    (v.toNat % 2 ^ 16 = 0xB007 → MovesTo (.bootclr v) s (s.setBoot { s.boot with fails := 0 })) ∧
    (v.toNat % 2 ^ 16 ≠ 0xB007 → MovesTo (.bootclr v) s s) := by
  have hfld : fld v.toNat 0 16 = v.toNat % 2 ^ 16 := by simp [fld]
  exact ⟨fun h => congrArg Host.Outcome.next (if_pos (hfld.trans h)), fun h => congrArg Host.Outcome.next (if_neg (hfld ▸ h))⟩

theorem movesTo_firmwareUpdate : MovesTo .firmwareUpdate s (s.setBoot { s.boot with fails := 0, firmware := s.boot.firmware + 1 }) := rfl

/-! ### Fatal errors and dumps (R391, R398 to R400) -/

variable {s}

theorem movesTo_fatalError (cause : Nat) (h : s.boot.fatal = none) :
    MovesTo (.fatalError cause) s
      (((s.logError 5 cause 0).countDevice 1 1).setBoot { s.boot with fatal := some (s.errlog.length, s.clock) }) :=
  congrArg Host.Outcome.next (if_neg (by simp [h]))

/-- A fatal error holds the device. -/
theorem fatalError_holds (cause : Nat) (h : s.boot.fatal = none) :
    ∃ u, MovesTo (.fatalError cause) s u ∧ u.boot.fatal = some (s.errlog.length, s.clock) ∧ u.boot.mode = s.boot.mode ∧
      u.running = false ∧ u.mem = s.mem :=
  by
  have hboot := State.setBoot_boot ((s.logError 5 cause 0).countDevice 1 1) { s.boot with fatal := some (s.errlog.length, s.clock) }
  exact ⟨_, movesTo_fatalError cause h, by rw [hboot], by rw [hboot], State.not_running_of_fatal (by rw [hboot]),
    (State.setBoot_mem _ _).trans rfl⟩

/-- While the device does not run, no fragment and no Mule does anything. -/
theorem issue_idle (h : s.running = false) (gid fid : Nat) (order : List Nat) :
    runMove s (.issue gid fid order) = .next s ∧ runMove s (.mule gid) = .next s := by
  have hfrag : s.chooseFrag gid fid = .idle := by simp [State.chooseFrag, h]
  have hmule : s.chooseMule gid = .idle := by simp [State.chooseMule, h]
  simp only [runMove, hfrag, hmule, runChoice, and_self]

/-- The dump stays on the chip: the host has given no room for it, or cannot be reached (R400). -/
def State.keepsDump (s : State) : Bool := (s.barReg physFn 0x298).toNat == 0 || s.free 1 0 == 1

/-- The dump is signalled: an interrupt, and a message to management (R400). -/
def State.signalDump (s : State) : State := (s.emit (.msix physFn 1)).emit (.management [])

@[simp] theorem State.signalDump_boot : s.signalDump.boot = s.boot := rfl
theorem State.msix_mem_signalDump : OutMsg.msix physFn 1 ∈ s.signalDump.out := by simp [State.signalDump]

section
variable {x : Nat × Word64} (hfatal : s.boot.fatal = some x) (hdumped : s.boot.dumped = false)
include hfatal hdumped

theorem movesTo_dumpComplete_onchip (h : s.keepsDump = true) :
    MovesTo .dumpComplete s (s.setBoot { s.boot with dumped := true, mode := 2, onchip := s.dump (4 * 2 ^ 20) true }).signalDump := by
  have hkeeps : ((s.barReg physFn 0x298).toNat == 0 || s.free 1 0 == 1) = true := h
  have hopen : ¬(s.boot.fatal.isNone = true ∨ s.boot.dumped = true) := by simp [hfatal, hdumped]
  show execDumpComplete s = _
  simp only [execDumpComplete, hopen, if_false, hkeeps, if_true, State.signalDump]

theorem movesTo_dumpComplete_host (h : s.keepsDump = false) :
    MovesTo .dumpComplete s ((s.setBoot { s.boot with dumped := true, mode := 2 }).emit
      (.hostMemory (s.barReg physFn 0x290).toNat (s.dump (s.barReg physFn 0x298).toNat false))).signalDump := by
  have hleaves : ((s.barReg physFn 0x298).toNat == 0 || s.free 1 0 == 1) = false := h
  have hopen : ¬(s.boot.fatal.isNone = true ∨ s.boot.dumped = true) := by simp [hfatal, hdumped]
  show execDumpComplete s = _
  simp only [execDumpComplete, hopen, if_false, hleaves, Bool.false_eq_true, State.signalDump]

/-- A dump that is complete is signalled, and is kept on the chip where the host gives no room for it. -/
theorem dumpComplete_signals :
    ∃ u, MovesTo .dumpComplete s u ∧ u.boot.dumped = true ∧ u.boot.mode = 2 ∧ u.boot.minimal = s.boot.minimal ∧
      OutMsg.msix physFn 1 ∈ u.out ∧ (s.barReg physFn 0x298 = 0 → u.boot.onchip = s.dump (4 * 2 ^ 20) true) := by
  cases hkeeps : s.keepsDump with
  | true => exact ⟨_, movesTo_dumpComplete_onchip hfatal hdumped hkeeps, by simp, by simp, by simp, State.msix_mem_signalDump, fun _ => by simp⟩
  | false =>
    refine ⟨_, movesTo_dumpComplete_host hfatal hdumped hkeeps, by simp, by simp, by simp, State.msix_mem_signalDump, fun hroom => ?_⟩
    simp [State.keepsDump, hroom] at hkeeps

end

/-! ### Identity, attestation and plain registers (R6, R401, R402) -/

variable (s)

theorem getMeasurements_reports (nonce : List Byte) :
    ∃ blocks, MovesTo (.getMeasurements nonce) s (s.emit (.report blocks (Config.sm2Sign (nonce ++ blocks)))) := ⟨_, rfl⟩

theorem movesTo_certificateRequest : MovesTo .certificateRequest s (s.emit (.management (Config.certificates 0))) := rfl

theorem movesTo_spdmRequest (x : List Byte) :
    MovesTo (.spdmRequest x) s ({ s with spdm := s.spdm ++ [x] }.emit (.management (Config.spdmReply s.spdm s.boot.firmware x))) := rfl

/-- A write to a plain register keeps all but the low bits that its alignment holds at zero. -/
theorem movesTo_registerWrite {fn off k : Nat} (v : Word64) (hfn : fn ≤ physFn)
    (hreg : (plainRegs ++ (if fn = physFn then physRegs else [])).find? (fun r => r.1 == off) = some (off, k)) :
    MovesTo (.registerWrite fn off v) s (s.setBar fn off (v >>> k <<< k)) := by
  show execRegisterWrite fn off v s = _
  simp only [execRegisterWrite, hreg, hfn, if_true]

/-- The plain registers of every function. -/
theorem registerWrite_plain {fn off k : Nat} (v : Word64) (hfn : fn ≤ physFn) (h : (off, k) ∈ plainRegs) :
    MovesTo (.registerWrite fn off v) s (s.setBar fn off (v >>> k <<< k)) := by
  have hreg : plainRegs.find? (fun r => r.1 == off) = some (off, k) := by
    have hall : ∀ r ∈ plainRegs, plainRegs.find? (fun e => e.1 == r.1) = some r := by decide
    exact hall _ h
  exact movesTo_registerWrite s v hfn (by rw [List.find?_append, hreg, Option.some_or])

/-- The plain registers of the physical function. -/
theorem registerWrite_phys {fn off k : Nat} (v : Word64) (hfn : fn = physFn) (h : (off, k) ∈ physRegs) :
    MovesTo (.registerWrite fn off v) s (s.setBar fn off (v >>> k <<< k)) := by
  have hall : ∀ r ∈ physRegs, (plainRegs ++ physRegs).find? (fun e => e.1 == r.1) = some r := by decide
  exact movesTo_registerWrite s v (Nat.le_of_eq hfn) (by rw [if_pos hfn]; exact hall _ h)

theorem registerWrite_keeps (fn off : Nat) (v : Word64) :
    (fn ≤ 64 → off = 0x20 ∨ off = 0x28 → MovesTo (.registerWrite fn off v) s (s.setBar fn off (v >>> 12 <<< 12))) ∧
    (fn ≤ 64 → off = 0x30 → MovesTo (.registerWrite fn off v) s (s.setBar fn off (v >>> 16 <<< 16))) ∧
    (fn = 64 → off = 0x290 ∨ off = 0x298 → MovesTo (.registerWrite fn off v) s (s.setBar fn off (v >>> 12 <<< 12))) ∧
    (fn = 64 → off = 0x100 ∨ off = 0x108 ∨ off = 0x118 ∨ off = 0x128 ∨ off = 0x130 ∨ off = 0x148 ∨ off = 0x150 ∨ off = 0x160 ∨ off = 0x2A0 ∨
      off = 0x2A8 → MovesTo (.registerWrite fn off v) s (s.setBar fn off v)) := by
  refine ⟨fun hfn hoff => registerWrite_plain s v hfn ?_, fun hfn hoff => registerWrite_plain s v hfn ?_, fun hfn hoff => ?_,
    fun hfn hoff => ?_⟩
  · simpa [plainRegs] using hoff
  · simpa [plainRegs] using hoff
  · exact registerWrite_phys s v hfn (by simpa [physRegs] using hoff)
  · have hwhole := registerWrite_phys s (off := off) (k := 0) v hfn (by simpa [physRegs] using hoff)
    simpa using hwhole

end Sys2Proof.Machine

open Sys2Proof Sys2Proof.Machine

/-- Settles O50: each event of the group has its next state written out by a lemma of its own, and the parts are read off it. -/
theorem startupManagement : Obligations.StartupManagement := by
  intro s
  exact ⟨fun _ h => coldReset_complete s h, fun _ error h => coldReset_fails s error h, startWatchdogExpiry_fails_once,
    bootclr_clears s, movesTo_firmwareUpdate s, fatalError_holds, issue_idle, fun _ => dumpComplete_signals,
    getMeasurements_reports s, movesTo_certificateRequest s, movesTo_spdmRequest s, registerWrite_keeps s⟩
end

section
/-! Stores (R82, R205, R207, R208, R214, R215): what the frame of a store completes with, and the statement about the five
store instructions. -/

namespace Sys2Proof.Machine

/-- A store instruction whose meaning is the frame that the stores share completes as its threads' stores do. -/
theorem storeGives_of_exec {i : Instr} {f : FmtM} {wide : Bool} {off : Word64} {path : Nat} {clear : Bool}
    {mk : State → List Ea → Except Stop (State × Mode × (Word64 → Word64))} {s : State}
    (hexec : exec i s = issue i s (storeBody i f wide off path clear mk)) : StoreGives i f wide off path clear mk s := by
  intro t v u os mode at_ hcan hrange hprep hrel hmk hstore
  refine hexec.trans (issue_ok hcan ?_)
  have hformed : mk t (eaList t.cg (os.getD 1 (.const 0)) (baseSrc f wide) off (threads (s.gmask f.g))) = .ok (v, mode, at_) := hmk
  simp only [storeBody, hrange, Except.bind, hprep, State.releaseWait_ok hrel, hformed, hstore]

end Sys2Proof.Machine

open Sys2Proof Sys2Proof.Machine

/-- Settles O16: the five instructions are the frame of a store, with the address forms and paths that the statement names. -/
theorem storesComplete : Obligations.StoresComplete := fun _ _ =>
  ⟨storeGives_of_exec rfl, storeGives_of_exec rfl, storeGives_of_exec rfl, storeGives_of_exec rfl, storeGives_of_exec rfl⟩
end

section
/-! FENCE and barrier objects (R53, R54, R76, R84, R220 to R222): the fields of an object, one update of an object in the
window, and the statement about FENCE, BOINIT, BOARV and BOWAIT. -/

namespace Sys2Proof.Machine

/-! ### Replacing a field of a number -/

/-- A number is what lies above a field, the field, and what lies below it. -/
theorem fld_split (w k n : Nat) : w = (w / 2 ^ (k + n) * 2 ^ n + fld w k n) * 2 ^ k + w % 2 ^ k := by
  rw [fld, Nat.pow_add, ← Nat.div_div_eq_div_mul, Nat.div_add_mod', Nat.div_add_mod']

/-- Nothing of a number lies above its topmost field. -/
theorem fld_top {w k n : Nat} (h : w < 2 ^ (k + n)) : fld w k n = w / 2 ^ k := by
  rw [Nat.pow_add] at h
  exact Nat.mod_eq_of_lt (Nat.div_lt_of_lt_mul h)

theorem putFld_eq (w k n v : Nat) : putFld w k n v = (w / 2 ^ (k + n) * 2 ^ n + v % 2 ^ n) * 2 ^ k + w % 2 ^ k := by
  have h := fld_split w k n
  rw [Nat.add_mul] at h ⊢
  unfold putFld
  omega

theorem putFld_self (w k n : Nat) : putFld w k n (fld w k n) = w := by
  rw [putFld_eq, show fld w k n % 2 ^ n = fld w k n from Nat.mod_mod _ _, ← fld_split]

/-- The bits below a replaced field stay. -/
theorem putFld_mod (w k n v : Nat) : putFld w k n v % 2 ^ k = w % 2 ^ k := by
  rw [putFld_eq, Nat.mul_add_mod', Nat.mod_mod]

/-- What begins at a replaced field's place. -/
theorem putFld_div (w k n v : Nat) : putFld w k n v / 2 ^ k = w / 2 ^ (k + n) * 2 ^ n + v % 2 ^ n := by
  rw [putFld_eq, Nat.mul_comm _ (2 ^ k), Nat.mul_add_div (Nat.two_pow_pos k), Nat.div_eq_of_lt (Nat.mod_lt _ (Nat.two_pow_pos k)), Nat.add_zero]

theorem fld_putFld_same (w k n v : Nat) : fld (putFld w k n v) k n = v % 2 ^ n := by
  rw [fld, putFld_div, Nat.mul_add_mod', Nat.mod_mod]

/-- A field below the one replaced stays. -/
theorem fld_putFld_below {w k n v j m : Nat} (h : j + m ≤ k) : fld (putFld w k n v) j m = fld w j m := by
  have cut (x : Nat) : fld x j m = fld (x % 2 ^ k) j m := by
    rw [fld, fld, ← Nat.mod_mul_right_div_self, ← Nat.mod_mul_right_div_self, ← Nat.pow_add, Nat.mod_mod_of_dvd _ (Nat.pow_dvd_pow 2 h)]
  rw [cut, putFld_mod, ← cut]

/-- A field above the one replaced stays. -/
theorem fld_putFld_above {w k n v j m : Nat} (h : k + n ≤ j) : fld (putFld w k n v) j m = fld w j m := by
  have top : putFld w k n v / 2 ^ (k + n) = w / 2 ^ (k + n) := by
    rw [Nat.pow_add, ← Nat.div_div_eq_div_mul, putFld_div, Nat.mul_comm _ (2 ^ n), Nat.mul_add_div (Nat.two_pow_pos n),
      Nat.div_eq_of_lt (Nat.mod_lt _ (Nat.two_pow_pos n)), Nat.add_zero, Nat.pow_add]
  have cut (x : Nat) : x / 2 ^ j = x / 2 ^ (k + n) / 2 ^ (j - (k + n)) := by
    rw [Nat.div_div_eq_div_mul, ← Nat.pow_add, Nat.add_sub_cancel' h]
  rw [fld, fld, cut, top, ← cut]

/-- Lowering a field by one lowers the number by the field's unit. -/
theorem putFld_pred {w k n : Nat} (h : 0 < fld w k n) : putFld w k n (fld w k n - 1) + 2 ^ k = w := by
  have hlt : fld w k n - 1 < 2 ^ n := Nat.lt_of_le_of_lt (Nat.sub_le _ _) (Nat.mod_lt _ (Nat.two_pow_pos n))
  have hone : fld w k n = fld w k n - 1 + 1 := by omega
  have hsplit := fld_split w k n
  rw [hone, Nat.add_mul, Nat.add_mul] at hsplit
  rw [putFld_eq, Nat.mod_eq_of_lt hlt, Nat.add_mul]
  omega

/-! ### One arrival (R54), and a new object (R221) -/

/-- An arrival at an object whose arrival count is not zero lowers that count, unless nothing is left to come: then both counts are
reloaded and the phase byte goes up. -/
theorem objStep_arrive {x : Nat} (h : 0 < fld x 32 16) :
    objStep x 0 1 false = if fld x 64 32 = 0 ∧ fld x 32 16 - 1 = 0
      then putFld (putFld (putFld x 0 8 (fld x 0 8 + 1)) 64 32 (fld x 96 32)) 32 16 (fld x 48 16)
      else putFld x 32 16 (fld x 32 16 - 1) := by
  have hpast : ¬(fld x 64 32 < 0 ∨ fld x 32 16 < 1) := by omega
  simp only [objStep, hpast, if_false, Nat.sub_zero, putFld_self, Bool.false_eq_true]

theorem objStep_arrive_counts {x : Nat} (h : 0 < x / 2 ^ 32 % 2 ^ 16) :
    let left := x / 2 ^ 64 % 2 ^ 32 + (x / 2 ^ 32 % 2 ^ 16 - 1)
    let y := objStep x 0 1 false
    (left ≠ 0 → y + 2 ^ 32 = x) ∧
    (left = 0 → y / 2 ^ 64 % 2 ^ 32 = x / 2 ^ 96 % 2 ^ 32 ∧ y / 2 ^ 32 % 2 ^ 16 = x / 2 ^ 48 % 2 ^ 16 ∧ y % 2 ^ 8 = (x % 2 ^ 8 + 1) % 2 ^ 8) := by
  intro left y
  have hy : y = _ := objStep_arrive h
  have hleft : left = fld x 64 32 + (fld x 32 16 - 1) := rfl
  refine ⟨fun hne => ?_, fun hzero => ?_⟩
  · rw [if_neg (by omega)] at hy
    exact hy ▸ putFld_pred h
  · rw [if_pos (by omega)] at hy
    refine ⟨?_, ?_, ?_⟩
    · calc fld y 64 32 = fld x 96 32 % 2 ^ 32 := by rw [hy, fld_putFld_above (by omega), fld_putFld_same]
        _ = fld x 96 32 := Nat.mod_mod _ _
    · calc fld y 32 16 = fld x 48 16 % 2 ^ 16 := by rw [hy, fld_putFld_same]
        _ = fld x 48 16 := Nat.mod_mod _ _
    · have hlow (w : Nat) : w % 2 ^ 8 = fld w 0 8 := by simp [fld]
      rw [hlow y, hy, fld_putFld_below (by omega), fld_putFld_below (by omega), fld_putFld_same, hlow x]

/-- A new object holds both counts twice, with PHASE 0 and no error. -/
theorem objInit_counts {eb ea : Nat} (hb : eb < 2 ^ 32) (ha : ea < 2 ^ 16) (h : eb + ea ≠ 0) :
    objInit 0 (eb + ea * 2 ^ 32) = eb * 2 ^ 96 + eb * 2 ^ 64 + ea * 2 ^ 48 + ea * 2 ^ 32 := by
  have hbytes : fld (eb + ea * 2 ^ 32) 0 32 = eb := by unfold fld; omega
  have harrivals : fld (eb + ea * 2 ^ 32) 32 16 = ea := by unfold fld; omega
  have hrest : fld (eb + ea * 2 ^ 32) 48 16 = 0 := by unfold fld; omega
  have hpend : fld 0 16 16 = 0 := rfl
  have hok : ¬((0 : Nat) ≠ 0 ∨ (eb = 0 ∧ ea = 0) ∨ (0 : Nat) ≠ 0) := by omega
  simp only [objInit, hbytes, harrivals, hrest, hpend, hok, if_false]
  omega

/-! ### An update of an object in the window (R53) -/

@[simp] theorem leBytes_length (n x : Nat) : (leBytes n x).length = n := by
  induction n generalizing x with
  | zero => rfl
  | succ n ih => simp only [leBytes, List.length_cons, ih]

/-- Marking the blocks in which bytes have been written changes maps alone. -/
theorem Workgroup.wrote_frame (w : Workgroup) (o n : Nat) : w.wrote o n = { w with maps := (w.wrote o n).maps } := by
  unfold Workgroup.wrote
  generalize List.range (n / 2048 + 2) = l
  induction l generalizing w with
  | nil => rfl
  | cons i l ih =>
    simp only [List.foldl_cons]
    rw [ih]
    split
    · split <;> rfl
    · rfl

@[simp] theorem Workgroup.storeWin_wid (w : Workgroup) (o : Nat) (l : List Byte) : (w.storeWin o l).wid = w.wid := by
  unfold Workgroup.storeWin
  split
  · rfl
  · rw [Workgroup.wrote_frame]; rfl

/-- A write of window bytes by an access stores these bytes, whatever maps it meets. -/
theorem Workgroup.winByte_storeWin (w : Workgroup) (o : Nat) (l : List Byte) (k : Nat) :
    (w.storeWin o l).winByte k = (w.setWinN o l).winByte k := by
  unfold Workgroup.storeWin
  split
  · next h => rw [List.isEmpty_iff.mp h]; rfl
  · rw [Workgroup.wrote_frame]; rfl

theorem Workgroup.winN_storeWin (w : Workgroup) (o : Nat) (l : List Byte) : (w.storeWin o l).winN o l.length = l := by
  refine List.ext_getElem (by simp [Workgroup.winN]) fun i h _ => ?_
  have hi : i < l.length := by simpa [Workgroup.winN] using h
  simp only [Workgroup.winN, List.getElem_map, List.getElem_range, Workgroup.winByte_storeWin, Workgroup.winByte_in w hi]
  simp [hi]

/-- The issuing group's workgroup after an update of it. -/
theorem State.cw_modCw {s : State} {f : Workgroup → Workgroup} (hf : ∀ w, (f w).wid = w.wid) (h : ∃ w, s.wg? s.cg.wid = some w) :
    (s.modCw f).cw = f s.cw := by
  obtain ⟨w, hw⟩ := h
  have hafter : (s.modCw f).wg? s.cg.wid = some (f w) := by rw [State.modCw, State.wg?_mod s hf, hw, Option.map_some]
  show ((s.modCw f).wg? s.cg.wid).getD blankWg = f ((s.wg? s.cg.wid).getD blankWg)
  rw [hafter, hw, Option.getD_some, Option.getD_some]

/-- An update of the issuing group that leaves its number and its workgroup's leaves the workgroup. -/
theorem State.cw_modCg {s : State} {f : Group → Group} (hf : ∀ g, (f g).gid = g.gid) (hw : ∀ g, (f g).wid = g.wid) :
    (s.modCg f).cw = s.cw := by
  have hwid := State.modCg_keep s Group.wid hf hw
  show s.wg (s.modCg f).cg.wid = s.wg s.cg.wid
  rw [hwid]

theorem Workgroup.readOnly_of_unmapped {w : Workgroup} {o : Nat} (h : w.mapAt o = none) : w.readOnly o = false := by
  simp only [Workgroup.readOnly, h]

/-- At a place in the window outside every map, nothing stops the update of an object: the new bytes stand there, and one operation
is counted on the scratchpad path. -/
theorem State.objUpdate_window {s : State} {a : Word64} {o : Nat} (h : Nat → Nat) (hplace : resolveGeneric a = some (.win o))
    (halign : a.toNat % 16 = 0) (hrange : o < s.cw.winSize) (hmap : s.cw.mapAt o = none) (hroom : s.cg.inflight 2 < 63) :
    s.objUpdate a h = .ok ((s.modCw (fun w => w.storeWin o (leBytes 16 (h (leNat (w.winN o 16)))))).modCg
      (fun g => g.fly { path := 2, kind := .store, old := s.oldBytes .generic ⟨0, a, List.replicate 16 0⟩ none, ext := [] })) := by
  have hcheck : s.addressCheck .generic [⟨0, a⟩] 16 true false = .ok s := by
    simp [State.addressCheck, firstBad, firstSome, placeOf, hplace, halign, Nat.not_le.mpr hrange, Workgroup.readOnly_of_unmapped hmap]
  have hdrop : s.dropTest .generic true [⟨0, a⟩] = .ok s := by
    simp [State.dropTest, firstSome, placeOf, hplace, Workgroup.fillVa, hmap]
  have htouch : s.touchAll .generic [⟨0, a⟩] = .ok s := by
    have hblock : s.touchBlock s.me s.cg.wid o = .ok s := by
      have hmap' : (s.wg s.cg.wid).mapAt o = none := hmap
      simp only [State.touchBlock, hmap']
    simp only [State.touchAll, foldE, placeOf, hplace, hblock]
  have hfates : s.fates .generic [⟨0, a⟩] true = [] := by simp [State.fates, placeOf, hplace]
  have hsnoop : s.snoopHold 16 true [] = .ok s := rfl
  have hown : s.ownHold 16 [] = .ok s := rfl
  simp only [State.objUpdate, hplace, hcheck, hdrop, htouch, State.counterRoom_ok hroom, hfates,
    State.writeFates_ok (s := s) (l := []) (b := false) (by simp), hsnoop, hown, Except.bind, List.any_nil, Bool.false_eq_true, if_false, wholeTrap]
  rfl

theorem State.objUpdate_window_bytes {s : State} {a : Word64} {o : Nat} {h : Nat → Nat} (hplace : resolveGeneric a = some (.win o))
    (halign : a.toNat % 16 = 0) (hrange : o < s.cw.winSize) (hmap : s.cw.mapAt o = none) (hwg : ∃ w, s.wg? s.cg.wid = some w)
    (hroom : s.cg.inflight 2 < 63) :
    ∃ u, s.objUpdate a h = .ok u ∧ u.cw.winN o 16 = leBytes 16 (h (leNat (s.cw.winN o 16))) ∧ u.mem = s.mem ∧
      ∀ b, b < o ∨ o + 16 ≤ b → u.cw.winByte b = s.cw.winByte b := by
  refine ⟨_, State.objUpdate_window h hplace halign hrange hmap hroom, ?_⟩
  rw [State.cw_modCg (f := fun g => g.fly _) (fun _ => rfl) (fun _ => rfl), State.cw_modCw (fun w => Workgroup.storeWin_wid w o _) hwg]
  have hlen := leBytes_length 16 (h (leNat (s.cw.winN o 16)))
  generalize leBytes 16 (h (leNat (s.cw.winN o 16))) = l at hlen ⊢
  refine ⟨hlen ▸ Workgroup.winN_storeWin s.cw o l, rfl, fun b hb => ?_⟩
  rw [Workgroup.winByte_storeWin, Workgroup.winByte_out _ (hlen.symm ▸ hb)]

/-! ### FENCE (R76, R84, R220) -/

section
variable {f : FmtAT} {s : State}

theorem fence_acquire (hcan : s.CanIssue (.fence f)) (h : isRel f.ord = false) : Completes (.fence f) s s := by
  refine issue_ok hcan ?_
  rw [fenceBody, State.releaseWait_ok (by simp [h]), h]
  rfl

/-- A release part with no side-log entry before it leaves of the older bytes those that its scope does not reach. -/
theorem fence_release (hcan : s.CanIssue (.fence f)) (h : isRel f.ord = true) (hlog : s.cg.sideLog = []) :
    Completes (.fence f) s (s.modCg (fun x => { x with
      flights := x.flights.map (fun (y : Flight) => { y with old := y.old.filter (fun e => decide (f.scope.enc < if e.1 < 2 ^ 57 then 5 else 3)) }) })) := by
  refine issue_ok hcan ?_
  have hreach (e : Nat × Byte) : (!fenceReaches f.scope.enc e) = decide (f.scope.enc < if e.1 < 2 ^ 57 then 5 else 3) := by
    simp only [fenceReaches, ← decide_not, Nat.not_le]
  rw [fenceBody, State.releaseWait_ok (fun _ => hlog), h]
  simp only [hreach]
  rfl

end

/-! ### BOINIT, BOARV, BOWAIT (R221, R222) -/

theorem bitN_toNat {n : Nat} (x : BitVec n) (k : Nat) : bitN x.toNat k = x.getLsbD k := by
  simp [bitN, BitVec.getLsbD, Nat.testBit_eq_decide_div_mod_eq]

theorem boinit_updates {f : FmtAT} {s t u : State} {os : List Opnd} (hcan : s.CanIssue (.boinit f))
    (hprep : s.prepAll (.boinit f) [0] [⟨1, f.addr, .n64⟩, ⟨2, f.data, .n64⟩] = .ok (t, os)) (hrel : isRel f.ord = true → t.cg.sideLog = [])
    (h : t.objUpdate (valueAt os 0) (fun o => objInit o (valueAt os 1).toNat) = .ok u) : Completes (.boinit f) s u := by
  refine issue_ok hcan ?_
  simp only [boinitBody, hprep, Except.bind, State.releaseWait_ok hrel]
  exact h

section
variable {f : FmtC} {s u : State}

theorem boarv_updates (hcan : s.CanIssue (.boarv f)) (hrel : f.imm.getLsbD 0 = true → s.cg.sideLog = [])
    (h : s.objUpdate (s.sregOr 0 f.sa) (fun o => objStep o 0 1 false) = .ok u) : Completes (.boarv f) s u := by
  refine issue_ok hcan ?_
  simp only [boarvBody, bitN_toNat, State.releaseWait_ok hrel, Except.bind, h]

/-- What BOWAIT makes of the object that it reads. -/
theorem bowaitBody_read {vs : List (Nat × List Byte)} (h : s.loadThreads .generic 16 16 false [⟨0, s.sregOr 0 f.sa⟩] = .ok (u, vs)) :
    let o := leNat ((vs.map Prod.snd).headD [])
    bowaitBody f s = if objErr o then trapAt u cBarobj (s.sregOr 0 f.sa)
      else if objPhase o = (if f.imm.getLsbD 0 then 1 else 0) then .ok u else holdOn u (.object (s.sregOr 0 f.sa)) := by
  simp only [bowaitBody, h, wholeTrap, Except.bind, bitN_toNat, b2n]

theorem bowait_ends {vs : List (Nat × List Byte)} (hcan : s.CanIssue (.bowait f))
    (h : s.loadThreads .generic 16 16 false [⟨0, s.sregOr 0 f.sa⟩] = .ok (u, vs)) :
    let o := leNat ((vs.map Prod.snd).headD [])
    (objErr o = false → objPhase o = (if f.imm.getLsbD 0 then 1 else 0) → Completes (.bowait f) s u) ∧
    (objErr o = false → objPhase o ≠ (if f.imm.getLsbD 0 then 1 else 0) → exec (.bowait f) s = .next (u.holdIssuer (.object (s.sregOr 0 f.sa)))) ∧
    (objErr o = true → u.cur.mule = false →
      exec (.bowait f) s = .next (u.takeTrap u.cur.gid u.cur.fid cBarobj (s.sregOr 0 f.sa) none false false none)) := by
  intro o
  have hbody : bowaitBody f s = if objErr o then _ else _ := bowaitBody_read h
  refine ⟨fun herr hphase => issue_ok hcan ?_, fun herr hphase => issue_stop hcan (e := .hold u (.object (s.sregOr 0 f.sa))) ?_,
    fun herr hmule => ?_⟩
  · rw [hbody, herr, if_neg Bool.false_ne_true, if_pos hphase]
  · rw [hbody, herr, if_neg Bool.false_ne_true, if_neg hphase]; rfl
  · have hstop : bowaitBody f s = .error (.trap u cBarobj (s.sregOr 0 f.sa) none none) := by rw [hbody, herr, if_pos rfl]; rfl
    refine (issue_stop hcan hstop).trans ?_
    simp only [Stop.apply, hmule, Bool.false_eq_true, if_false]

end

end Sys2Proof.Machine

open Sys2Proof Sys2Proof.Machine

/-- Settles O20: the four instructions by the frames of their bodies, the window update by its bytes, the object by its fields. -/
theorem fencesBarrierObjects : Obligations.FencesBarrierObjects :=
  ⟨fun _ _ _ _ _ _ _ => ⟨fence_acquire, fence_release, boinit_updates, boarv_updates, bowait_ends⟩,
    fun _ _ _ _ => ⟨fun hplace halign hrange hmap _ hwg hroom => State.objUpdate_window_bytes hplace halign hrange hmap hwg hroom,
      fun _ _ => objInit_counts, fun _ _ => objStep_arrive_counts⟩⟩
end

section
/-! Hardware queues (R81, R223 to R225): what lets an operation on a queue go on, what QPUSH, QPOP and QCREATE complete with, the
fields of a new header, and the statement about them. -/

namespace Sys2Proof.Machine

variable {s : State}

/-! ### What a dirty-log record leaves alone -/

theorem State.logDirty_running (s : State) (a : Who) (x : Xlat) :
    (s.logDirty a x).cur = s.cur ∧ (s.logDirty a x).groups = s.groups ∧ (s.logDirty a x).wgs = s.wgs := by
  unfold State.logDirty
  split
  · exact ⟨rfl, rfl, rfl⟩
  · split <;> exact ⟨rfl, rfl, rfl⟩

/-- The issuer's scalar registers and workgroup are as before. -/
theorem State.logDirty_issuer (s : State) (a : Who) (x : Xlat) :
    (∀ d i, (s.logDirty a x).sregOr d i = s.sregOr d i) ∧ (s.logDirty a x).cw = s.cw := by
  obtain ⟨hcur, hgroups, hwgs⟩ := s.logDirty_running a x
  refine ⟨fun d i => ?_, ?_⟩
  · cases i with
    | none => rfl
    | some k => simp only [State.sregOr, State.sreg, State.cm, State.cg, State.group, State.group?, hcur, hgroups]
  · simp only [State.cw, State.wg, State.wg?, State.cg, State.group, State.group?, hcur, hgroups, hwgs]

/-! ### The checks of a queue operation (R224, R225) -/

theorem State.queueAddr_ok {a : Word64} (hglobal : isGlobal a = true) (halign : a.toNat % 64 = 0) : s.queueAddr a = .ok s := by
  simp [State.queueAddr, hglobal, halign]

/-- A push or pop whose queue is ready, and has room or an entry, is its operation on the entry. -/
theorem queueBody_ready {f : FmtC} {push : Bool} {op : State → Word64 → Xlat → QHeader → Except Stop State} {x : Xlat} {h : QHeader}
    (hready : s.QueueReady (s.sregOr 0 f.sa) push x h)
    (hroom : ¬(if push then (h.tail + 2 ^ 64 - h.head) % 2 ^ 64 = 2 ^ h.logcap else (h.tail + 2 ^ 64 - h.head) % 2 ^ 64 = 0)) :
    queueBody f push op s = op s (s.sregOr 0 f.sa) x h := by
  obtain ⟨hglobal, halign, hreach, hheader, hvalid, hmin, hmax, hused, hscope3, hscope4, hscope7, hunit, hbehind⟩ := hready
  have hstate : ¬(!h.valid || h.logcap = 0 || 16 < h.logcap || 2 ^ h.logcap < (h.tail + 2 ^ 64 - h.head) % 2 ^ 64) = true := by
    simp only [hvalid, Bool.not_true, Bool.false_or, Bool.or_eq_true, decide_eq_true_eq]
    omega
  have hscope : ¬((h.scope = 3 || h.scope = 4 || h.scope = 7) || (h.scope ≤ 2 && (h.launch, h.unit) ≠ s.queueUnit h.scope)) = true := by
    simpa [hscope3, hscope4, hscope7] using hunit
  simp only [queueBody, State.queueAddr_ok hglobal halign, hreach, Except.bind, ← hheader]
  rw [if_neg hstate, if_neg hscope, if_neg (by cases push <;> simpa [hbehind] using hroom)]

/-! ### QPUSH and QPOP (R225) -/

section
variable {f : FmtC} {x : Xlat} {h : QHeader}

theorem qpush_completes {y : Xlat} (hcan : s.CanIssue (.qpush f)) (hlog : s.cg.sideLog = [])
    (hready : s.QueueReady (s.sregOr 0 f.sa) true x h) (hroom : (h.tail + 2 ^ 64 - h.head) % 2 ^ 64 ≠ 2 ^ h.logcap)
    (hreach : (s.logDirty s.cw.who x).queueReach (h.entry (s.sregOr 0 f.sa) h.tail) 8 = .ok y) :
    let p := (s.logDirty s.cw.who x).performWrite s.cw.who y (leBytes 8 (s.sregOr 0 f.sb).toNat)
    let q := if p.collectiveQueue p.cw.ctx = (s.sregOr 0 f.sa).toNat ∧ s.sregOr 0 f.sa ≠ 0
      then { p with pushers := p.pushers ++ [(p.cw.ctx, h.tail, p.cur.gid)] } else p
    Completes (.qpush f) s (q.performWrite q.cw.who { x with pa := x.pa + 8 } (leBytes 8 ((h.tail + 1) % 2 ^ 64))) := by
  refine issue_ok hcan ?_
  obtain ⟨hsreg, hcw⟩ := s.logDirty_issuer s.cw.who x
  simp only [qpushBody, State.releaseWait_ok (fun _ => hlog), Except.bind]
  rw [queueBody_ready hready (by simpa using hroom)]
  simp only [hreach, hsreg, hcw]

theorem qpop_completes {t : State} {vs : List (Nat × List Byte)} (hcan : s.CanIssue (.qpop f))
    (hready : s.QueueReady (s.sregOr 0 f.sa) false x h) (hentry : (h.tail + 2 ^ 64 - h.head) % 2 ^ 64 ≠ 0)
    (hload : s.loadThreads .global 8 8 false [⟨0, n64 (h.entry (s.sregOr 0 f.sa) h.head)⟩] = .ok (t, vs)) :
    let p := t.setSOpt f.sb (n64 (leNat ((vs.map Prod.snd).headD [])))
    Completes (.qpop f) s (p.performWrite p.cw.who x (leBytes 8 ((h.head + 1) % 2 ^ 64))) := by
  refine issue_ok hcan ?_
  rw [qpopBody, queueBody_ready hready (by simpa using hentry)]
  simp only [hload, wholeTrap, Except.bind]

/-! ### QCREATE (R224) -/

theorem qcreate_completes (hcan : s.CanIssue (.qcreate f)) (hglobal : isGlobal (s.sregOr 0 f.sa) = true)
    (halign : (s.sregOr 0 f.sa).toNat % 64 = 0) (hreach : s.queueReach (s.sregOr 0 f.sa).toNat 64 = .ok x) :
    let st := createStatus (f.imm.toNat % 8) (decodeQueue (s.rd x.pa 64))
    (st ≠ 0 → Completes (.qcreate f) s (s.setSOpt f.sb (n64 st))) ∧
    (st = 0 → s.cg.sideLog = [] →
      Completes (.qcreate f) s ((s.performWrite s.cw.who x (leBytes 64 (s.createHeader (f.imm.toNat % 8) (s.rd x.pa 64)))).setSOpt f.sb 0)) := by
  refine ⟨fun hst => issue_ok hcan ?_, fun hst hlog => issue_ok hcan ?_⟩
  · simp only [qcreateBody, State.queueAddr_ok hglobal halign, hreach, Except.bind]
    exact if_pos hst
  · simp only [qcreateBody, State.queueAddr_ok hglobal halign, hreach, Except.bind, State.releaseWait_ok (fun _ => hlog)]
    exact if_neg (fun hne => hne hst)

end

/-! ### A new header (R223) -/

/-- A new header is that of an empty, live queue; its reserved bits are zero, and the bits above its fields stay. -/
theorem State.createHeader_fields (s : State) {scope old : Nat} (hscope : scope < 8) (hold : old < 2 ^ 512) :
    let new := s.createHeader scope old
    let unit := s.queueUnit scope
    decodeQueue new = ⟨unit.1 % 2 ^ 16, unit.2 % 2 ^ 48, true, scope, fld old 128 5, 0, 0⟩ ∧
      new / 2 ^ 133 % 2 ^ 3 = 0 ∧ new / 2 ^ 140 % 2 ^ 4 = 0 ∧ new / 2 ^ 208 = old / 2 ^ 208 := by
  intro new unit
  rw [show 512 = 208 + 304 from rfl] at hold
  have hrest : fld old 208 304 = old / 2 ^ 208 := fld_top hold
  have hcap : fld old 128 5 < 2 ^ 5 := Nat.mod_lt _ (by decide)
  have hlaunch : unit.1 % 2 ^ 16 < 2 ^ 16 := Nat.mod_lt _ (by decide)
  have hunit : unit.2 % 2 ^ 48 < 2 ^ 48 := Nat.mod_lt _ (by decide)
  have hnew : new = fld old 208 304 * 2 ^ 208 + unit.1 % 2 ^ 16 * 2 ^ 192 + unit.2 % 2 ^ 48 * 2 ^ 144 + 2 ^ 139 + scope * 2 ^ 136 +
    fld old 128 5 * 2 ^ 128 := rfl
  rw [hrest] at hnew
  generalize new = new' at hnew ⊢
  generalize old / 2 ^ 208 = rest at *
  generalize fld old 128 5 = cap at *
  generalize unit.1 % 2 ^ 16 = l at *
  generalize unit.2 % 2 ^ 48 = u at *
  clear hold
  have hvalid : bitN new' 139 = true := by simp only [bitN, decide_eq_true_eq]; omega
  simp only [decodeQueue, hvalid, QHeader.mk.injEq, fld, true_and]
  omega

end Sys2Proof.Machine

open Sys2Proof Sys2Proof.Machine

/-- Settles O21: the three instructions by the checks that they pass, a new header by its fields. -/
theorem hardwareQueues : Obligations.HardwareQueues := by
  intro f s t x y h vs
  refine ⟨qpush_completes, qpop_completes, qcreate_completes, fun scope old hscope hold => ?_⟩
  obtain ⟨hfields, hreserved⟩ := s.createHeader_fields hscope hold
  exact ⟨congrArg QHeader.valid hfields, congrArg QHeader.head hfields, congrArg QHeader.tail hfields, congrArg QHeader.scope hfields,
    congrArg QHeader.logcap hfields, congrArg QHeader.launch hfields, congrArg QHeader.unit hfields, hreserved⟩
end

section
/-! Vector integer arithmetic and division (R88, R89, R243, R245): what the frames of these instructions complete with, and the
statements about them. -/

namespace Sys2Proof.Machine

variable {s : State} {f : FmtV} {i : Instr}

/-! ### The frame of a vector instruction (R243) -/

/-- An instruction whose meaning is the frame of R243 gives what the frame computes from its operands. -/
theorem vectorGives_of_exec {g : Guard} {vd : Sel} {ty : Ty} {srcs : List Src} {op r : List Nat → Word64}
    (hexec : exec i s = issue i s (vecBody i g vd ty srcs (fun _ _ l => op l))) (hop : ∀ l, op l = r l) :
    VectorGives i g vd ty srcs (fun _ _ l => r l) s := by
  obtain rfl : op = r := funext hop
  intro t u os hcan hdst hprep hwrite
  exact hexec.trans (issue_ok hcan (vecBody_ok hdst hprep hwrite))

/-! ### Integer results (R88) -/

theorem natCast_two_pow (n : Nat) : ((2 ^ n : Nat) : Int) = 2 ^ n := Int.natCast_pow 2 n

theorem intRes_eq (ty : Ty) (sat : Bool) (x : Int) :
    intRes ty sat x = packTy ty ((if sat then max (intLo ty) (min (intHi ty) x) else x) % 2 ^ ty.width).toNat := by
  simp only [intRes, clampInt, natCast_two_pow]

theorem natAbs_eq_ite_neg (x : Int) : (x.natAbs : Int) = if x < 0 then -x else x := by
  split <;> omega

/-- Integer arithmetic gives its exact result, clamped or wrapped. -/
theorem vectorGives_of_intRes {srcs : List Src} {op r : List Nat → Int}
    (hexec : exec i s = issue i s (vecBody i f.g f.vd f.ty srcs (fun _ _ l => intRes f.ty f.sat (op l)))) (hop : ∀ l, op l = r l) :
    VectorGives i f.g f.vd f.ty srcs
      (fun _ _ l => packTy f.ty ((if f.sat then max (intLo f.ty) (min (intHi f.ty) (r l)) else r l) % 2 ^ f.ty.width).toNat) s :=
  vectorGives_of_exec hexec fun l => by rw [intRes_eq, hop l]

/-! ### Division (R89) -/

section
variable {t u : State} {os : List Opnd} {op : Int → Int → Int} {a b : Nat → Int}

/-- The first of two operands that a thread reads, whether or not it was made ready. -/
theorem readsOf_getD_zero (t : State) (os : List Opnd) (x y : Src) (th : Nat) :
    (readsOf t os [x, y] th).getD 0 0 = (os.getD 0 (.const 0)).read t.cg x.ty th := by
  cases os with
  | nil => simp [readsOf, Opnd.read]
  | cons o os => rfl

/-- The second. -/
theorem readsOf_getD_one (t : State) (os : List Opnd) (x y : Src) (th : Nat) :
    (readsOf t os [x, y] th).getD 1 0 = (os.getD 1 (.const 0)).read t.cg y.ty th := by
  cases os with
  | nil => simp [readsOf, Opnd.read]
  | cons o os => cases os with
    | nil => simp [readsOf, Opnd.read]
    | cons p os => rfl

/-- The active thread of the lowest number whose divisor is zero, where the workgroup traps such a division. -/
def State.zeroDivisor (t : State) (ts : List Nat) (b : Nat → Int) : Option Nat := ts.find? (fun th => t.cw.divtrap && b th == 0)

theorem State.zeroDivisor_none {ts : List Nat} (h : t.cw.divtrap = false ∨ ∀ th ∈ ts, b th ≠ 0) : t.zeroDivisor ts b = none := by
  refine List.find?_eq_none.mpr fun th hth => ?_
  rcases h with hclear | hdivisor
  · simp [hclear]
  · simp [hdivisor th hth]

theorem State.zeroDivisor_some {ts : List Nat} (h : t.cw.divtrap = true) :
    t.zeroDivisor ts b = ts.find? (fun th => b th == 0) := by
  simp only [State.zeroDivisor, h, Bool.true_and]

variable (hdst : s.dstCheck f.vd (regCount f.ty) = .ok s)
  (hprep : s.prepAll i (threads (s.gmask f.g)) [srcA f f.ty, srcB f f.ty] = .ok (t, os))
  (ha : ∀ th, intVal f.ty ((readsOf t os [srcA f f.ty, srcB f f.ty] th).getD 0 0) = a th)
  (hb : ∀ th, intVal f.ty ((readsOf t os [srcA f f.ty, srcB f f.ty] th).getD 1 0) = b th)
include hdst hprep ha hb

/-- The frame of a division looks for a zero divisor before it writes. -/
theorem divBody_eq : divBody i f op s = match t.zeroDivisor (threads (s.gmask f.g)) b with
    | some th => trapThr t cDivide (n64 th) th
    | none => t.writeDst f.vd f.ty.is64 ((t.visit (s.gmask f.g)).map (fun th => (th, intRes f.ty false (op (a th) (b th))))) := by
  obtain rfl : _ = a := funext ha
  obtain rfl : _ = b := funext hb
  simp only [divBody, hdst, hprep, Except.bind, State.zeroDivisor, readsOf_getD_zero, readsOf_getD_one] <;> rfl

theorem divBody_ok (hzero : t.cw.divtrap = false ∨ ∀ th ∈ threads (s.gmask f.g), b th ≠ 0)
    (hwrite : t.writeDst f.vd f.ty.is64
      ((t.visit (s.gmask f.g)).map (fun th => (th, packTy f.ty (op (a th) (b th) % 2 ^ f.ty.width).toNat))) = .ok u) :
    divBody i f op s = .ok u := by
  simp only [divBody_eq hdst hprep ha hb, State.zeroDivisor_none hzero, intRes_eq, Bool.false_eq_true, if_false, hwrite]

theorem divBody_trap {th : Nat} (htrap : t.cw.divtrap = true)
    (hfirst : (threads (s.gmask f.g)).find? (fun th => b th == 0) = some th) :
    divBody i f op s = trapThr t cDivide (n64 th) th := by
  simp only [divBody_eq hdst hprep ha hb, State.zeroDivisor_some htrap, hfirst]

end

end Sys2Proof.Machine

open Sys2Proof Sys2Proof.Machine

/-- Settles O5: each instruction has the exact result that its frame clamps or wraps. -/
theorem vectorIntegerArithmetic : Obligations.VectorIntegerArithmetic := by
  intro f s
  exact ⟨vectorGives_of_intRes rfl fun _ => rfl, vectorGives_of_intRes rfl fun _ => rfl, vectorGives_of_intRes rfl fun _ => rfl,
    vectorGives_of_intRes rfl fun _ => congrArg (_ / ·) (natCast_two_pow _), vectorGives_of_intRes rfl fun _ => rfl,
    vectorGives_of_intRes rfl fun _ => Int.min_def _ _, vectorGives_of_intRes rfl fun _ => Int.max_def _ _,
    vectorGives_of_intRes rfl fun _ => natAbs_eq_ite_neg _, vectorGives_of_intRes rfl fun _ => (Int.zero_sub _).symm,
    vectorGives_of_intRes rfl fun _ => congrArg (· + _) (natAbs_eq_ite_neg _)⟩

/-- Settles O6: the frame of a division traps the first zero divisor that is to be trapped, and else writes quotients or remainders. -/
theorem vectorDivision : Obligations.VectorDivision := by
  intro f s t u os i r hi hcan hdst hprep a b
  obtain ⟨op, hexec, hr⟩ : ∃ op, exec i s = issue i s (divBody i f op) ∧ r = op := by
    rcases hi with ⟨rfl, rfl⟩ | ⟨rfl, rfl⟩
    · exact ⟨quotInt, rfl, rfl⟩
    · exact ⟨remInt, rfl, rfl⟩
  subst hr
  refine ⟨fun hzero hwrite => ?_, fun th htrap hfirst hgroup => ?_⟩
  · exact hexec.trans (issue_ok hcan (divBody_ok hdst hprep (fun _ => rfl) (fun _ => rfl) hzero hwrite))
  · rw [hexec, issue_stop hcan (divBody_trap hdst hprep (fun _ => rfl) (fun _ => rfl) htrap hfirst), Stop.apply, if_neg (by simp [hgroup])]
    rfl
end

section
/-! Vector floating-point arithmetic (R91, R94, R95, R247): which operand a minimum or maximum gives, what the sign operations and the
flush do to a code, and the statement about these instructions. -/

namespace Sys2Proof.Machine

/-! ### Minimum and maximum (R91) -/

section
variable {ty : Ty} {a b : FVal} {x y : Nat} (isMax : Bool)

theorem FVal.not_nan_of_lt (h : a.lt b = true) : a.isNan = false ∧ b.isNan = false := by
  match a, b with
  | .inf _, .inf _ | .inf _, .fin .. | .fin .., .inf _ | .fin .., .fin .. => exact ⟨rfl, rfl⟩

theorem FVal.lt_asymm (h : a.lt b = true) : b.lt a = false := by
  match a, b with
  | .inf s, .inf t =>
    obtain ⟨rfl, rfl⟩ : s = true ∧ t = false := by simpa [FVal.lt] using h
    rfl
  | .inf s, .fin .. => exact (Bool.not_eq_false' (b := s)).mpr h
  | .fin .., .inf s => simpa [FVal.lt] using h
  | .fin s m e, .fin t n d =>
    have hunit : min d e = min e d := Int.min_comm d e
    simp only [FVal.lt, decide_eq_true_eq, decide_eq_false_iff_not, hunit] at h ⊢
    omega

theorem FVal.not_nan_of_zero (h : a.isZero = true) : a.isNan = false := by
  match a with
  | .fin .. => rfl

/-- Zeros are equal, whatever their signs. -/
theorem FVal.zero_not_lt_zero (ha : a.isZero = true) (hb : b.isZero = true) : a.lt b = false := by
  match a, b with
  | .fin s 0 e, .fin t 0 d => simp [FVal.lt, unitsAt]

theorem pickFirst_nan_nan (ha : a.isNan = true) (hb : b.isNan = true) : pickFirst isMax a b = none := by
  simp [pickFirst, ha, hb]

theorem pickFirst_nan_left (ha : a.isNan = true) (hb : b.isNan = false) : pickFirst isMax a b = some false := by
  simp [pickFirst, ha, hb]

theorem pickFirst_nan_right (ha : a.isNan = false) (hb : b.isNan = true) : pickFirst isMax a b = some true := by
  simp [pickFirst, ha, hb]

theorem pickFirst_lt (h : a.lt b = true) : pickFirst isMax a b = some !isMax := by
  obtain ⟨ha, hb⟩ := FVal.not_nan_of_lt h
  simp [pickFirst, ha, hb, h]

theorem pickFirst_gt (h : b.lt a = true) : pickFirst isMax a b = some isMax := by
  obtain ⟨hb, ha⟩ := FVal.not_nan_of_lt h
  simp [pickFirst, ha, hb, h, FVal.lt_asymm h]

/-- Of two zeros the first is taken where its sign is the one that is looked for. -/
theorem pickFirst_zeros (ha : a.isZero = true) (hb : b.isZero = true) : pickFirst isMax a b = some (a.sign != isMax) := by
  simp only [pickFirst, FVal.not_nan_of_zero ha, FVal.not_nan_of_zero hb, FVal.zero_not_lt_zero ha hb, FVal.zero_not_lt_zero hb ha, ha,
    Bool.and_self, Bool.false_eq_true, if_false, if_true]
  cases isMax <;> cases a.sign <;> rfl

/-- FMIN and FMAX give the operand that is picked. -/
theorem minMaxCode_of_pick {p : Bool} (h : pickFirst isMax (decTy ty x) (decTy ty y) = some p) :
    minMaxCode ty isMax x y = flushCode ty (if p then x else y) := by
  cases p <;> simp [minMaxCode, h]

theorem minMaxCode_of_nans (hx : (decTy ty x).isNan = true) (hy : (decTy ty y).isNan = true) :
    minMaxCode ty isMax x y = (ffmt ty).canonical := by
  simp only [minMaxCode, pickFirst_nan_nan isMax hx hy]

end

/-! ### Signs and flushes (R94, R247) -/

/-- In the types that have a floating-point format the sign is the top bit. -/
theorem ffmt_sign {ty : Ty} (h : ty.isFloat = true) : (ffmt ty).ew + (ffmt ty).mw = ty.width - 1 := by
  cases ty <;> revert h <;> decide

/-- A field is zero where what lies up to its top lies below it. -/
theorem fld_eq_zero_iff (x k n : Nat) : fld x k n = 0 ↔ x % 2 ^ (n + k) < 2 ^ k := by
  rw [fld, ← Nat.mod_mul_right_div_self, Nat.div_eq_zero_iff_lt (Nat.two_pow_pos k), ← Nat.pow_add, Nat.add_comm k n]

/-- The flush of a 16-bit type by the magnitude of the code. -/
theorem flushCode_eq {ty : Ty} (h : ty.isFloat = true) (x : Nat) :
    flushCode ty x = if (ty = .f16 ∨ ty = .bf16) ∧ x % 2 ^ (ty.width - 1) < 2 ^ (ffmt ty).mw
      then x / 2 ^ (ty.width - 1) * 2 ^ (ty.width - 1) else x := by
  simp only [flushCode, Bool.and_eq_true, Bool.or_eq_true, beq_iff_eq, fld_eq_zero_iff, ffmt_sign h]

/-- FABS clears the sign bit. -/
theorem signOp_abs {ty : Ty} (h : ty.isFloat = true) (x : Nat) :
    signOp ty false x = if (decTy ty x).isNan then (ffmt ty).canonical else flushCode ty (x % 2 ^ (ty.width - 1)) := by
  simp only [signOp, ffmt_sign h, Bool.false_and, Bool.false_eq_true, if_false, Nat.add_zero]

/-- FNEG flips it. -/
theorem signOp_neg {ty : Ty} (h : ty.isFloat = true) (x : Nat) :
    signOp ty true x = if (decTy ty x).isNan then (ffmt ty).canonical else
      flushCode ty (if x / 2 ^ (ty.width - 1) % 2 = 1 then x % 2 ^ (ty.width - 1) else x % 2 ^ (ty.width - 1) + 2 ^ (ty.width - 1)) := by
  simp only [signOp, ffmt_sign h, Bool.true_and, bitN]
  by_cases hbit : x / 2 ^ (ty.width - 1) % 2 = 1
  · simp only [hbit, decide_true, Bool.not_true, Bool.false_eq_true, if_false, if_true, Nat.add_zero]
  · simp only [hbit, decide_false, Bool.not_false, if_true, if_false]

/-- A vector instruction that completes has the fields that it accepts. -/
theorem vectorGives_of_wf {s : State} {i : Instr} {g : Guard} {vd : Sel} {ty : Ty} {srcs : List Src} {r : State → Nat → List Nat → Word64}
    (h : i.wf = true → VectorGives i g vd ty srcs r s) : VectorGives i g vd ty srcs r s := by
  intro t u os hcan
  obtain ⟨-, -, hwf, -⟩ := id hcan
  exact h hwf t u os hcan

/-- FABS and FNEG take the floating-point types of vector arithmetic. -/
theorem isFloat_of_floatTys {f : FmtV} {n : Nat} (h : WellFormed.arith f WellFormed.floatTys n = true) : f.ty.isFloat = true := by
  simp only [WellFormed.arith, Bool.and_eq_true, and_assoc] at h
  obtain ⟨hty, -⟩ := h
  revert hty
  cases f.ty <;> decide

end Sys2Proof.Machine

open Sys2Proof Sys2Proof.Machine

/-- Settles O8: arithmetic by the frame that rounds its exact result; the four code operations by the operand that is picked, the sign
bit and the flush. -/
theorem vectorFloat : Obligations.VectorFloat := by
  refine ⟨fun f s => ?_, fun f s => ?_⟩
  · exact ⟨vectorGives_of_exec rfl fun _ => rfl, vectorGives_of_exec rfl fun _ => rfl, vectorGives_of_exec rfl fun _ => rfl,
      vectorGives_of_exec rfl fun _ => rfl, vectorGives_of_exec rfl fun _ => rfl, vectorGives_of_exec rfl fun _ => rfl⟩
  · intro d sign nan out
    have hflush (hfloat : f.ty.isFloat = true) : flushCode f.ty = out := funext (flushCode_eq hfloat)
    refine ⟨vectorGives_of_exec rfl fun _ => rfl, vectorGives_of_exec rfl fun _ => rfl, fun hfloat isMax a b => ?_,
      vectorGives_of_wf fun hwf => ?_, vectorGives_of_wf fun hwf => ?_⟩
    · rw [← hflush hfloat]
      refine ⟨fun ⟨ha, hb⟩ => minMaxCode_of_nans isMax ha hb, fun ⟨ha, hb⟩ => minMaxCode_of_pick isMax (pickFirst_nan_left isMax ha hb),
        fun ⟨ha, hb⟩ => minMaxCode_of_pick isMax (pickFirst_nan_right isMax ha hb), fun hlt => ?_,
        fun hgt => minMaxCode_of_pick isMax (pickFirst_gt isMax hgt), fun ⟨ha, hb⟩ _ => ?_⟩
      · rw [minMaxCode_of_pick isMax (pickFirst_lt isMax hlt)]
        cases isMax <;> rfl
      · rw [minMaxCode_of_pick isMax (pickFirst_zeros isMax ha hb)]
        by_cases hsign : (d a).sign = isMax
        · simp [d, hsign]
        · rw [if_neg hsign, if_pos (bne_iff_ne.mpr hsign)]
    · have hfloat := isFloat_of_floatTys hwf
      rw [← hflush hfloat]
      exact vectorGives_of_exec rfl fun _ => congrArg (packTy f.ty) (signOp_abs hfloat _)
    · have hfloat := isFloat_of_floatTys hwf
      rw [← hflush hfloat]
      exact vectorGives_of_exec rfl fun _ => congrArg (packTy f.ty) (signOp_neg hfloat _)
end

section
/-! FRINT and CVT (R93, R95, R251): the frame of an instruction that rounds in mode RND, and what it does to one element. -/

namespace Sys2Proof.Machine

variable {s : State} {f : FmtV} {i : Instr} {srcTy : Ty}

/-- An instruction whose meaning is the frame of R93 gives its operation of each element, threads drawing in ascending order. -/
theorem drawGives_of_exec {op r : Nat → BitVec 32 → Word64 × BitVec 32} (hexec : exec i s = issue i s (drawBody i f srcTy op))
    (hop : ∀ x sr, op x sr = r x sr) : DrawGives i f srcTy r s := by
  obtain rfl : op = r := funext fun x => funext (hop x)
  intro t u os vals sr hcan hdst hprep hdraw hwrite
  refine hexec.trans (issue_ok hcan ?_)
  simp only [drawBody, hdst, hprep, hdraw, hwrite, Except.bind]

/-- The value is neither an infinity nor a NaN. -/
def FVal.isFinite : FVal → Bool
  | .fin _ _ _ => true
  | _ => false

/-- A finite value draws once in mode 4, and nothing else draws. -/
theorem drawFor_eq (mode : Rnd) (v : FVal) (sr : BitVec 32) :
    drawFor mode v sr = if mode = .rs ∧ v.isFinite then (srBits (srNext sr), srNext sr) else (0, sr) := by
  cases mode <;> cases v <;> simp [drawFor, FVal.isFinite]

section
variable {st dt : Ty} (mode : Rnd) (sat : Bool) (x : Nat) (sr : BitVec 32)

theorem cvtElem_int_int (hst : st.isInt = true) (hdt : dt.isInt = true) : cvtElem st dt mode sat x sr = (intRes dt sat (intVal st x), sr) := by
  simp only [cvtElem, hst, hdt, if_true]

theorem cvtElem_int_float (hst : st.isInt = true) (hdt : dt.isInt = false) : cvtElem st dt mode sat x sr =
    (packTy dt (convTo dt mode (drawFor mode (ofIntF (intVal st x)) sr).1 (ofIntF (intVal st x))), (drawFor mode (ofIntF (intVal st x)) sr).2) := by
  simp only [cvtElem, hst, hdt, if_true, Bool.false_eq_true, if_false]

theorem cvtElem_float_int (hst : st.isInt = false) (hdt : dt.isInt = true) : cvtElem st dt mode sat x sr =
    (intRes dt false ((decTy st x).toIntSat mode (drawFor mode (decTy st x) sr).1 (intLo dt) (intHi dt)), (drawFor mode (decTy st x) sr).2) := by
  simp only [cvtElem, hst, hdt, if_true, Bool.false_eq_true, if_false]

theorem cvtElem_widens (hst : st.isInt = false) (hdt : dt.isInt = false) (hw : widens st dt = true) : cvtElem st dt mode sat x sr =
    (packTy dt ((ffmt dt).roundWide .rne 0 (decTy st x)), sr) := by
  simp only [cvtElem, hst, hdt, hw, if_true, Bool.false_eq_true, if_false]

theorem cvtElem_rounds (hst : st.isInt = false) (hdt : dt.isInt = false) (hw : widens st dt = false) : cvtElem st dt mode sat x sr =
    (packTy dt (convTo dt mode (drawFor mode (decTy st x) sr).1 (decTy st x)), (drawFor mode (decTy st x) sr).2) := by
  simp only [cvtElem, hst, hdt, hw, Bool.false_eq_true, if_false]

end

end Sys2Proof.Machine

open Sys2Proof Sys2Proof.Machine

/-- Settles O9: FRINT and CVT by their frame, CVT of each pair of types by its own case of one element. -/
theorem roundingConversions : Obligations.RoundingConversions := by
  intro f s fin draws st dt
  have hdraws (v : FVal) (sr : BitVec 32) : drawFor f.rnd v sr = draws v sr := drawFor_eq f.rnd v sr
  simp only [← hdraws]
  refine ⟨drawGives_of_exec rfl fun _ _ => rfl, fun hst hdt => ?_, fun hst hdt => ?_, fun hst hdt => ?_, fun hst hdt hw => ?_,
    fun hst hdt hw => ?_⟩
  · exact drawGives_of_exec rfl fun x sr => cvtElem_int_int _ _ x sr hst hdt
  · exact drawGives_of_exec rfl fun x sr => cvtElem_int_float _ _ x sr hst hdt
  · refine drawGives_of_exec rfl fun x sr => (cvtElem_float_int _ _ x sr hst hdt).trans ?_
    simp only [intRes, Bool.false_eq_true, if_false, natCast_two_pow, st, dt]
  · exact drawGives_of_exec rfl fun x sr => cvtElem_widens _ _ x sr hst hdt hw
  · exact drawGives_of_exec rfl fun x sr => cvtElem_rounds _ _ x sr hst hdt hw
end

section
/-! CVTS and MERGE (R99, R121, R252, R258): what they complete with once their registers exist. -/

namespace Sys2Proof.Machine

variable {s : State} {f : FmtV} {d a b : Fin 192}

theorem cvts_completes {res : List (Nat × Nat × Nat)} {cv : Word64} {sr : BitVec 32} (hvd : f.vd = .v d) (hsa : f.sa = .v a)
    (hcan : s.CanIssue (.cvts f)) (hdst : s.rangeCheck f.vd 2 = .ok s) (hsrc : s.rangeCheck f.sa 4 = .ok s)
    (hdraw : drawAll (fun th (st : Word64 × BitVec 32) =>
      let b := cvtsBlock f.ty f.rnd ((List.range 4).map (fun k => (s.cg.vreg (a.val + k) th).toNat)) st.1 st.2
      ((th, b.1), b.2)) (threads (s.gmask f.g)) (s.cg.cvstate, s.cg.srstate) = (res, cv, sr)) :
    Completes (.cvts f) s (s.modCg (fun g => { (res.foldl (fun (g : Group) e =>
      (g.setV d.val e.1 (BitVec.ofNat 32 e.2.1)).setV (d.val + 1) e.1 (BitVec.ofNat 32 e.2.2)) g) with cvstate := cv, srstate := sr })) := by
  refine issue_ok hcan ?_
  rw [hvd] at hdst
  rw [hsa] at hsrc
  simp only [cvtsBody, hvd, hsa, hdst, hsrc, Except.bind, hdraw]

theorem merge_completes (hvd : f.vd = .v d) (hsa : f.sa = .v a) (hsb : f.sb = .v b) (hcan : s.CanIssue (.merge f))
    (hdst : s.rangeCheck f.vd 3 = .ok s) (hsrcA : s.rangeCheck f.sa 3 = .ok s) (hsrcB : s.rangeCheck f.sb 3 = .ok s) :
    let x (r : Fin 192) (k th : Nat) : Nat := (s.cg.vreg (r.val + k) th).toNat
    let res := (threads (s.gmask f.g)).map (fun th => (th, mergeTriple (x a 0 th) (x a 1 th) (x a 2 th) (x b 0 th) (x b 1 th) (x b 2 th)))
    Completes (.merge f) s (s.modCg (fun g => res.foldl (fun g e =>
      ((g.setV d.val e.1 (BitVec.ofNat 32 e.2.1)).setV (d.val + 1) e.1 (BitVec.ofNat 32 e.2.2.1)).setV (d.val + 2) e.1
        (BitVec.ofNat 32 e.2.2.2)) g)) := by
  refine issue_ok hcan ?_
  rw [hvd] at hdst
  rw [hsa] at hsrcA
  rw [hsb] at hsrcB
  simp only [mergeBody, hvd, hsa, hsb, hdst, hsrcA, hsrcB, Except.bind]

end Sys2Proof.Machine

open Sys2Proof Sys2Proof.Machine

/-- Settles O13: both instructions by the checks that they pass. -/
theorem blockConversions : Obligations.BlockConversions :=
  ⟨fun _ _ _ _ _ _ _ => cvts_completes, fun _ _ _ _ _ => merge_completes⟩
end

section
/-! Matrix operations (R101 to R112, R260, R261): the checks that nothing stops, what MMA, MMAS and DMMA complete with, and the statement
about them. -/

namespace Sys2Proof.Machine

variable {s : State} {f : FmtX}

/-! ### Checks that nothing stops (R33, R46, R111) -/

theorem MatSrc.rangeCheck_ok {x : MatSrc} {n : Nat} (h : x.pair = false → x.op + n ≤ s.cg.mside) : x.rangeCheck n s = .ok s := by
  refine if_neg ?_
  cases hpair : x.pair
  · simpa [hpair] using h hpair
  · simp

theorem MatSrc.pairCheck_ok {x : MatSrc} (h : x.pair = true → pairOk x.d0 x.d1 = true) : x.pairCheck s = .ok s := by
  refine if_neg ?_
  cases hpair : x.pair
  · simp
  · simp [h hpair]

theorem State.tileCheck_ok {n : Nat} (h : n < s.cg.tiles) : s.tileCheck n = .ok s := if_neg (Nat.not_le.mpr h)

theorem State.lowestCheck_ok {l : List Nat} {size : Nat} (h : ∀ o ∈ l, o < size) :
    s.lowestCheck (l.filter (fun o => decide (size ≤ o))) = .ok s := by
  have hnone : l.filter (fun o => decide (size ≤ o)) = [] := by simpa using h
  rw [hnone, State.lowestCheck]

theorem Workgroup.marked_nil {w : Workgroup} (h : w.winPoison = []) (l : List Nat) : w.marked l = [] := by
  simp [Workgroup.marked, h]

/-! ### Partial steps and lists -/

/-- A check that passes hands its state on. -/
theorem bind_of_ok {α β : Type} {x : Except Stop α} {k : α → Except Stop β} {a : α} {r : Except Stop β} (hx : x = .ok a) (hk : k a = r) :
    x.bind k = r := by
  rw [hx]
  exact hk

theorem map_zipIdx_map_range {α β : Type} (n : Nat) (h : Nat → α) (k : α × Nat → β) :
    ((List.range n).map h).zipIdx.map k = (List.range n).map (fun j => k (h j, j)) :=
  List.ext_getElem (by simp) fun i _ _ => by simp

theorem forall_mem_flatten_map {l : List Nat} {k : Nat → List Nat} {p : Nat → Prop} (h : ∀ r ∈ l, ∀ o ∈ k r, p o) :
    ∀ o ∈ (l.map k).flatten, p o := by
  simpa using fun o r hr ho => h r hr o ho

/-! ### The sparsity queue (R112) -/

/-- The state with `n` entries of the issuer's sparsity queue taken. -/
def State.takeSpq (s : State) (n : Nat) : State := s.modCg (fun g => { g with spq := g.spq.drop n })

theorem State.takeSpq_zero (s : State) : s.takeSpq 0 = s := by
  have hid : (fun g : Group => if g.gid = s.cur.gid then { g with spq := g.spq.drop 0 } else g) = id := by
    funext g
    exact ite_self g
  simp only [State.takeSpq, State.modCg, State.modGroup, mapGroup, hid, List.map_id]

theorem State.takeSpq_cg (s : State) (n : Nat) : (s.takeSpq n).cg = { s.cg with spq := s.cg.spq.drop n } :=
  s.modCg_eq (h := fun g => { g with spq := g.spq.drop n }) (fun _ => rfl) (fun _ => rfl) (by simp [blankGroup])

theorem State.takeSpq_cw (s : State) (n : Nat) : (s.takeSpq n).cw = s.cw := by
  show (s.takeSpq n).wg (s.takeSpq n).cg.wid = s.wg s.cg.wid
  rw [State.takeSpq_cg]
  rfl

/-- Entries of the sparsity queue that an operation takes. -/
def spqTaken (f : FmtX) (sparse : Bool) : Nat := if sparse then 2 ^ f.wcls.val else 0

/-! ### Elements of MMA and MMAS (R101, R260) -/

/-- The factors that `u` holds in row `t` of A, by their position k. -/
def State.mmaFactors (s : State) (f : FmtX) (sparse : Bool) (u : State) (t : Nat) : List (Nat × FVal) :=
  if sparse then expandRow ((s.matCase f sparse).row u t) (s.cg.spq.take (spqTaken f sparse)) t
  else ((s.matCase f sparse).row u t).zipIdx.map (fun (x, k) => (k, x))

/-- What the operation makes of the accumulator word of row `t` and column `j`, its operands as `u` holds them. -/
def State.mmaElem (s : State) (f : FmtX) (sparse : Bool) (u : State) (t j : Nat) : Nat :=
  let c := s.matCase f sparse
  let d := (u.cg.accWord f.acc.val t j).toNat
  if c.fb.af = 4 then intElem (c.col u j) (s.mmaFactors f sparse u t) d
  else fpElem (c.col u j) (chunksOf (8 * 2 ^ f.wcls.val) (c.ne / (8 * 2 ^ f.wcls.val)) (s.mmaFactors f sparse u t)) d

/-- A row or column lies outside the sparsity queue. -/
theorem MatSrc.bytes_takeSpq (x : MatSrc) (w : Workgroup) (n r : Nat) : x.bytes (s.takeSpq n).cg w r = x.bytes s.cg w r := by
  rw [State.takeSpq_cg]
  rfl

theorem State.accWord_takeSpq (n tile row col : Nat) : (s.takeSpq n).cg.accWord tile row col = s.cg.accWord tile row col := by
  rw [State.takeSpq_cg]
  rfl

theorem State.mmaElem_takeSpq (f : FmtX) (sparse : Bool) (n t j : Nat) : s.mmaElem f sparse (s.takeSpq n) t j = s.mmaElem f sparse s t j := by
  simp only [State.mmaElem, State.mmaFactors, MatCase.row, MatCase.col, MatSrc.bytes_takeSpq, State.accWord_takeSpq, State.takeSpq_cw]

/-- The accumulator words that the operation writes. -/
def State.mmaWords (s : State) (f : FmtX) (sparse : Bool) : List (Nat × Word32) :=
  ((threads (s.gmask f.g)).map (fun t => (List.range 64).map (fun j =>
    (accKey f.acc.val t j, BitVec.ofNat 32 (s.mmaElem f sparse s t j))))).flatten

/-- The group with the words of a matrix operation written and the operation counted. -/
def Group.addMatrix (g : Group) (words : List (Nat × Word32)) (op : MatOp) : Group := { g.putAcc words with matrix := g.matrix ++ [op] }

theorem Group.addMatrix_congr (g : Group) {words words' : List (Nat × Word32)} {op op' : MatOp} (hwords : words = words') (hop : op = op') :
    g.addMatrix words op = g.addMatrix words' op' := by
  rw [hwords, hop]

/-- No word is free where nothing is poisoned (R108). -/
theorem Workgroup.no_mark {w : Workgroup} (h : w.winPoison = []) (k l : List Nat) :
    ¬(!(w.marked k).isEmpty || !(w.marked l).isEmpty) = true := by
  simp [Workgroup.marked_nil h]

/-- The mark that a matrix operation keeps is the least poisoned offset that it reads; here it reads none. -/
theorem lowestMark_none {w : Workgroup} (h : w.winPoison = []) (k l : List Nat) : (match w.marked k ++ w.marked l with
    | [] => none
    | o :: m => some (n64 (m.foldl min o))) = none := by
  simp only [Workgroup.marked_nil h, List.append_nil]

/-- Each check of R111 passes by its own lemma; the words are then compared row by row and column by column. -/
theorem mmaBody_ok {sparse : Bool} (h : s.MatReady f sparse) :
    mmaBody f sparse s = .ok (if threads (s.gmask f.g) = [] then s.takeSpq (spqTaken f sparse)
      else (s.takeSpq (spqTaken f sparse)).modCg (fun g => g.addMatrix (s.mmaWords f sparse) {})) := by
  obtain ⟨⟨haRange, haPair, haUnits⟩, ⟨hbRange, hbPair, hbUnits⟩, htile, hfmt, haScale, hbScale, hspq, hpoison⟩ := h
  have haIn := forall_mem_flatten_map fun t ht => List.forall_mem_append.mpr ⟨haUnits t ht, haScale t ht⟩
  have hbIn := forall_mem_flatten_map fun j hj => List.forall_mem_append.mpr ⟨hbUnits j hj, hbScale j (List.mem_range.mp hj)⟩
  have hlow := s.lowestCheck_ok (List.forall_mem_append.mpr ⟨haIn, hbIn⟩)
  have hgrant : ¬(sparse && !s.cg.sparse) = true := by
    cases hs : sparse
    · simp
    · simp [(hspq hs).1]
  have hsupply : ¬s.cg.spq.length < spqTaken f sparse := by
    cases hs : sparse
    · simp [spqTaken]
    · simpa [spqTaken] using (hspq hs).2
  have hclean : (s.takeSpq (spqTaken f sparse)).cw.winPoison = [] := by rw [State.takeSpq_cw, hpoison]
  refine bind_of_ok (MatSrc.rangeCheck_ok haRange) (bind_of_ok (MatSrc.rangeCheck_ok hbRange) (bind_of_ok (State.tileCheck_ok htile)
    (bind_of_ok (MatSrc.pairCheck_ok haPair) (bind_of_ok (MatSrc.pairCheck_ok hbPair) ?_))))
  refine (if_neg (by simp [hfmt])).trans (bind_of_ok hlow ((if_neg hgrant).trans ((if_neg hsupply).trans ?_)))
  by_cases hts : threads (s.gmask f.g) = []
  · exact (if_pos (List.isEmpty_iff.mpr hts)).trans (by rw [if_pos hts]; rfl)
  · refine (if_neg (mt List.isEmpty_iff.mp hts)).trans ?_
    rw [if_neg hts]
    refine congrArg Except.ok (congrArg (State.modCg _) (funext fun g => Group.addMatrix_congr g ?_ ?_))
    · refine congrArg List.flatten (List.map_congr_left fun t _ => (map_zipIdx_map_range 64 _ _).trans (List.map_congr_left fun j _ => ?_))
      exact Prod.ext rfl ((if_neg (Workgroup.no_mark hclean _ _)).trans (congrArg (BitVec.ofNat 32) (State.mmaElem_takeSpq f sparse _ t j)))
    · exact congrArg (fun low => ({ poison := low } : MatOp)) (lowestMark_none hclean _ _)

theorem mma_completes (hcan : s.CanIssue (.mma f)) (hready : s.MatReady f false) :
    Completes (.mma f) s (if threads (s.gmask f.g) = [] then s else s.modCg (fun g => g.addMatrix (s.mmaWords f false) {})) := by
  have hbody := mmaBody_ok hready
  rw [show spqTaken f false = 0 from rfl, State.takeSpq_zero] at hbody
  exact issue_ok hcan hbody

/-! ### DMMA (R102, R104, R261) -/

/-- An FP64 element as its pair of accumulator words. -/
def dmmaPair (f : FmtX) (t j : Nat) (x : Word64) : List (Nat × Word32) :=
  [(accKey (f.acc.val + j / 32) t (2 * (j % 32)), x.setWidth 32), (accKey (f.acc.val + j / 32) t (2 * (j % 32) + 1), (x >>> 32).setWidth 32)]

/-- The element of row `t` and column `j` after the operation, and whether a step meets a subnormal. -/
def State.dmmaElem (s : State) (f : FmtX) (t j : Nat) : Nat × Bool :=
  let d := (s.cg.accWord (f.acc.val + j / 32) t (2 * (j % 32) + 1) ++ s.cg.accWord (f.acc.val + j / 32) t (2 * (j % 32))).toNat
  dmmaSteps ((doubles ((s.matSrc f.sA f.aop 32).bytes s.cg s.cw t)).zip (doubles ((s.matSrc f.sB f.bop 32).bytes s.cg s.cw j))) d (sub64 d)

/-- The words of every element, each with whether it needs the assist. -/
def State.dmmaResults (s : State) (f : FmtX) : List (List (Nat × Word32) × Bool) :=
  ((threads (s.gmask f.g)).map (fun t => (List.range 64).map (fun j =>
    (dmmaPair f t j (n64 (s.dmmaElem f t j).1), (s.dmmaElem f t j).2)))).flatten

/-- The accumulator words that the operation writes. -/
def State.dmmaWords (s : State) (f : FmtX) : List (Nat × Word32) :=
  ((threads (s.gmask f.g)).map (fun t => ((List.range 64).map (fun j => dmmaPair f t j (n64 (s.dmmaElem f t j).1))).flatten)).flatten

/-- Some step of an active row meets a subnormal. -/
def State.dmmaAssist (s : State) (f : FmtX) : Bool :=
  (threads (s.gmask f.g)).any (fun t => (List.range 64).any (fun j => (s.dmmaElem f t j).2))

theorem State.dmmaResults_words (s : State) (f : FmtX) : ((s.dmmaResults f).map Prod.fst).flatten = s.dmmaWords f := by
  simp only [State.dmmaResults, State.dmmaWords, List.map_flatten, List.map_map, List.flatten_flatten, Function.comp_def]

theorem State.dmmaResults_any (s : State) (f : FmtX) : (s.dmmaResults f).any Prod.snd = s.dmmaAssist f := by
  simp only [State.dmmaResults, State.dmmaAssist, List.any_flatten, List.any_map, Function.comp_def]

/-- The state after the operation: the words are written, or wait for the assist. -/
def State.dmmaDone (s : State) (f : FmtX) : State :=
  if s.dmmaAssist f then s.modCg (fun g => { g with matrix := g.matrix ++ [{ assist := some (s.dmmaWords f) }] })
  else s.modCg (fun g => g.addMatrix (s.dmmaWords f) {})

/-- The last step of DMMA, from the results of all elements. -/
theorem dmmaDone_of_results {res : List (List (Nat × Word32) × Bool)} {low : Option Word64} (hres : res = s.dmmaResults f) (hlow : low = none) :
    (if res.any Prod.snd then
      (.ok (s.modCg (fun g => { g with matrix := g.matrix ++ [{ poison := low, assist := some (res.map Prod.fst).flatten }] })) : Exec)
    else .ok (s.modCg (fun g => g.addMatrix (res.map Prod.fst).flatten { poison := low }))) = .ok (s.dmmaDone f) := by
  rw [hres, hlow, State.dmmaResults_any, State.dmmaResults_words, State.dmmaDone, apply_ite Except.ok]

theorem dmmaBody_ok (ha : s.MatSrcOk (s.matSrc f.sA f.aop 32) 1 (threads (s.gmask f.g)))
    (hb : s.MatSrcOk (s.matSrc f.sB f.bop 32) 1 (List.range 64)) (htiles : f.acc.val + 1 < s.cg.tiles) (hclean : s.cw.winPoison = [])
    (hactive : threads (s.gmask f.g) ≠ []) : dmmaBody f s = .ok (s.dmmaDone f) := by
  obtain ⟨haRange, haPair, haUnits⟩ := ha
  obtain ⟨hbRange, hbPair, hbUnits⟩ := hb
  have hlow := s.lowestCheck_ok (List.forall_mem_append.mpr ⟨forall_mem_flatten_map haUnits, forall_mem_flatten_map hbUnits⟩)
  refine bind_of_ok (MatSrc.rangeCheck_ok haRange) (bind_of_ok (MatSrc.rangeCheck_ok hbRange) (bind_of_ok (State.tileCheck_ok (by omega))
    (bind_of_ok (State.tileCheck_ok htiles) (bind_of_ok (MatSrc.pairCheck_ok haPair) (bind_of_ok (MatSrc.pairCheck_ok hbPair)
      (bind_of_ok hlow ((if_neg (mt List.isEmpty_iff.mp hactive)).trans (dmmaDone_of_results ?_ (lowestMark_none hclean _ _)))))))))
  refine congrArg List.flatten (List.map_congr_left fun t _ => (map_zipIdx_map_range 64 _ _).trans (List.map_congr_left fun j _ => ?_))
  exact congrArg (fun x => (dmmaPair f t j x, (s.dmmaElem f t j).2)) (if_neg (Workgroup.no_mark hclean _ _))

end Sys2Proof.Machine

open Sys2Proof Sys2Proof.Machine

/-- Settles O22: each operation by the checks that it passes and the accumulator words that it makes. -/
theorem matrixOperations : Obligations.MatrixOperations :=
  ⟨fun _ _ => mma_completes, fun _ _ hcan hready => issue_ok hcan (mmaBody_ok hready),
    fun _ _ hcan ha hb htiles hclean hactive => issue_ok hcan (dmmaBody_ok ha hb htiles hclean hactive)⟩
end
